-- ==== Sys2Proof/Word.lean ====
section
/-! DEFINITION. The word types of the part and their plainest arithmetic (R4, R5, R70). -/

namespace Sys2Proof

/-- A byte of memory. -/
abbrev Byte := BitVec 8

/-- A 32-bit slot word or lane. -/
abbrev Word32 := BitVec 32

/-- A scalar register. -/
abbrev Word64 := BitVec 64

/-- A 256-bit register, block or sector. -/
abbrev Reg256 := BitVec 256

/-- A tile entry (R84). -/
abbrev Word128 := BitVec 128

/-- An array of the package: die, cluster and array as `ARRAYID` gives them (R127). -/
abbrev ArrayId := Fin 32

/-- The modulus of the touchmark, 2^31 - 1 (R373). -/
def markPrime : Nat := 2147483647

end Sys2Proof
end

