-- ==== Sys2Proof/Syntax.lean ====
section
/-! DEFINITION. The operations of the part as data: one constructor of `Instr` for each row of the
opcode table. The first 188 are the words of the eight bundle slots (R38 to R53); the other 96 are the
operations and events of the part that have no word, and their arguments name the agent or entry
that moves and carry the inputs from outside. -/

namespace Sys2Proof

/-- R41, R112: the scopes of an access, narrowest first. -/
inductive Scope where
  | ar | cl | pk | dm
  deriving DecidableEq, Repr

/-- R42: the condition codes of `CMP` and `CMPI`; codes 6 and 7 are illegal. -/
inductive Cc where
  | eq | ne | lt | ge | lo | hs
  deriving DecidableEq, Repr

/-- R42, R132: the field `CAPINFO` reads. -/
inductive CapField where
  | base | len | rights | tag
  deriving DecidableEq, Repr

/-- R44: the width codes of `LD` and `ST`, named by their suffix. -/
inductive Width where
  | d64 | i8 | z8 | f16 | i32 | z32
  deriving DecidableEq, Repr

/-- R45: the roles a bank can take. -/
inductive Role where
  | cache | scratch | operand
  deriving DecidableEq, Repr

/-- R45, R245: the swizzle views of a SCRATCH bank. -/
inductive View where
  | noswz | swz16 | swz32
  deriving DecidableEq, Repr

/-- R46: the skew codes of a feeder pop. -/
inductive Skew where
  | noskew | skew | rskew
  deriving DecidableEq, Repr

/-- R46, R51: lane widths of 4, 8, 16 and 32 bits. -/
inductive LaneW where
  | w4 | w8 | w16 | w32
  deriving DecidableEq, Repr

/-- R48: the sources a cell operand code names. -/
inductive Src where
  | f (k : Fin 16) | h | v | nh | nv | sh | sv | eh | ev | wh | wv | zero | word (k : Fin 4) | coord
  deriving DecidableEq, Repr

/-- R48: the destinations a cell operand code names. -/
inductive Dst where
  | f (k : Fin 16) | h | v | word (k : Fin 4)
  deriving DecidableEq, Repr

/-- R49: the format codes 0 to 12. -/
inductive Fmt where
  | f32 | bf16 | f16 | e4m3 | e5m2 | e3m2 | e2m3 | e2m1 | i8 | z8 | i4 | i32 | z32
  deriving DecidableEq, Repr

/-- R49: the element codes 0 to 7. -/
inductive Elem where
  | f32 | bf16 | f16 | i32 | z32 | i8 | z8 | i4
  deriving DecidableEq, Repr

/-- R49: the rounding codes 0 to 4. -/
inductive Rnd where
  | rne | rtz | rdn | rup | sr
  deriving DecidableEq, Repr

/-- R51: the condition codes of the cell forms; codes 6 and 7 are illegal. -/
inductive CellCc where
  | eq | ne | lt | le | gt | ge
  deriving DecidableEq, Repr

/-- R51, R200: what `RNG` writes. -/
inductive RngKind where
  | raw | uniform | gaussian
  deriving DecidableEq, Repr

/-- R51, R205: the lane classes of `TMK`, in code order. -/
inductive TmkClass where
  | i4 | i8 | z8 | i32 | z32 | h16 | fp8 | e2m1
  deriving DecidableEq, Repr

/-- R53, R221: the aggregates `AGG.RD` reads. -/
inductive AggKind where
  | rowor | rowand | color | coland | all
  deriving DecidableEq, Repr

/-- R344: what a fatal context error records beside its context. -/
structure FatalInfo where
  /-- Subcause 1 to 9. -/
  subcause : BitVec 16
  /-- Agent code of bytes 24 to 31: 0 sequencer, 1 stream, 2 feeder, 3 collector, 4 tongs, 5 command processor, 6 walker. -/
  agent : BitVec 8
  obj : BitVec 24
  /-- Object offset or page index; the expected mark of a restore fault. -/
  offset : BitVec 64
  /-- The sequencer that met it, if any. -/
  array : Option (Fin 32)
  /-- `XSW` for subcauses 5 to 8; the observed mark of a restore fault. -/
  xsw : BitVec 64
  /-- Address of the bundle that raised it, or that was due. -/
  pc : BitVec 48
  /-- `TASKID` of the task that met it, 0 when none did. -/
  tid : BitVec 32
  /-- Chunk ID and kind of a restore fault, else zero. -/
  chunk : BitVec 64
  kind : BitVec 8
  deriving DecidableEq, Repr

/-- R354, R344: the failure a restore meets: the chunk, its kind (1 to 3) and its marks. -/
structure RestoreFault where
  chunk : BitVec 64
  kind : BitVec 8
  expected : BitVec 64
  observed : BitVec 64
  deriving DecidableEq, Repr

/-- R354: what a read of a chunk of an image finds wrong: an error that cannot be corrected, or bits of the payload or of
the header that are not as they were written. -/
inductive ImageFlaw where
  | uncorrectable
  | payload (flipped : BitVec 32768)
  | header (flipped : BitVec 256)
  deriving DecidableEq, Repr

/-- R354: an error met in one of the two passes of a restore: the member, its chunk, and whether the load pass meets it. -/
structure ImageError where
  member : Fin 4
  chunk : Nat
  inLoad : Bool
  flaw : ImageFlaw
  deriving DecidableEq, Repr

/-- R364, R365: one chunk arriving at the switch from a member package, as the wire delivers it. -/
structure Contribution where
  pkg : BitVec 10
  chunk : Nat
  payload : BitVec 32768
  poisoned : Bool
  /-- The header that travels with it (R371). -/
  mark : BitVec 64
  producer : BitVec 32
  hopCount : BitVec 8
  lastHop : BitVec 16
  deriving DecidableEq, Repr

/-- R399: one firmware image as the security root finds it. -/
structure FirmwareImage where
  /-- The `READY` bit of the function the image belongs to (R398). -/
  func : Fin 64
  digest : BitVec 256
  /-- Whether the signature verifies under a key whose hash is fused. -/
  signed : Bool
  version : BitVec 32
  deriving DecidableEq, Repr

/-- R274: what an access from another package asks of this package's link port. An atomic operation is numbered in the
order of R145 and R146: ADD, AND, OR, XOR, MIN, MAX, MINZ, MAXZ, SWAP, CAS, FADD. -/
inductive RemoteOp where
  | load
  | store (data : BitVec 256) (poisoned : Bool)
  | atomic (op : Fin 11) (data cmp : BitVec 64)
  /-- R376, R396: a whole chunk that a tongs copy writes to a MARKED object: the header it carries, its payload and its
  poisoned sectors. -/
  | chunk (header : BitVec 256) (payload : BitVec 32768) (poisoned : List (Fin 128))
  deriving DecidableEq, Repr

/-- R320: the classes of messages, from the lowest to the highest. -/
inductive MsgClass where
  | flt | rsp | wb | sync | red | req
  deriving DecidableEq, Repr

/-- R383: an uncorrectable error that a read meets: none, one of the bank or slice that holds the sector, or one of the
flit that carries it. -/
inductive ReadError where
  | clean | stored | flit
  deriving DecidableEq, Repr

/-- R196, R383: a part of a cell in which an uncorrectable error is found. -/
inductive CellPart where
  | word (w : Fin 512) | f (k : Fin 16) | h | v | tile (t : Fin 4) | ckpt (t : Fin 4)
  deriving DecidableEq, Repr

/-- R274, R396: an access packet from another package. -/
structure RemoteAccess where
  /-- R396: the destination package, and the class that the packet is sent at. -/
  dest : BitVec 10
  cls : MsgClass
  domainCtx : BitVec 12
  obj : BitVec 24
  offset : BitVec 48
  /-- log2 of the access size in bytes, 0 to 5. -/
  size : Fin 6
  /-- R266: the access is a stream's, or a tongs copy's. -/
  stream : Bool
  copy : Bool
  op : RemoteOp
  /-- R382, R383: how often the unit that serves it mismatches, and the error that a read of it meets. -/
  mismatches : Fin 3
  bad : ReadError
  deriving DecidableEq, Repr

/-- R391, R392: where a host access goes: an offset in HBM, one in the memory behind a host die, or one in the register
block. -/
inductive HostPlace where
  | hbm (offset : BitVec 40)
  | behind (die : BitVec 4) (offset : BitVec 40)
  | register (offset : BitVec 20)
  deriving DecidableEq, Repr

/-- The operations of the part: one constructor per row of the opcode table. In the slot forms `p` is
the predicate field (R40), `n` and `m` of a WAVE form are beats - 1 and the column mask (R47). -/
inductive Instr where
  /-- R38: the all-zero word of any slot. -/
  | nop
  /-- R107. Unconditional branch to PC plus 32 times the signed 22-bit offset. -/
  | br (p : Fin 8) (off : BitVec 22)
  /-- R107. Branches when predicate Pn equals the sense bit. -/
  | brp (p n : Fin 8) (sense : Bool) (off : BitVec 18)
  /-- R107. Jumps to the byte offset held in Sa. -/
  | jmpi (p : Fin 8) (a : Fin 32)
  /-- R107. Pushes PC + 32 on the return stack and branches, trapping on stack overflow. -/
  | call (p : Fin 8) (off : BitVec 22)
  /-- R107. Pops the return stack and branches to the popped address, trapping on underflow. -/
  | ret (p : Fin 8)
  /-- R111. Loads a loop counter with the trip count in Sa and records the loop's start and end, skipping the body on a count of zero. -/
  | loop (p : Fin 8) (l : Fin 4) (a : Fin 32) (off : BitVec 15)
  /-- R111. Decrements the loop counter and branches back to the loop start while the count exceeds one. -/
  | endloop (p : Fin 8) (l : Fin 4)
  /-- R109. Branches on the array-wide OR or AND of a cell flag compared against the sense bit. -/
  | flagbr (p : Fin 8) (g : Fin 4) (all sense : Bool) (off : BitVec 18)
  /-- R112. Sets the scope of the MEM form in the same bundle. -/
  | scope (p : Fin 8) (s : Scope)
  /-- R113. Holds the bundle until every member of the sync group is ready, then all members issue together. -/
  | sync (p : Fin 8) (g : BitVec 8)
  /-- R114. Acts as SYNC 0 with issue aligned to a PTIME multiple of 4,096 and resets the chain links to their nominal delays. -/
  | realign (p : Fin 8)
  /-- R115. Freezes the array for exactly n array cycles. -/
  | freeze (p : Fin 8) (n : BitVec 16)
  /-- R116. Holds the bundle, freezing the array, until the stream holds at least n blocks. -/
  | swait (p : Fin 8) (q : Fin 16) (n : BitVec 10)
  /-- R117. Commits the phase: checkpoints the tiles, increments PHNUM, clears PHDIRTY and records the commit point. -/
  | phase (p : Fin 8)
  /-- R118. Rolls the array back to its last phase commit, or raises phase replay unsafe when PHDIRTY is set. -/
  | phcancel (p : Fin 8)
  /-- R119. Marks a retirement point: reloads RETLEFT and parks the sequencer if a pre-emption or switch request is pending. -/
  | retire (p : Fin 8)
  /-- R121. Sets the chain-lease count CLEASE to n. -/
  | lease (p : Fin 8) (n : BitVec 21)
  /-- R235. Ends the chain lease and returns the tail arrays to the command processor. -/
  | lfree (p : Fin 8)
  /-- R123. Requests a bellows lease at a sprint level for ms milliseconds; the answer lands in Pd. -/
  | sprint (p d : Fin 8) (level : BitVec 2) (ms : BitVec 14)
  /-- R123. Ends the task's bellows lease at once without a lease-expiry trap. -/
  | sprfree (p : Fin 8)
  /-- R122. Queues a request to the die power governor for standing leave of class c for n active cycles. -/
  | leave (p : Fin 8) (c : BitVec 2) (n : BitVec 20)
  /-- R124. Raises the in-task user trap with a 16-bit code. -/
  | trap (p : Fin 8) (code : BitVec 16)
  /-- R125. Leaves handler mode and re-enters the interrupted bundle at its slot-resume slot. -/
  | xret (p : Fin 8)
  /-- R124. Raises the in-task breakpoint trap with a 16-bit code. -/
  | brk (p : Fin 8) (code : BitVec 16)
  /-- R127. Reads a control and status register into Sd. -/
  | csrr (p : Fin 8) (d : Fin 32) (c : BitVec 12)
  /-- R127. Writes Sa to a control and status register. -/
  | csrw (p : Fin 8) (a : Fin 32) (c : BitVec 12)
  /-- R127. ORs the bits of Sa into a control and status register. -/
  | csrs (p : Fin 8) (a : Fin 32) (c : BitVec 12)
  /-- R127. Clears the bits set in Sa in a control and status register. -/
  | csrc (p : Fin 8) (a : Fin 32) (c : BitVec 12)
  /-- R126. Ends the sequencer's part in the task; it fetches no further bundle. -/
  | tend (p : Fin 8)
  /-- R128. Scalar addition modulo 2^64. -/
  | add (p : Fin 8) (d a b : Fin 32)
  /-- R128. Scalar subtraction modulo 2^64. -/
  | sub (p : Fin 8) (d a b : Fin 32)
  /-- R128. Low 64 bits of the scalar product. -/
  | mul (p : Fin 8) (d a b : Fin 32)
  /-- R128. High 64 bits of the signed 128-bit product. -/
  | mulh (p : Fin 8) (d a b : Fin 32)
  /-- R128. High 64 bits of the unsigned 128-bit product. -/
  | mulhz (p : Fin 8) (d a b : Fin 32)
  /-- R128. Bitwise AND of two scalar registers. -/
  | and (p : Fin 8) (d a b : Fin 32)
  /-- R128. Sa AND NOT Sb. -/
  | andn (p : Fin 8) (d a b : Fin 32)
  /-- R128. Bitwise OR of two scalar registers. -/
  | or (p : Fin 8) (d a b : Fin 32)
  /-- R128. Bitwise XOR of two scalar registers. -/
  | xor (p : Fin 8) (d a b : Fin 32)
  /-- R128. Scalar shift left by Sb[5:0]. -/
  | shl (p : Fin 8) (d a b : Fin 32)
  /-- R128. Scalar logical shift right. -/
  | shr (p : Fin 8) (d a b : Fin 32)
  /-- R128. Scalar arithmetic shift right. -/
  | sar (p : Fin 8) (d a b : Fin 32)
  /-- R128. Scalar rotate left. -/
  | rotl (p : Fin 8) (d a b : Fin 32)
  /-- R128. Signed scalar minimum. -/
  | min (p : Fin 8) (d a b : Fin 32)
  /-- R128. Signed scalar maximum. -/
  | max (p : Fin 8) (d a b : Fin 32)
  /-- R128. Unsigned scalar minimum. -/
  | minz (p : Fin 8) (d a b : Fin 32)
  /-- R128. Unsigned scalar maximum. -/
  | maxz (p : Fin 8) (d a b : Fin 32)
  /-- R128. Counts leading zero bits of Sa. -/
  | clz (p : Fin 8) (d a : Fin 32)
  /-- R128. Counts trailing zero bits of Sa. -/
  | ctz (p : Fin 8) (d a : Fin 32)
  /-- R128. Counts the one bits of Sa. -/
  | popc (p : Fin 8) (d a : Fin 32)
  /-- R128. Copies Sa to Sd. -/
  | mov (p : Fin 8) (d a : Fin 32)
  /-- R129. Adds a signed 12-bit immediate to Sa. -/
  | addi (p : Fin 8) (d a : Fin 32) (i : BitVec 12)
  /-- R129. Loads a sign-extended 17-bit immediate. -/
  | li (p : Fin 8) (d : Fin 32) (i : BitVec 17)
  /-- R129. Replaces the 16-bit field k of Sd with imm16, keeping the other bits. -/
  | lui (k : Fin 4) (p : Fin 8) (d : Fin 32) (i : BitVec 16)
  /-- R130. Compares two scalar registers under a condition code and writes Pd. -/
  | cmp (p d : Fin 8) (cc : Cc) (a b : Fin 32)
  /-- R130. Compares Sa with a sign-extended immediate and writes Pd. -/
  | cmpi (p d : Fin 8) (cc : Cc) (a : Fin 32) (i : BitVec 11)
  /-- R130. Selects Sa or Sb by predicate Pa. -/
  | sel (p : Fin 8) (d : Fin 32) (pa : Fin 8) (a b : Fin 32)
  /-- R130. Sets Pd to bit (2·Pa + Pb) of a 4-bit table. -/
  | plog (p d pa pb : Fin 8) (t : BitVec 4)
  /-- R131. Narrows a capability's window to offset Sa and length Sb. -/
  | capnarrow (p : Fin 8) (d h : Fin 16) (a b : Fin 32)
  /-- R131. Removes rights from a capability. -/
  | capoff (p : Fin 8) (d h : Fin 16) (rm : BitVec 8)
  /-- R132. Reads the base, length, rights or tag of a capability into Sd. -/
  | capinfo (p : Fin 8) (d : Fin 32) (h : Fin 16) (f : CapField)
  /-- R131. Clears the valid tag of a capability register. -/
  | capdrop (p : Fin 8) (d : Fin 16)
  /-- R134. Loads a column mask from Sa. -/
  | maskld (p d : Fin 8) (a : Fin 32)
  /-- R134. Rotates a column mask left by Sa[5:0]. -/
  | maskrot (p d ma : Fin 8) (a : Fin 32)
  /-- R141. Loads 1, 2, 4 or 8 bytes through a capability into Sd, extended by width; a noise capability returns Gaussian noise. -/
  | ld (p : Fin 8) (d : Fin 32) (h : Fin 16) (o : Fin 32) (w : Width) (i : BitVec 5)
  /-- R141. Stores the low bytes of Sv through a capability. -/
  | st (p : Fin 8) (v : Fin 32) (h : Fin 16) (o : Fin 32) (w : Width) (i : BitVec 5)
  /-- R141. Loads 16 bytes into the register pair Sd, Sd+1. -/
  | ldp (p : Fin 8) (d : Fin 32) (h : Fin 16) (o : Fin 32) (i : BitVec 5)
  /-- R141. Stores the register pair Sv, Sv+1 as 16 bytes. -/
  | stp (p : Fin 8) (v : Fin 32) (h : Fin 16) (o : Fin 32) (i : BitVec 5)
  /-- R147. Places a marker in both queues ordering earlier loads and stores before later ones at array scope. -/
  | mark (p : Fin 8)
  /-- R148. Acts as MARK and also waits for earlier accesses to be performed at the named scope. -/
  | fence (p : Fin 8) (s : Scope)
  /-- R145. Atomic add at the memory-side agent, returning the old value. -/
  | amoAdd (p : Fin 8) (d : Fin 32) (h : Fin 16) (o v : Fin 32) (w : Bool)
  /-- R145. Atomic AND, returning the old value. -/
  | amoAnd (p : Fin 8) (d : Fin 32) (h : Fin 16) (o v : Fin 32) (w : Bool)
  /-- R145. Atomic OR, returning the old value. -/
  | amoOr (p : Fin 8) (d : Fin 32) (h : Fin 16) (o v : Fin 32) (w : Bool)
  /-- R145. Atomic XOR, returning the old value. -/
  | amoXor (p : Fin 8) (d : Fin 32) (h : Fin 16) (o v : Fin 32) (w : Bool)
  /-- R145. Atomic signed minimum, returning the old value. -/
  | amoMin (p : Fin 8) (d : Fin 32) (h : Fin 16) (o v : Fin 32) (w : Bool)
  /-- R145. Atomic signed maximum, returning the old value. -/
  | amoMax (p : Fin 8) (d : Fin 32) (h : Fin 16) (o v : Fin 32) (w : Bool)
  /-- R145. Atomic unsigned minimum, returning the old value. -/
  | amoMinz (p : Fin 8) (d : Fin 32) (h : Fin 16) (o v : Fin 32) (w : Bool)
  /-- R145. Atomic unsigned maximum, returning the old value. -/
  | amoMaxz (p : Fin 8) (d : Fin 32) (h : Fin 16) (o v : Fin 32) (w : Bool)
  /-- R145. Atomic swap, returning the old value. -/
  | amoSwap (p : Fin 8) (d : Fin 32) (h : Fin 16) (o v : Fin 32) (w : Bool)
  /-- R145. Atomic compare-and-swap against Sd, returning the old value in Sd. -/
  | cas (p : Fin 8) (d : Fin 32) (h : Fin 16) (o v : Fin 32) (w : Bool)
  /-- R146. Memory-side add with no return value. -/
  | redAdd (p : Fin 8) (h : Fin 16) (o v : Fin 32) (w : Bool)
  /-- R146. Memory-side AND with no return value. -/
  | redAnd (p : Fin 8) (h : Fin 16) (o v : Fin 32) (w : Bool)
  /-- R146. Memory-side OR with no return value. -/
  | redOr (p : Fin 8) (h : Fin 16) (o v : Fin 32) (w : Bool)
  /-- R146. Memory-side XOR with no return value. -/
  | redXor (p : Fin 8) (h : Fin 16) (o v : Fin 32) (w : Bool)
  /-- R146. Memory-side signed minimum with no return value. -/
  | redMin (p : Fin 8) (h : Fin 16) (o v : Fin 32) (w : Bool)
  /-- R146. Memory-side signed maximum with no return value. -/
  | redMax (p : Fin 8) (h : Fin 16) (o v : Fin 32) (w : Bool)
  /-- R146. Memory-side FP32 add, rounded RNE, with no return value. -/
  | redFadd (p : Fin 8) (h : Fin 16) (o v : Fin 32)
  /-- R150. Discards the stream buffer, sets the position to 0, marks the stream binding and reads its descriptor. -/
  | strmBind (p : Fin 8) (q h : Fin 16) (o : Fin 32) (hd : Fin 16)
  /-- R152. Skips the next Sa blocks of a stream's pattern. -/
  | strmAdv (p : Fin 8) (q : Fin 16) (a : Fin 32)
  /-- R152. Reads the number of blocks buffered and not yet taken. -/
  | strmLvl (p : Fin 8) (d : Fin 32) (q : Fin 16)
  /-- R152. Discards the stream buffer and sets the position to block 0. -/
  | strmRew (p : Fin 8) (q : Fin 16)
  /-- R162. Reads a 64-byte parameter block into a direct tongs context's shadow set. -/
  | cpySet (p : Fin 8) (n h : Fin 16) (o : Fin 32)
  /-- R162. Gives the shadow copy the next operation number and starts or arms it. -/
  | cpyGo (p : Fin 8) (n : Fin 16)
  /-- R161. Raises the released stage of a scheduled tongs context. -/
  | cpyStage (p : Fin 8) (n : Fin 16) (s : BitVec 6)
  /-- R164. Discards cached copies of a parameter block. -/
  | cpbinv (p : Fin 8) (i : BitVec 8)
  /-- R166. Enters the load queue and waits for a timeline counter to reach Sa. -/
  | tlWait (p : Fin 8) (d : Fin 32) (t : Fin 20) (a : Fin 32)
  /-- R166. Reads a timeline counter's value. -/
  | tlRead (p : Fin 8) (d : Fin 32) (t : Fin 20)
  /-- R167. Releasing increment of the sequencer's own SQ timeline. -/
  | tlBump (p : Fin 8)
  /-- R169. Initialises a barrier object with an expected count of Sa. -/
  | barInit (p : Fin 8) (a : Fin 32) (b : BitVec 8)
  /-- R170. Sends an arrival of the issuing member to a barrier object. -/
  | barArr (p : Fin 8) (b : BitVec 8)
  /-- R170. Sends an arrival that also drops the member from later phases. -/
  | barDrop (p : Fin 8) (b : BitVec 8)
  /-- R172. Adds Sa expected transaction bytes to a barrier's TX. -/
  | barXp (p : Fin 8) (a : Fin 32) (b : BitVec 8)
  /-- R173. Enters the load queue and waits for the member's barrier phase to complete. -/
  | barWait (p : Fin 8) (d : Fin 32) (b : BitVec 8)
  /-- R173. Sets Pd if the member's last arrival phase has completed. -/
  | barTest (p : Fin 8) (b : BitVec 8) (d : Fin 8)
  /-- R174. Releasing signal of event e in the context's event table. -/
  | evSig (p : Fin 8) (e : BitVec 16)
  /-- R175. Reads a launch record and submits it to the device-side queue. -/
  | tlaunch (p : Fin 8) (h : Fin 16) (o : Fin 32)
  /-- R176. Asks the walkers whether a range is resident and pins it. -/
  | probe (p d : Fin 8) (h : Fin 16) (o l : Fin 32)
  /-- R177. Removes the task's pins on a range. -/
  | unpin (p : Fin 8) (h : Fin 16) (o l : Fin 32)
  /-- R177. Asks the command processor to stage a CAPACITY range into HBM. -/
  | prefetch (p : Fin 8) (h : Fin 16) (o l : Fin 32)
  /-- R177. Writes back and releases the unpinned HBM pages of a CAPACITY range. -/
  | evict (p : Fin 8) (h : Fin 16) (o l : Fin 32)
  /-- R178. Releasing request to change a granted bank's role and view. -/
  | role (p : Fin 8) (n : Fin 32) (r : Role) (v : View)
  /-- R206. North feeder pops 64 blocks per beat from a stream into its output registers. -/
  | fnPop (p : Fin 8) (q : Fin 16) (k : Skew) (n : Fin 16)
  /-- R208. North feeder pop with a transpose within groups of blocks. -/
  | fnPopt (p : Fin 8) (q : Fin 16) (k : Skew) (l : LaneW) (n : Fin 16)
  /-- R206. North feeder writes zero to every output register. -/
  | fnZero (p : Fin 8) (n : Fin 16)
  /-- R207. North feeder rewrites every register with its own value, advancing tags. -/
  | fnHold (p : Fin 8)
  /-- R206. North feeder broadcasts one block to every register per beat. -/
  | fnBcast (p : Fin 8) (q n : Fin 16)
  /-- R207. Sets the north feeder's next pop number. -/
  | fnTag (p : Fin 8) (a : Fin 32)
  /-- R206. Sets the north feeder's standing rotation. -/
  | fnSkew (p : Fin 8) (k : BitVec 6)
  /-- R206. West feeder pops 64 blocks per beat from a stream into its output registers. -/
  | fwPop (p : Fin 8) (q : Fin 16) (k : Skew) (n : Fin 16)
  /-- R208. West feeder pop with a transpose. -/
  | fwPopt (p : Fin 8) (q : Fin 16) (k : Skew) (l : LaneW) (n : Fin 16)
  /-- R206. West feeder writes zero to every output register. -/
  | fwZero (p : Fin 8) (n : Fin 16)
  /-- R207. West feeder rewrites every register with its own value. -/
  | fwHold (p : Fin 8)
  /-- R206. West feeder broadcasts one block per beat. -/
  | fwBcast (p : Fin 8) (q n : Fin 16)
  /-- R207. Sets the west feeder's next pop number. -/
  | fwTag (p : Fin 8) (a : Fin 32)
  /-- R206. Sets the west feeder's standing rotation. -/
  | fwSkew (p : Fin 8) (k : BitVec 6)
  /-- R184. Cell copy of a 256-bit operand. -/
  | waveMov (n : Fin 16) (m : Fin 8) (d : Dst) (a : Src) (e : Elem)
  /-- R184. Writes a 10-bit immediate into every lane. -/
  | movi (n : Fin 16) (m : Fin 8) (d : Dst) (i : BitVec 10) (e : Elem)
  /-- R185. Lane-wise addition in the cells. -/
  | waveAdd (n : Fin 16) (m : Fin 8) (d : Dst) (a b : Src) (e : Elem)
  /-- R185. Lane-wise subtraction. -/
  | waveSub (n : Fin 16) (m : Fin 8) (d : Dst) (a b : Src) (e : Elem)
  /-- R185. Lane-wise multiplication. -/
  | waveMul (n : Fin 16) (m : Fin 8) (d : Dst) (a b : Src) (e : Elem)
  /-- R185. Lane-wise fused multiply-add into d. -/
  | fma (n : Fin 16) (m : Fin 8) (d : Dst) (a b : Src) (e : Elem)
  /-- R185. Lane-wise minimum. -/
  | waveMin (n : Fin 16) (m : Fin 8) (d : Dst) (a b : Src) (e : Elem)
  /-- R185. Lane-wise maximum. -/
  | waveMax (n : Fin 16) (m : Fin 8) (d : Dst) (a b : Src) (e : Elem)
  /-- R186. Lane-wise absolute value. -/
  | abs (n : Fin 16) (m : Fin 8) (d : Dst) (a : Src) (e : Elem)
  /-- R186. Lane-wise negation. -/
  | neg (n : Fin 16) (m : Fin 8) (d : Dst) (a : Src) (e : Elem)
  /-- R188. Sets a cell flag to the OR over lanes of a comparison. -/
  | waveCmp (n : Fin 16) (m : Fin 8) (cc : CellCc) (g : Fin 4) (a b : Src) (e : Elem)
  /-- R188. Selects a or b by a cell flag. -/
  | selg (n : Fin 16) (m : Fin 8) (d : Dst) (a b : Src) (g : Fin 4)
  /-- R187. Bitwise AND of cell registers. -/
  | waveAnd (n : Fin 16) (m : Fin 8) (d : Dst) (a b : Src) (e : Elem)
  /-- R187. Bitwise OR of cell registers. -/
  | waveOr (n : Fin 16) (m : Fin 8) (d : Dst) (a b : Src) (e : Elem)
  /-- R187. Bitwise XOR of cell registers. -/
  | waveXor (n : Fin 16) (m : Fin 8) (d : Dst) (a b : Src) (e : Elem)
  /-- R187. Lane-wise shift left. -/
  | waveShl (n : Fin 16) (m : Fin 8) (d : Dst) (a b : Src) (e : Elem)
  /-- R187. Lane-wise logical shift right. -/
  | waveShr (n : Fin 16) (m : Fin 8) (d : Dst) (a b : Src) (e : Elem)
  /-- R187. Lane-wise arithmetic shift right. -/
  | waveSar (n : Fin 16) (m : Fin 8) (d : Dst) (a b : Src) (e : Elem)
  /-- R190. Packs the low halves of two registers' lanes into narrower lanes. -/
  | pack (n : Fin 16) (m : Fin 8) (d : Dst) (a b : Src) (l : LaneW)
  /-- R190. Zero-extends one half of a register's lanes into wider lanes. -/
  | unpk (n : Fin 16) (m : Fin 8) (d : Dst) (a : Src) (hi : Bool) (l : LaneW)
  /-- R192. Accumulates a matrix fragment product into a tile, optionally passing the operands on. -/
  | mma (n : Fin 16) (m : Fin 8) (pass : Bool) (t : Fin 4) (a b : Src) (f : Fmt)
  /-- R192. Zeroes the tile, then accumulates a fragment product. -/
  | mmaz (n : Fin 16) (m : Fin 8) (pass : Bool) (t : Fin 4) (a b : Src) (f : Fmt)
  /-- R193. Accumulates block-scaled fragment products into a W128 tile. -/
  | mmas (n : Fin 16) (m : Fin 8) (pass : Bool) (t : Fin 4) (a b : Src) (f : Fmt)
  /-- R195. Zeroes a tile and sets its mode, clearing overflow and poison. -/
  | accz (n : Fin 16) (m : Fin 8) (t : Fin 4) (w128 : Bool)
  /-- R195. Loads a tile's entries from 8 cell-store words. -/
  | accld (n : Fin 16) (m : Fin 8) (t k : Fin 4)
  /-- R195. Stores a tile's entries to 8 cell-store words. -/
  | accst (n : Fin 16) (m : Fin 8) (t k : Fin 4)
  /-- R197. Loads a cell-store word and post-increments the index. -/
  | lds (n : Fin 16) (m : Fin 8) (d : Dst) (k : Fin 4) (i : BitVec 5)
  /-- R197. Stores to a cell-store word and post-increments the index. -/
  | sts (n : Fin 16) (m : Fin 8) (k : Fin 4) (a : Src) (i : BitVec 5)
  /-- R197. Sets a cell-store index register. -/
  | kset (n : Fin 16) (m : Fin 8) (k : Fin 4) (i : BitVec 9)
  /-- R197. Adds a signed immediate to a cell-store index register. -/
  | kadd (n : Fin 16) (m : Fin 8) (k : Fin 4) (i : BitVec 10)
  /-- R198. Permutes lanes by index lanes. -/
  | perm (n : Fin 16) (m : Fin 8) (d : Dst) (a b : Src) (l : LaneW)
  /-- R198. Transposes a 4 × (L/4) lane layout. -/
  | xpose (n : Fin 16) (m : Fin 8) (d : Dst) (a : Src) (l : LaneW)
  /-- R198. Builds d from halves, quarters or words of a and b by pattern. -/
  | shuf (n : Fin 16) (m : Fin 8) (d : Dst) (a b : Src) (pat : Fin 8)
  /-- R199. Lane-wise FP32 base-2 exponential by the fixed sequence. -/
  | exp2 (n : Fin 16) (m : Fin 8) (d : Dst) (a : Src)
  /-- R199. Lane-wise FP32 base-2 logarithm. -/
  | log2 (n : Fin 16) (m : Fin 8) (d : Dst) (a : Src)
  /-- R199. Lane-wise FP32 reciprocal. -/
  | rcp (n : Fin 16) (m : Fin 8) (d : Dst) (a : Src)
  /-- R199. Lane-wise FP32 reciprocal square root. -/
  | rsq (n : Fin 16) (m : Fin 8) (d : Dst) (a : Src)
  /-- R200. Writes raw, uniform or Gaussian draws of the draw function. -/
  | rng (n : Fin 16) (m : Fin 8) (d : Dst) (kind : RngKind) (dom : Fin 8)
  /-- R201. Fills d with domain-1 Gaussian values keyed by cell coordinates. -/
  | noise (n : Fin 16) (m : Fin 8) (d : Dst) (e : Elem)
  /-- R202. Exact inner product of lanes written to lane 0. -/
  | dot (n : Fin 16) (m : Fin 8) (d : Dst) (a b : Src) (e : Elem)
  /-- R203. Exact sum of a's lanes written to lane 0. -/
  | sumr (n : Fin 16) (m : Fin 8) (d : Dst) (a : Src) (e : Elem)
  /-- R204. Inclusive running sums carrying in the last lane of b. -/
  | prefixSum (n : Fin 16) (m : Fin 8) (d : Dst) (a b : Src) (e : Elem)
  /-- R188. Sets a cell flag to the AND over lanes of a comparison with zero. -/
  | flag (n : Fin 16) (m : Fin 8) (cc : CellCc) (g : Fin 4) (a : Src) (e : Elem)
  /-- R188. Sets a cell flag to a constant. -/
  | gset (n : Fin 16) (m : Fin 8) (g : Fin 4) (v : Bool)
  /-- R205. Advances a running touchmark over a register's elements. -/
  | tmk (n : Fin 16) (m : Fin 8) (d : Dst) (a b : Src) (cls : TmkClass)
  /-- R189. Converts lanes between formats with one rounding. -/
  | cvt (f : Fmt) (n : Fin 16) (m : Fin 8) (d : Dst) (a : Src) (src : Fmt) (r : Rnd)
  /-- R194. Drains a tile into a register with optional scale, dropout and residual, rounded once. -/
  | drain (f : Fmt) (n : Fin 16) (m : Fin 8) (s x dr : Bool) (t : Fin 4) (a : Dst) (b : Fin 16) (r : Rnd)
  /-- R213. Sets the row-selector word from Sa and its mode. -/
  | rsSet (p : Fin 8) (travel : Bool) (a : Fin 32)
  /-- R213. Sets the row-selector word to all ones. -/
  | rsAll (p : Fin 8)
  /-- R213. Sets the row-selector word to zero. -/
  | rsNone (p : Fin 8)
  /-- R213. Sets the row-selector word to one row. -/
  | rsRow (p : Fin 8) (i : Fin 64)
  /-- R213. Sets the row-selector word to a band of rows. -/
  | rsBand (p : Fin 8) (lo hi : Fin 64)
  /-- R214. East collector captures column 63's H on each beat and pushes the blocks to an output stream. -/
  | ecPush (p : Fin 8) (q n : Fin 16)
  /-- R214. South collector captures row 63's V on each beat and pushes the blocks. -/
  | scPush (p : Fin 8) (q n : Fin 16)
  /-- R216. Keeps the EDGE slot busy for n beats, capturing nothing. -/
  | ecDisc (p : Fin 8) (n : Fin 16)
  /-- R218. Offers one key and payload pair per row to the top-k sorter on each beat. -/
  | ecTopk (p : Fin 8) (n : Fin 16)
  /-- R217. Empties the sorter and sets k, key format and order. -/
  | tkInit (p : Fin 8) (k : BitVec 8) (f : Fmt) (low : Bool)
  /-- R219. Takes ranked-pair blocks from a stream and offers them to the sorter. -/
  | tkMerge (p : Fin 8) (q : Fin 16)
  /-- R220. Pushes the sorter list in rank order to an output stream. -/
  | tkRead (p : Fin 8) (q : Fin 16)
  /-- R220. Writes the sorter's entry count to Sd. -/
  | tkCnt (p : Fin 8) (d : Fin 32)
  /-- R221. Reads a row, column or array aggregate of a cell flag into Sd. -/
  | aggRd (p : Fin 8) (d : Fin 32) (g : Fin 4) (k : AggKind)
  /-- R222. Captures column 63's touchmark partials and pushes the finished mark. -/
  | ecTmk (p : Fin 8) (q : Fin 16)
  /-- R223. Selects whether a chain has one south collector or one per array. -/
  | scChain (p : Fin 8) (on : Bool)
  /-- R19. A pending load's value lands in its register and clears its pending bit, or leaves it unchanged and raises poison consumption.
  `id`: the queue entry and the error that its read meets (R383). -/
  | loadLands (a : Fin 32) (id : Nat × ReadError)
  /-- R115. The FREEZE count of array cycles runs out and the array resumes. -/
  | freezeEnd (a : Fin 32)
  /-- R113. The wired-AND sync line releases and every member issues its SYNC or REALIGN bundle. -/
  | syncRelease (a : Fin 32)
  /-- R150. A stream descriptor arrives, is checked, and the stream becomes bound or unbound.
  `q`: the stream, and the errors that the reads of the two halves meet (R383). -/
  | streamDescriptorArrives (a : Fin 32) (q : Fin 16 × ReadError × ReadError)
  /-- R151. The stream engine fetches the next block of the pattern into the buffer.
  `q`: the stream, the error that its read meets and the buffered blocks with errors of their own (R383). -/
  | streamFetch (a : Fin 32) (q : Fin 16 × ReadError × List Nat)
  /-- R162. A parameter block read by CPY.SET arrives in the context and is checked and loaded.
  `id`: the queue entry, and the errors that the reads of the two halves meet (R383). -/
  | copyBlockArrives (a : Fin 32) (id : Nat × ReadError × ReadError)
  /-- R161. A scheduled entry starts once the previous entry has completed and its stage is released.
  `tc`: the context, and the errors that the reads of the two halves of its block meet (R383). -/
  | scheduledCopyStart (cl : Fin 8) (tc : Fin 16 × ReadError × ReadError)
  /-- R159. A copy completes: data visible, bytes posted, record written, timeline advanced, and an armed shadow copy starts.
  `mismatch`: whether the tongs address unit mismatches twice, and of the first move the error that its read meets and
  how often the bank unit that it writes to mismatches (R382, R383). -/
  | copyCompletes (cl : Fin 8) (tc : Fin 16) (sectors : Nat) (mismatch : Bool × ReadError × Fin 3)
  /-- R166. A timeline counter reaches the waited value and the wait lands. -/
  | tlWaitLands (a : Fin 32) (id : Nat)
  /-- R292. A barrier form reaches the bank unit and is applied to the object in arrival order.
  `id`: the queue entry and how often the bank unit mismatches (R382). -/
  | barrierFormApplied (a : Fin 32) (id : Nat × Fin 3)
  /-- R173. The waited barrier phase completes and the wait lands. -/
  | barWaitLands (a : Fin 32) (id : Nat)
  /-- R251. A store reaches its home and enters the location's coherence order.
  `id`: the queue entry, how often the unit mismatches (R382) and whether its flit has an error (R383). -/
  | storeArrivesAtHome (a : Fin 32) (id : Nat × Fin 3 × Bool)
  /-- R144. The atomic agent applies an AMO, CAS or RED to its address in arrival order.
  `mismatches`: how often the unit mismatches (R382), and the error that the access meets (R383). -/
  | atomicApplied (a : Fin 32) (id : Nat) (mismatches : Fin 3 × ReadError)
  /-- R375. A touchmark change message reaches the chunk's header home and is added mod P. -/
  | markChangeArrives (k : Nat)
  /-- R249. A dirty line is written back through a reserved entry or around to the controller. -/
  | writeBack (cl : Fin 8) (line : Nat)
  /-- R178. The bank unit stops accepting accesses, drains, writes back caches, unbinds streams and sets the new role. -/
  | roleChangeApplied (a : Fin 32) (id : Nat)
  /-- R176. The walkers answer a PROBE, pinning the range or answering 0. -/
  | probeAnswer (a : Fin 32) (id : Nat) (timeout : Bool)
  /-- R285. The new home finishes the copy, applies held accesses in order and the descriptor becomes RESIDENT. -/
  | relocationCopyComplete (ctx : BitVec 12) (obj : BitVec 24) (page : BitVec 48)
  /-- R286. An agent receives a moved answer and re-sends the access and its later accesses to the new home. -/
  | movedAnswer (a : Fin 32) (id : Nat)
  /-- R288. The old home copies one sector and advances the retirement cursor. -/
  | pageRetirementStep (ctx : BitVec 12) (obj : BitVec 24) (page : BitVec 48)
  /-- R120. RETLEFT reaches zero, raising the retirement overdue trap and reloading the interval. -/
  | retirementOverdue (a : Fin 32)
  /-- R339. At a bundle boundary the highest-priority pending trap is taken and the handler is entered. -/
  | trapTaken (a : Fin 32)
  /-- R346. A pipeline error or poison consumption cancels the phase at a boundary. -/
  | automaticCancel (a : Fin 32) (checker : Option Bool)
  /-- R118. After issued steps complete, tiles, streams and tongs contexts are restored to the commit point. -/
  | phaseRollback (a : Fin 32)
  /-- R126. All completion conditions hold; signals are sent and status 3 is written. -/
  | taskCompletes (tid : BitVec 32)
  /-- R297. The command processor reads a submission-queue entry and its launch record. -/
  | queueEntryRead (q : Fin 64)
  /-- R309. An event's signalled bit is set and every waiter is released. -/
  | eventSignal (ctx : BitVec 12) (name : BitVec 16)
  /-- R283. A task's working set becomes resident and pinned and the task becomes READY. -/
  | stagingComplete (tid : BitVec 32)
  /-- R305. The command processor places a READY task whole on free arrays. -/
  | taskPlacement (tid : BitVec 32) (arrs : List (Fin 32))
  /-- R306. The command processor posts pre-emption requests to lower-priority running tasks. -/
  | preemptionRequest (tid waiter : BitVec 32)
  /-- R308. A task's deficit reaches zero with an equal-priority task waiting, posting a switch request. -/
  | deficitExpiry (tid : BitVec 32)
  /-- R350. Once every member is parked, the task drains and its images are written to the save area.
  `tid`: the task, and the byte of HBM from which the command processor puts its images (R351). -/
  | taskSave (tid : BitVec 32 × BitVec 48)
  /-- R354. Verification and load passes restore a saved task onto a new placement. -/
  | taskRestore (tid : BitVec 32) (arrs : List (Fin 32)) (errors : List ImageError)
  /-- R317. The governor grants a queued leave request in package order. -/
  | leaveGrant (die : Fin 4)
  /-- R122. A standing leave's cycle count runs out. -/
  | leaveExpiry (a : Fin 32)
  /-- R123. The slack-tub controller grants or refuses a bellows lease and the answer lands in Pd. -/
  | sprintAnswer (a : Fin 32)
  /-- R356. A bellows lease's time runs out and the lease-expiry trap goes to the holding task. -/
  | bellowsLeaseExpiry (tid : BitVec 32)
  /-- R314. The home package counts a package arrival and sends completions when all have arrived.
  `pkg`: the package and the participating count of its record. -/
  | domainBarrierArrival (id : BitVec 24) (pkg : BitVec 10 × BitVec 11)
  /-- R314. A domain-barrier completion reaches a local object, which completes its phase. -/
  | domainBarrierCompletion (id : BitVec 24)
  /-- R315. A phase stays incomplete for the timeout and is reported to every participant. -/
  | domainBarrierTimeout (id : BitVec 24)
  /-- R364. A hop verifies an arriving chunk's touchmark and forwards or discards it.
  `c`: the contribution and how often the reducing agent's sum goes wrong (R365). -/
  | switchIngressVerify (grp : BitVec 24) (c : Contribution × Fin 3)
  /-- R366. A landing port verifies the result, writes and acknowledges it, or reports and asks for a re-send.
  `chunk`: the chunk and the package of the port. -/
  | landingPortVerify (grp : BitVec 24) (chunk : Nat × BitVec 10) (received : BitVec 32768)
  /-- R365. Every landing port has acknowledged and the next round opens with held contributions.
  `chunk`: the chunk, and how often the reducing agent's sum goes wrong where the next round is full at once (R365). -/
  | roundClose (grp : BitVec 24) (chunk : Nat × Fin 3)
  /-- R368. The command processor writes a mismatch report to the fault ring and acts on the producer. -/
  | touchmarkReport (k : Nat)
  /-- R385. A full sector record quarantines a page and the supervisor re-stages it or ends its owners. -/
  | pageQuarantine (page : Nat)
  /-- R284. The write-back of a dirty CAPACITY page ordered by EVICT completes, and the page becomes ABSENT with its dirty bit cleared. -/
  | capacityPageEvicted (ctx : BitVec 12) (obj : BitVec 24) (page : BitVec 48)
  /-- R314. A package drop message reaches the home package's link port and lowers the home's expected package count for later phases. -/
  | domainBarrierPackageDrop (id : BitVec 24) (pkg : BitVec 10)
  /-- R179. On an active cycle a cell executes the wave step it is offered, reading sources and writing destinations.
  `j`: the column and the parts of the cell in which an error is found first (R383). -/
  | cellStepExecute (a : Fin 32) (i : Fin 64) (j : Fin 64 × List CellPart)
  /-- R206. A feeder pop beat takes blocks from its stream and writes its output registers on their cycles.
  `west`: which feeder, and its registers in which an error is found first (R383). -/
  | feederBeat (a : Fin 32) (west : Bool × List (Fin 64))
  /-- R209. A stalled feeder beat completes once its stream holds the needed blocks. -/
  | popStallCompletes (a : Fin 32) (west : Bool)
  /-- R214. A collector captures edge registers on a beat and enters the blocks as stores. -/
  | collectorCapture (a : Fin 32)
  /-- R116. The waited stream reaches the stated block count and the SWAIT bundle issues. -/
  | swaitRelease (a : Fin 32)
  /-- R249. A slice miss takes a miss-table entry and its fill returns. -/
  | cacheMissFill (cl : Fin 8) (line : Nat) (bad : BitVec 2)
  /-- R277. A walker runs a walk routine to translate a page index into a descriptor. -/
  | pageWalk (ctx : BitVec 12) (obj : BitVec 24) (page : BitVec 48) (wr : Bool)
  /-- R279. The supervisor core invalidates cached translations of a page and waits for acknowledgement. -/
  | translationInvalidate (ctx : BitVec 12) (obj : BitVec 24) (page : BitVec 48)
  /-- R285. The supervisor starts relocating a page: MOVING, freeze point, copy.
  `base`: the target base, and, for a page of an object of another package that is to come here, the object's entry as the
  supervisor cores enter it in the link-port table (R287); `ctx` is then the domain context ID, `pkg` the page's package. -/
  | pageRelocation (ctx : BitVec 12) (obj : BitVec 24) (page : BitVec 48) (pkg : BitVec 10) (base : BitVec 48 × Option (BitVec 256))
  /-- R21. An active array cycle: one wave step enters row 0 and ACNT advances. -/
  | activeArrayCycle (a : Fin 32)
  /-- R33. A frozen cycle: FCNT counts while the array holds still. -/
  | frozenArrayCycle (a : Fin 32)
  /-- R344. Every task of the context is ended, a fatal record is written and status 5 is set. -/
  | fatalContextError (ctx : BitVec 12) (info : FatalInfo)
  /-- R355. Every 100 µs the controller updates MELT from package power and lid sensors. -/
  | meltUpdate (watts : Nat) (correction : Int)
  /-- R360. A rail or thermal alarm lowers a die's ceiling, revoking leases until it fits.
  `ceiling`: the new ceiling, and the amperes that the die's current sensor reads (R401). -/
  | railAlarm (die : Fin 4) (ceiling : Nat × Nat)
  /-- R401. Coolant flow below 2.5 L/min raises ALARM[2] and forces the refreeze interval. -/
  | coolantFlowAlarm (decilitres : Nat)
  /-- R357. A lid sensor at 75 °C or more forces the refreeze interval. -/
  | lidSensorAlarm (sensor : Fin 8) (celsius : Nat)
  /-- R401. A die junction at 105 °C lowers its ceiling; at 120 °C package power is removed. -/
  | junctionAlarm (die : Fin 4) (celsius ceiling : Nat)
  /-- R315. The home holds an absence token of a pre-empted member, blocking the phase and timeout. -/
  | absenceToken (id : BitVec 24) (pkg : BitVec 10)
  /-- R315. A resumed member's presence token releases its absence and restarts the timeout. -/
  | presenceToken (id : BitVec 24) (pkg : BitVec 10)
  /-- R384. The controller scrubs each stack sector once per 24 h, correcting what it can.
  `bad`: the halves of the sector that cannot be corrected, and a chunk header found so (R383). -/
  | patrolScrub (stack : Fin 16) (sector : Nat) (bad : BitVec 2 × Option Nat)
  /-- R387. A row activation counter reaches 512 and refresh management is issued.
  `row`: the row and how often it is activated. -/
  | refreshManagement (stack : Fin 16) (bank : Nat) (row : Nat × Nat)
  /-- R388. An HBM alert back-off stops activations and issues owed refreshes and refresh management.
  `bank`: the bank and the refreshes postponed there since. -/
  | alertBackOff (stack : Fin 16) (bank : Nat × Nat)
  /-- R389. An uncorrectable row-remap entry stalls its pseudo-channel and reloads from the mirror.
  `mirror`: the entries that the mirror's rows are found to hold otherwise than they were written, and the entry that the
  supervisor core changes instead, if any. -/
  | remapTableError (stack : Fin 16) (pseudoChannel : Nat) (mirror : List (Nat × Nat) × Option (Nat × Nat))
  /-- R392. A host CXL.mem access is checked under context 4,095 and performed or poisoned; a host access to the register
  block crosses the port with it (R262).
  `place`: where it goes, how often the unit that serves a write mismatches (R382) and the error that a read meets (R383). -/
  | hostCxlMemAccess (place : HostPlace × Fin 3 × ReadError) (write : Option (BitVec 512))
  /-- R393. The host writes a queue's tail and the CP reads the entries up to it. -/
  | qtailWrite (q : Fin 64) (v : BitVec 64)
  /-- R393. A QCFG write enables or disables a queue, ignored while enabled or with a bad size. -/
  | qcfgWrite (q : Fin 64) (v : BitVec 64)
  /-- R392. A host write signals an event in a context. -/
  | evsigWrite (v : BitVec 32)
  /-- R392. Writing one clears ALARM bits. -/
  | alarmWrite (v : BitVec 32)
  /-- R392. Setting a bit trains a Vitoen port; clearing it takes the port down. -/
  | linkenWrite (v : BitVec 32)
  /-- R392. A host write to a register with no behaviour of its own stores its value. -/
  | registerWrite (offset : BitVec 20) (v : BitVec 64)
  /-- R396. A link flit fails its CRC and is replayed from the sender's buffer.
  `port`: the port, and whether the flit fails; one that does not is through (R397). -/
  | flitCrcFail (port : Fin 16 × Bool)
  /-- R397. A port loses lock or replays a flit 16 times, goes down and traffic reroutes. -/
  | portDown (port : Fin 16)
  /-- R321. A router input asserts stop or go on a virtual channel and the sender stops or resumes it. -/
  | routerStop (input : Nat) (vc : Fin 6) (freeFlits : Nat)
  /-- R391. A UCIe module fails training and the link runs on the remaining modules. -/
  | ucieTrainingFail (m : Fin 8)
  /-- R399. After reset the security root starts and loads and verifies firmware images. -/
  | packageReset (images : List FirmwareImage)
  /-- R398. A function sets or clears its READY bit and enters or leaves service. -/
  | functionReady (bit : Fin 64) (ready failed : Bool)
  /-- R284. The command processor finishes copying an ABSENT page of a CAPACITY object from the capacity tier into HBM, and the page becomes RESIDENT. -/
  | capacityPageStaged (ctx : BitVec 12) (obj : BitVec 24) (page base : BitVec 48)
  /-- R288. The supervisor core begins retiring a page from failing rows: the descriptor becomes RETIRING and the cursor starts at sector 0. -/
  | pageRetirementStart (ctx : BitVec 12) (obj : BitVec 24) (page base : BitVec 48)
  /-- R274. An access packet from another package reaches a local Vitoen link port, is checked against the link-port table under the domain context ID, and is performed or refused. -/
  | remoteAccessArrives (r : RemoteAccess)
  /-- R312. A record submitted by TLAUNCH is validated and queued in the issuer's context. -/
  | deviceLaunch
  /-- R356. Clusters whose level changes switch clock on one common PTIME tick. -/
  | clockLevelChange
  /-- R357. The refreeze interval ends when MELT, time and sensor conditions all hold. -/
  | refreezeEnd
  /-- R395. Management command 1 creates an object for a context and returns its ID. -/
  | createObject
  /-- R395. Management command 2 destroys an object, revoking it. -/
  | destroyObject
  /-- R395. Management command 3 frees an event entry or clears it if waiters remain. -/
  | freeEvent
  /-- R362. Management command 4 registers a reduction group and returns its number. -/
  | registerReductionGroup
  /-- R395. Management command 5 releases a reduction group. -/
  | releaseReductionGroup
  /-- R395. An unassigned management code completes with result bad command. -/
  | badCommand
  /-- R400. Management command 7 writes a signed attestation report into the host buffer. -/
  | attest
  deriving DecidableEq, Repr

end Sys2Proof
end

