-- ==== Sys2Proof/WellFormed.lean ====
section
/-! DEFINITION. Which forms are legal: the field values that the encoding tables mark illegal and that
the operand types do not already exclude (R39, R41 to R53). An operation without a word is limited by
the rule of its own inputs. -/

namespace Sys2Proof

/-- R49: whether an element code is one of the floating ones. -/
def Elem.isFloat : Elem → Bool
  | .f32 | .bf16 | .f16 => true
  | _ => false

/-- R51: the format codes that `MMA` and `MMAZ` accept. -/
def Fmt.mmaOk : Fmt → Bool
  | .i32 | .z32 => false
  | _ => true

/-- R51, R193: the format codes that `MMAS` accepts, 3 to 8. -/
def Fmt.mmasOk : Fmt → Bool
  | .e4m3 | .e5m2 | .e3m2 | .e2m3 | .e2m1 | .i8 => true
  | _ => false

/-- R53: the key formats that `TK.INIT` accepts. -/
def Fmt.keyOk : Fmt → Bool
  | .f32 | .bf16 | .f16 | .i8 | .z8 | .i32 | .z32 => true
  | _ => false

/-- Whether a destination is a cell-store word. -/
def Dst.isWord : Dst → Bool
  | .word _ => true
  | _ => false

/-- R39, R41 to R53: no field of the form holds a value its table marks illegal. -/
def Instr.wellFormed : Instr → Bool
  | .loop _ _ _ off => off != 0
  | .freeze _ n => n != 0
  | .swait _ _ n => n != 0
  | .lease _ n => n != 0 && n.toNat ≤ 1048576
  | .sprint _ _ level ms => level != 0 && ms != 0 && ms.toNat ≤ 10000
  | .leave _ c n => c != 3 && n != 0
  | .ldp _ d _ _ _ => d.val % 2 == 0
  | .stp _ v _ _ _ => v.val % 2 == 0
  | .role _ _ r v => r == .scratch || v == .noswz
  | .waveAnd _ _ _ _ _ e | .waveOr _ _ _ _ _ e | .waveXor _ _ _ _ _ e
  | .waveShl _ _ _ _ _ e | .waveShr _ _ _ _ _ e | .waveSar _ _ _ _ _ e => !e.isFloat
  | .abs _ _ _ _ e | .neg _ _ _ _ e => e != .z32 && e != .z8
  | .mma _ _ _ _ _ _ f | .mmaz _ _ _ _ _ _ f => f.mmaOk
  | .mmas _ _ _ _ _ _ f => f.mmasOk
  | .lds _ _ d _ _ => !d.isWord
  | .rng _ _ _ _ dom => dom.val ≤ 4
  | .noise _ _ _ e => e.isFloat
  | .cvt f _ _ _ _ src _ => src != f
  | .drain _ _ _ _ x _ _ a b _ => !a.isWord && (x || b == 0)
  | .rsBand _ lo hi => lo.val ≤ hi.val
  | .tkInit _ _ f _ => f.keyOk
  | .fatalContextError _ info => info.subcause != 0 && info.subcause.toNat ≤ 9
  | .meltUpdate _ correction => -8 ≤ correction && correction ≤ 8
  | .taskPlacement _ arrs | .taskRestore _ arrs _ =>
    decide arrs.Nodup && !arrs.isEmpty && arrs.length ≤ 4
  | .railAlarm _ ceiling => 544 ≤ ceiling.1
  | .junctionAlarm _ _ ceiling => 544 ≤ ceiling
  | _ => true

end Sys2Proof
end

