-- ==== Sys2Proof/Decode.lean ====
section
/-! DEFINITION. The decoder and the encoder of the slot words, from the encoding tables R38 to R53.
Bits of a word are counted on a natural number. A word is accepted by a slot exactly when the fields
read from it make a well-formed form of that slot whose encoding is the word itself; every field a
form's table marks zero is therefore checked, and every other word is illegal (R39). -/

namespace Sys2Proof

/-- Field of `n` bits of the word `w`, its lowest bit at `lo` (R5). -/
def fld (w lo n : Nat) : Nat := w / 2 ^ lo % 2 ^ n

/-- Bit `lo` of the word `w`. -/
def bitOf (w lo : Nat) : Bool := fld w lo 1 == 1

/-- R41: the code of each `Scope`. -/
def Scope.code : Scope → Nat
  | .ar => 0
  | .cl => 1
  | .pk => 2
  | .dm => 3

/-- R41: the `Scope` of a code; a code that is illegal gives the first, and the decoder then refuses the word. -/
def Scope.ofCode : Nat → Scope
  | 1 => .cl
  | 2 => .pk
  | 3 => .dm
  | _ => .ar

/-- R42: the code of each `Cc`. -/
def Cc.code : Cc → Nat
  | .eq => 0
  | .ne => 1
  | .lt => 2
  | .ge => 3
  | .lo => 4
  | .hs => 5

/-- R42: the `Cc` of a code; a code that is illegal gives the first, and the decoder then refuses the word. -/
def Cc.ofCode : Nat → Cc
  | 1 => .ne
  | 2 => .lt
  | 3 => .ge
  | 4 => .lo
  | 5 => .hs
  | _ => .eq

/-- R42: the code of each `CapField`. -/
def CapField.code : CapField → Nat
  | .base => 0
  | .len => 1
  | .rights => 2
  | .tag => 3

/-- R42: the `CapField` of a code; a code that is illegal gives the first, and the decoder then refuses the word. -/
def CapField.ofCode : Nat → CapField
  | 1 => .len
  | 2 => .rights
  | 3 => .tag
  | _ => .base

/-- R44: the code of each `Width`. -/
def Width.code : Width → Nat
  | .d64 => 0
  | .i8 => 1
  | .z8 => 2
  | .f16 => 3
  | .i32 => 4
  | .z32 => 5

/-- R44: the `Width` of a code; a code that is illegal gives the first, and the decoder then refuses the word. -/
def Width.ofCode : Nat → Width
  | 1 => .i8
  | 2 => .z8
  | 3 => .f16
  | 4 => .i32
  | 5 => .z32
  | _ => .d64

/-- R45: the code of each `Role`. -/
def Role.code : Role → Nat
  | .cache => 0
  | .scratch => 1
  | .operand => 2

/-- R45: the `Role` of a code; a code that is illegal gives the first, and the decoder then refuses the word. -/
def Role.ofCode : Nat → Role
  | 1 => .scratch
  | 2 => .operand
  | _ => .cache

/-- R45: the code of each `View`. -/
def View.code : View → Nat
  | .noswz => 0
  | .swz16 => 1
  | .swz32 => 2

/-- R45: the `View` of a code; a code that is illegal gives the first, and the decoder then refuses the word. -/
def View.ofCode : Nat → View
  | 1 => .swz16
  | 2 => .swz32
  | _ => .noswz

/-- R46: the code of each `Skew`. -/
def Skew.code : Skew → Nat
  | .noskew => 0
  | .skew => 1
  | .rskew => 2

/-- R46: the `Skew` of a code; a code that is illegal gives the first, and the decoder then refuses the word. -/
def Skew.ofCode : Nat → Skew
  | 1 => .skew
  | 2 => .rskew
  | _ => .noskew

/-- R51: the code of each `LaneW`. -/
def LaneW.code : LaneW → Nat
  | .w4 => 0
  | .w8 => 1
  | .w16 => 2
  | .w32 => 3

/-- R51: the `LaneW` of a code; a code that is illegal gives the first, and the decoder then refuses the word. -/
def LaneW.ofCode : Nat → LaneW
  | 1 => .w8
  | 2 => .w16
  | 3 => .w32
  | _ => .w4

/-- R49: the code of each `Fmt`. -/
def Fmt.code : Fmt → Nat
  | .f32 => 0
  | .bf16 => 1
  | .f16 => 2
  | .e4m3 => 3
  | .e5m2 => 4
  | .e3m2 => 5
  | .e2m3 => 6
  | .e2m1 => 7
  | .i8 => 8
  | .z8 => 9
  | .i4 => 10
  | .i32 => 11
  | .z32 => 12

/-- R49: the `Fmt` of a code; a code that is illegal gives the first, and the decoder then refuses the word. -/
def Fmt.ofCode : Nat → Fmt
  | 1 => .bf16
  | 2 => .f16
  | 3 => .e4m3
  | 4 => .e5m2
  | 5 => .e3m2
  | 6 => .e2m3
  | 7 => .e2m1
  | 8 => .i8
  | 9 => .z8
  | 10 => .i4
  | 11 => .i32
  | 12 => .z32
  | _ => .f32

/-- R49: the code of each `Elem`. -/
def Elem.code : Elem → Nat
  | .f32 => 0
  | .bf16 => 1
  | .f16 => 2
  | .i32 => 3
  | .z32 => 4
  | .i8 => 5
  | .z8 => 6
  | .i4 => 7

/-- R49: the `Elem` of a code; a code that is illegal gives the first, and the decoder then refuses the word. -/
def Elem.ofCode : Nat → Elem
  | 1 => .bf16
  | 2 => .f16
  | 3 => .i32
  | 4 => .z32
  | 5 => .i8
  | 6 => .z8
  | 7 => .i4
  | _ => .f32

/-- R49: the code of each `Rnd`. -/
def Rnd.code : Rnd → Nat
  | .rne => 0
  | .rtz => 1
  | .rdn => 2
  | .rup => 3
  | .sr => 4

/-- R49: the `Rnd` of a code; a code that is illegal gives the first, and the decoder then refuses the word. -/
def Rnd.ofCode : Nat → Rnd
  | 1 => .rtz
  | 2 => .rdn
  | 3 => .rup
  | 4 => .sr
  | _ => .rne

/-- R51: the code of each `CellCc`. -/
def CellCc.code : CellCc → Nat
  | .eq => 0
  | .ne => 1
  | .lt => 2
  | .le => 3
  | .gt => 4
  | .ge => 5

/-- R51: the `CellCc` of a code; a code that is illegal gives the first, and the decoder then refuses the word. -/
def CellCc.ofCode : Nat → CellCc
  | 1 => .ne
  | 2 => .lt
  | 3 => .le
  | 4 => .gt
  | 5 => .ge
  | _ => .eq

/-- R51: the code of each `RngKind`. -/
def RngKind.code : RngKind → Nat
  | .raw => 0
  | .uniform => 1
  | .gaussian => 2

/-- R51: the `RngKind` of a code; a code that is illegal gives the first, and the decoder then refuses the word. -/
def RngKind.ofCode : Nat → RngKind
  | 1 => .uniform
  | 2 => .gaussian
  | _ => .raw

/-- R51: the code of each `TmkClass`. -/
def TmkClass.code : TmkClass → Nat
  | .i4 => 0
  | .i8 => 1
  | .z8 => 2
  | .i32 => 3
  | .z32 => 4
  | .h16 => 5
  | .fp8 => 6
  | .e2m1 => 7

/-- R51: the `TmkClass` of a code; a code that is illegal gives the first, and the decoder then refuses the word. -/
def TmkClass.ofCode : Nat → TmkClass
  | 1 => .i8
  | 2 => .z8
  | 3 => .i32
  | 4 => .z32
  | 5 => .h16
  | 6 => .fp8
  | 7 => .e2m1
  | _ => .i4

/-- R53: the code of each `AggKind`. -/
def AggKind.code : AggKind → Nat
  | .rowor => 0
  | .rowand => 1
  | .color => 2
  | .coland => 3
  | .all => 4

/-- R53: the `AggKind` of a code; a code that is illegal gives the first, and the decoder then refuses the word. -/
def AggKind.ofCode : Nat → AggKind
  | 1 => .rowand
  | 2 => .color
  | 3 => .coland
  | 4 => .all
  | _ => .rowor

/-- R48: the operand code of a source. -/
def Src.code : Src → Nat
  | .f k => k.val
  | .h => 16
  | .v => 17
  | .nh => 18
  | .nv => 19
  | .sh => 20
  | .sv => 21
  | .eh => 22
  | .ev => 23
  | .wh => 24
  | .wv => 25
  | .zero => 26
  | .word k => 27 + k.val
  | .coord => 31

/-- R48: the source of an operand code. -/
def Src.ofCode (c : Nat) : Src :=
  if c < 16 then .f (Fin.ofNat 16 c)
  else match c with
    | 16 => .h
    | 17 => .v
    | 18 => .nh
    | 19 => .nv
    | 20 => .sh
    | 21 => .sv
    | 22 => .eh
    | 23 => .ev
    | 24 => .wh
    | 25 => .wv
    | 26 => .zero
    | 31 => .coord
    | c => .word (Fin.ofNat 4 (c - 27))

/-- R48: the operand code of a destination. -/
def Dst.code : Dst → Nat
  | .f k => k.val
  | .h => 16
  | .v => 17
  | .word k => 27 + k.val

/-- R48: the destination of an operand code; codes that are illegal as a destination give one whose
code differs, and the decoder then refuses the word. -/
def Dst.ofCode (c : Nat) : Dst :=
  if c < 16 then .f (Fin.ofNat 16 c)
  else match c with
    | 16 => .h
    | 17 => .v
    | c => .word (Fin.ofNat 4 (c - 27))

/-- The word with opcode `op` (R38) and the given fields, each a value and its lowest bit. -/
def put (op : Nat) : List (Nat × Nat) → Nat
  | [] => op * 2 ^ 25
  | (v, lo) :: fs => v * 2 ^ lo + put op fs

/-- R41 to R53: the word of a slot form; an operation without a word has none. -/
def encode : Instr → Option Nat
  | .nop => some 0
  | .br p off => some (put 1 [(p.val, 22), (off.toNat, 0)])
  | .brp p n sense off => some (put 2 [(p.val, 22), (n.val, 19), (sense.toNat, 18), (off.toNat, 0)])
  | .jmpi p a => some (put 3 [(p.val, 22), (a.val, 17)])
  | .call p off => some (put 4 [(p.val, 22), (off.toNat, 0)])
  | .ret p => some (put 5 [(p.val, 22)])
  | .loop p l a off => some (put 6 [(p.val, 22), (l.val, 20), (a.val, 15), (off.toNat, 0)])
  | .endloop p l => some (put 7 [(p.val, 22), (l.val, 20)])
  | .flagbr p g all sense off => some (put 8 [(p.val, 22), (g.val, 20), (all.toNat, 19), (sense.toNat, 18), (off.toNat, 0)])
  | .scope p s => some (put 16 [(p.val, 22), (s.code, 20)])
  | .sync p g => some (put 17 [(p.val, 22), (g.toNat, 0)])
  | .realign p => some (put 18 [(p.val, 22)])
  | .freeze p n => some (put 19 [(p.val, 22), (n.toNat, 0)])
  | .swait p q n => some (put 20 [(p.val, 22), (q.val, 18), (n.toNat, 8)])
  | .phase p => some (put 24 [(p.val, 22)])
  | .phcancel p => some (put 25 [(p.val, 22)])
  | .retire p => some (put 26 [(p.val, 22)])
  | .lease p n => some (put 32 [(p.val, 22), (n.toNat, 0)])
  | .lfree p => some (put 33 [(p.val, 22)])
  | .sprint p d level ms => some (put 34 [(p.val, 22), (d.val, 19), (level.toNat, 17), (ms.toNat, 0)])
  | .sprfree p => some (put 35 [(p.val, 22)])
  | .leave p c n => some (put 36 [(p.val, 22), (c.toNat, 20), (n.toNat, 0)])
  | .trap p code => some (put 40 [(p.val, 22), (code.toNat, 0)])
  | .xret p => some (put 41 [(p.val, 22)])
  | .brk p code => some (put 42 [(p.val, 22), (code.toNat, 0)])
  | .csrr p d c => some (put 48 [(p.val, 22), (d.val, 17), (c.toNat, 0)])
  | .csrw p a c => some (put 49 [(p.val, 22), (a.val, 17), (c.toNat, 0)])
  | .csrs p a c => some (put 50 [(p.val, 22), (a.val, 17), (c.toNat, 0)])
  | .csrc p a c => some (put 51 [(p.val, 22), (a.val, 17), (c.toNat, 0)])
  | .tend p => some (put 63 [(p.val, 22)])
  | .add p d a b => some (put 1 [(p.val, 22), (d.val, 17), (a.val, 12), (b.val, 7)])
  | .sub p d a b => some (put 2 [(p.val, 22), (d.val, 17), (a.val, 12), (b.val, 7)])
  | .mul p d a b => some (put 3 [(p.val, 22), (d.val, 17), (a.val, 12), (b.val, 7)])
  | .mulh p d a b => some (put 4 [(p.val, 22), (d.val, 17), (a.val, 12), (b.val, 7)])
  | .mulhz p d a b => some (put 5 [(p.val, 22), (d.val, 17), (a.val, 12), (b.val, 7)])
  | .and p d a b => some (put 6 [(p.val, 22), (d.val, 17), (a.val, 12), (b.val, 7)])
  | .andn p d a b => some (put 7 [(p.val, 22), (d.val, 17), (a.val, 12), (b.val, 7)])
  | .or p d a b => some (put 8 [(p.val, 22), (d.val, 17), (a.val, 12), (b.val, 7)])
  | .xor p d a b => some (put 9 [(p.val, 22), (d.val, 17), (a.val, 12), (b.val, 7)])
  | .shl p d a b => some (put 10 [(p.val, 22), (d.val, 17), (a.val, 12), (b.val, 7)])
  | .shr p d a b => some (put 11 [(p.val, 22), (d.val, 17), (a.val, 12), (b.val, 7)])
  | .sar p d a b => some (put 12 [(p.val, 22), (d.val, 17), (a.val, 12), (b.val, 7)])
  | .rotl p d a b => some (put 13 [(p.val, 22), (d.val, 17), (a.val, 12), (b.val, 7)])
  | .min p d a b => some (put 14 [(p.val, 22), (d.val, 17), (a.val, 12), (b.val, 7)])
  | .max p d a b => some (put 15 [(p.val, 22), (d.val, 17), (a.val, 12), (b.val, 7)])
  | .minz p d a b => some (put 16 [(p.val, 22), (d.val, 17), (a.val, 12), (b.val, 7)])
  | .maxz p d a b => some (put 17 [(p.val, 22), (d.val, 17), (a.val, 12), (b.val, 7)])
  | .clz p d a => some (put 18 [(p.val, 22), (d.val, 17), (a.val, 12)])
  | .ctz p d a => some (put 19 [(p.val, 22), (d.val, 17), (a.val, 12)])
  | .popc p d a => some (put 20 [(p.val, 22), (d.val, 17), (a.val, 12)])
  | .mov p d a => some (put 21 [(p.val, 22), (d.val, 17), (a.val, 12)])
  | .addi p d a i => some (put 24 [(p.val, 22), (d.val, 17), (a.val, 12), (i.toNat, 0)])
  | .li p d i => some (put 25 [(p.val, 22), (d.val, 17), (i.toNat, 0)])
  | .lui k p d i => some (put (28 + k.val) [(p.val, 22), (d.val, 17), (i.toNat, 0)])
  | .cmp p d cc a b => some (put 32 [(p.val, 22), (d.val, 19), (cc.code, 16), (a.val, 11), (b.val, 6)])
  | .cmpi p d cc a i => some (put 33 [(p.val, 22), (d.val, 19), (cc.code, 16), (a.val, 11), (i.toNat, 0)])
  | .sel p d pa a b => some (put 34 [(p.val, 22), (d.val, 17), (pa.val, 14), (a.val, 9), (b.val, 4)])
  | .plog p d pa pb t => some (put 35 [(p.val, 22), (d.val, 19), (pa.val, 16), (pb.val, 13), (t.toNat, 9)])
  | .capnarrow p d h a b => some (put 40 [(p.val, 22), (d.val, 18), (h.val, 14), (a.val, 9), (b.val, 4)])
  | .capoff p d h rm => some (put 41 [(p.val, 22), (d.val, 18), (h.val, 14), (rm.toNat, 0)])
  | .capinfo p d h f => some (put 42 [(p.val, 22), (d.val, 17), (h.val, 13), (f.code, 11)])
  | .capdrop p d => some (put 43 [(p.val, 22), (d.val, 18)])
  | .maskld p d a => some (put 48 [(p.val, 22), (d.val, 19), (a.val, 14)])
  | .maskrot p d ma a => some (put 49 [(p.val, 22), (d.val, 19), (ma.val, 16), (a.val, 11)])
  | .ld p d h o w i => some (put 1 [(p.val, 22), (d.val, 17), (h.val, 13), (o.val, 8), (w.code, 5), (i.toNat, 0)])
  | .st p v h o w i => some (put 2 [(p.val, 22), (v.val, 17), (h.val, 13), (o.val, 8), (w.code, 5), (i.toNat, 0)])
  | .ldp p d h o i => some (put 3 [(p.val, 22), (d.val, 17), (h.val, 13), (o.val, 8), (i.toNat, 0)])
  | .stp p v h o i => some (put 4 [(p.val, 22), (v.val, 17), (h.val, 13), (o.val, 8), (i.toNat, 0)])
  | .mark p => some (put 8 [(p.val, 22)])
  | .fence p s => some (put 9 [(p.val, 22), (s.code, 20)])
  | .amoAdd p d h o v w => some (put 16 [(p.val, 22), (d.val, 17), (h.val, 13), (o.val, 8), (v.val, 3), (w.toNat, 2)])
  | .amoAnd p d h o v w => some (put 17 [(p.val, 22), (d.val, 17), (h.val, 13), (o.val, 8), (v.val, 3), (w.toNat, 2)])
  | .amoOr p d h o v w => some (put 18 [(p.val, 22), (d.val, 17), (h.val, 13), (o.val, 8), (v.val, 3), (w.toNat, 2)])
  | .amoXor p d h o v w => some (put 19 [(p.val, 22), (d.val, 17), (h.val, 13), (o.val, 8), (v.val, 3), (w.toNat, 2)])
  | .amoMin p d h o v w => some (put 20 [(p.val, 22), (d.val, 17), (h.val, 13), (o.val, 8), (v.val, 3), (w.toNat, 2)])
  | .amoMax p d h o v w => some (put 21 [(p.val, 22), (d.val, 17), (h.val, 13), (o.val, 8), (v.val, 3), (w.toNat, 2)])
  | .amoMinz p d h o v w => some (put 22 [(p.val, 22), (d.val, 17), (h.val, 13), (o.val, 8), (v.val, 3), (w.toNat, 2)])
  | .amoMaxz p d h o v w => some (put 23 [(p.val, 22), (d.val, 17), (h.val, 13), (o.val, 8), (v.val, 3), (w.toNat, 2)])
  | .amoSwap p d h o v w => some (put 24 [(p.val, 22), (d.val, 17), (h.val, 13), (o.val, 8), (v.val, 3), (w.toNat, 2)])
  | .cas p d h o v w => some (put 25 [(p.val, 22), (d.val, 17), (h.val, 13), (o.val, 8), (v.val, 3), (w.toNat, 2)])
  | .redAdd p h o v w => some (put 32 [(p.val, 22), (h.val, 13), (o.val, 8), (v.val, 3), (w.toNat, 2)])
  | .redAnd p h o v w => some (put 33 [(p.val, 22), (h.val, 13), (o.val, 8), (v.val, 3), (w.toNat, 2)])
  | .redOr p h o v w => some (put 34 [(p.val, 22), (h.val, 13), (o.val, 8), (v.val, 3), (w.toNat, 2)])
  | .redXor p h o v w => some (put 35 [(p.val, 22), (h.val, 13), (o.val, 8), (v.val, 3), (w.toNat, 2)])
  | .redMin p h o v w => some (put 36 [(p.val, 22), (h.val, 13), (o.val, 8), (v.val, 3), (w.toNat, 2)])
  | .redMax p h o v w => some (put 37 [(p.val, 22), (h.val, 13), (o.val, 8), (v.val, 3), (w.toNat, 2)])
  | .redFadd p h o v => some (put 38 [(p.val, 22), (h.val, 13), (o.val, 8), (v.val, 3)])
  | .strmBind p q h o hd => some (put 40 [(p.val, 22), (q.val, 18), (h.val, 13), (o.val, 8), (hd.val, 4)])
  | .strmAdv p q a => some (put 41 [(p.val, 22), (q.val, 18), (a.val, 8)])
  | .strmLvl p d q => some (put 42 [(p.val, 22), (d.val, 17), (q.val, 4)])
  | .strmRew p q => some (put 43 [(p.val, 22), (q.val, 18)])
  | .cpySet p n h o => some (put 48 [(p.val, 22), (n.val, 18), (h.val, 13), (o.val, 8)])
  | .cpyGo p n => some (put 49 [(p.val, 22), (n.val, 18)])
  | .cpyStage p n s => some (put 50 [(p.val, 22), (n.val, 18), (s.toNat, 0)])
  | .cpbinv p i => some (put 51 [(p.val, 22), (i.toNat, 0)])
  | .tlWait p d t a => some (put 56 [(p.val, 22), (d.val, 17), (t.val, 12), (a.val, 7)])
  | .tlRead p d t => some (put 57 [(p.val, 22), (d.val, 17), (t.val, 12)])
  | .tlBump p => some (put 58 [(p.val, 22)])
  | .barInit p a b => some (put 64 [(p.val, 22), (a.val, 17), (b.toNat, 9)])
  | .barArr p b => some (put 65 [(p.val, 22), (b.toNat, 9)])
  | .barDrop p b => some (put 66 [(p.val, 22), (b.toNat, 9)])
  | .barXp p a b => some (put 67 [(p.val, 22), (a.val, 17), (b.toNat, 9)])
  | .barWait p d b => some (put 68 [(p.val, 22), (d.val, 17), (b.toNat, 9)])
  | .barTest p b d => some (put 69 [(p.val, 22), (b.toNat, 9), (d.val, 6)])
  | .evSig p e => some (put 72 [(p.val, 22), (e.toNat, 0)])
  | .tlaunch p h o => some (put 73 [(p.val, 22), (h.val, 13), (o.val, 8)])
  | .probe p d h o l => some (put 80 [(p.val, 22), (d.val, 19), (h.val, 13), (o.val, 8), (l.val, 3)])
  | .unpin p h o l => some (put 81 [(p.val, 22), (h.val, 13), (o.val, 8), (l.val, 3)])
  | .prefetch p h o l => some (put 82 [(p.val, 22), (h.val, 13), (o.val, 8), (l.val, 3)])
  | .evict p h o l => some (put 83 [(p.val, 22), (h.val, 13), (o.val, 8), (l.val, 3)])
  | .role p n r v => some (put 84 [(p.val, 22), (n.val, 17), (r.code, 15), (v.code, 13)])
  | .fnPop p q k n => some (put 1 [(p.val, 22), (q.val, 18), (k.code, 16), (n.val, 10)])
  | .fnPopt p q k l n => some (put 2 [(p.val, 22), (q.val, 18), (k.code, 16), (l.code, 14), (n.val, 10)])
  | .fnZero p n => some (put 3 [(p.val, 22), (n.val, 10)])
  | .fnHold p => some (put 4 [(p.val, 22)])
  | .fnBcast p q n => some (put 5 [(p.val, 22), (q.val, 18), (n.val, 10)])
  | .fnTag p a => some (put 6 [(p.val, 22), (a.val, 17)])
  | .fnSkew p k => some (put 7 [(p.val, 22), (k.toNat, 0)])
  | .fwPop p q k n => some (put 1 [(p.val, 22), (q.val, 18), (k.code, 16), (n.val, 10)])
  | .fwPopt p q k l n => some (put 2 [(p.val, 22), (q.val, 18), (k.code, 16), (l.code, 14), (n.val, 10)])
  | .fwZero p n => some (put 3 [(p.val, 22), (n.val, 10)])
  | .fwHold p => some (put 4 [(p.val, 22)])
  | .fwBcast p q n => some (put 5 [(p.val, 22), (q.val, 18), (n.val, 10)])
  | .fwTag p a => some (put 6 [(p.val, 22), (a.val, 17)])
  | .fwSkew p k => some (put 7 [(p.val, 22), (k.toNat, 0)])
  | .waveMov n m d a e => some (put 1 [(n.val, 21), (m.val, 18), (d.code, 13), (a.code, 8), (e.code, 0)])
  | .movi n m d i e => some (put 2 [(n.val, 21), (m.val, 18), (d.code, 13), (i.toNat, 3), (e.code, 0)])
  | .waveAdd n m d a b e => some (put 3 [(n.val, 21), (m.val, 18), (d.code, 13), (a.code, 8), (b.code, 3), (e.code, 0)])
  | .waveSub n m d a b e => some (put 4 [(n.val, 21), (m.val, 18), (d.code, 13), (a.code, 8), (b.code, 3), (e.code, 0)])
  | .waveMul n m d a b e => some (put 5 [(n.val, 21), (m.val, 18), (d.code, 13), (a.code, 8), (b.code, 3), (e.code, 0)])
  | .fma n m d a b e => some (put 6 [(n.val, 21), (m.val, 18), (d.code, 13), (a.code, 8), (b.code, 3), (e.code, 0)])
  | .waveMin n m d a b e => some (put 7 [(n.val, 21), (m.val, 18), (d.code, 13), (a.code, 8), (b.code, 3), (e.code, 0)])
  | .waveMax n m d a b e => some (put 8 [(n.val, 21), (m.val, 18), (d.code, 13), (a.code, 8), (b.code, 3), (e.code, 0)])
  | .abs n m d a e => some (put 9 [(n.val, 21), (m.val, 18), (d.code, 13), (a.code, 8), (e.code, 0)])
  | .neg n m d a e => some (put 10 [(n.val, 21), (m.val, 18), (d.code, 13), (a.code, 8), (e.code, 0)])
  | .waveCmp n m cc g a b e => some (put 11 [(n.val, 21), (m.val, 18), (cc.code, 15), (g.val, 13), (a.code, 8), (b.code, 3), (e.code, 0)])
  | .selg n m d a b g => some (put 12 [(n.val, 21), (m.val, 18), (d.code, 13), (a.code, 8), (b.code, 3), (g.val, 0)])
  | .waveAnd n m d a b e => some (put 13 [(n.val, 21), (m.val, 18), (d.code, 13), (a.code, 8), (b.code, 3), (e.code, 0)])
  | .waveOr n m d a b e => some (put 14 [(n.val, 21), (m.val, 18), (d.code, 13), (a.code, 8), (b.code, 3), (e.code, 0)])
  | .waveXor n m d a b e => some (put 15 [(n.val, 21), (m.val, 18), (d.code, 13), (a.code, 8), (b.code, 3), (e.code, 0)])
  | .waveShl n m d a b e => some (put 16 [(n.val, 21), (m.val, 18), (d.code, 13), (a.code, 8), (b.code, 3), (e.code, 0)])
  | .waveShr n m d a b e => some (put 17 [(n.val, 21), (m.val, 18), (d.code, 13), (a.code, 8), (b.code, 3), (e.code, 0)])
  | .waveSar n m d a b e => some (put 18 [(n.val, 21), (m.val, 18), (d.code, 13), (a.code, 8), (b.code, 3), (e.code, 0)])
  | .pack n m d a b l => some (put 20 [(n.val, 21), (m.val, 18), (d.code, 13), (a.code, 8), (b.code, 3), (l.code, 0)])
  | .unpk n m d a hi l => some (put 21 [(n.val, 21), (m.val, 18), (d.code, 13), (a.code, 8), (hi.toNat, 3), (l.code, 0)])
  | .mma n m pass t a b f => some (put 24 [(n.val, 21), (m.val, 18), (pass.toNat, 17), (t.val, 13), (a.code, 8), (b.code, 3), (f.code / 8, 15), (f.code % 8, 0)])
  | .mmaz n m pass t a b f => some (put 25 [(n.val, 21), (m.val, 18), (pass.toNat, 17), (t.val, 13), (a.code, 8), (b.code, 3), (f.code / 8, 15), (f.code % 8, 0)])
  | .mmas n m pass t a b f => some (put 26 [(n.val, 21), (m.val, 18), (pass.toNat, 17), (t.val, 13), (a.code, 8), (b.code, 3), (f.code / 8, 15), (f.code % 8, 0)])
  | .accz n m t w128 => some (put 28 [(n.val, 21), (m.val, 18), (t.val, 13), (w128.toNat, 0)])
  | .accld n m t k => some (put 29 [(n.val, 21), (m.val, 18), (t.val, 13), (k.val + 27, 8)])
  | .accst n m t k => some (put 30 [(n.val, 21), (m.val, 18), (t.val, 13), (k.val + 27, 8)])
  | .lds n m d k i => some (put 32 [(n.val, 21), (m.val, 18), (d.code, 13), (k.val + 27, 8), (i.toNat, 3)])
  | .sts n m k a i => some (put 33 [(n.val, 21), (m.val, 18), (k.val + 27, 13), (a.code, 8), (i.toNat, 3)])
  | .kset n m k i => some (put 34 [(n.val, 21), (m.val, 18), (k.val + 27, 13), (i.toNat, 3)])
  | .kadd n m k i => some (put 35 [(n.val, 21), (m.val, 18), (k.val + 27, 13), (i.toNat, 3)])
  | .perm n m d a b l => some (put 36 [(n.val, 21), (m.val, 18), (d.code, 13), (a.code, 8), (b.code, 3), (l.code, 0)])
  | .xpose n m d a l => some (put 37 [(n.val, 21), (m.val, 18), (d.code, 13), (a.code, 8), (l.code, 0)])
  | .shuf n m d a b pat => some (put 38 [(n.val, 21), (m.val, 18), (d.code, 13), (a.code, 8), (b.code, 3), (pat.val, 0)])
  | .exp2 n m d a => some (put 40 [(n.val, 21), (m.val, 18), (d.code, 13), (a.code, 8)])
  | .log2 n m d a => some (put 41 [(n.val, 21), (m.val, 18), (d.code, 13), (a.code, 8)])
  | .rcp n m d a => some (put 42 [(n.val, 21), (m.val, 18), (d.code, 13), (a.code, 8)])
  | .rsq n m d a => some (put 43 [(n.val, 21), (m.val, 18), (d.code, 13), (a.code, 8)])
  | .rng n m d kind dom => some (put 44 [(n.val, 21), (m.val, 18), (d.code, 13), (kind.code, 3), (dom.val, 0)])
  | .noise n m d e => some (put 45 [(n.val, 21), (m.val, 18), (d.code, 13), (e.code, 0)])
  | .dot n m d a b e => some (put 48 [(n.val, 21), (m.val, 18), (d.code, 13), (a.code, 8), (b.code, 3), (e.code, 0)])
  | .sumr n m d a e => some (put 49 [(n.val, 21), (m.val, 18), (d.code, 13), (a.code, 8), (e.code, 0)])
  | .prefixSum n m d a b e => some (put 50 [(n.val, 21), (m.val, 18), (d.code, 13), (a.code, 8), (b.code, 3), (e.code, 0)])
  | .flag n m cc g a e => some (put 52 [(n.val, 21), (m.val, 18), (cc.code, 15), (g.val, 13), (a.code, 8), (e.code, 0)])
  | .gset n m g v => some (put 53 [(n.val, 21), (m.val, 18), (g.val, 13), (v.toNat, 0)])
  | .tmk n m d a b cls => some (put 54 [(n.val, 21), (m.val, 18), (d.code, 13), (a.code, 8), (b.code, 3), (cls.code, 0)])
  | .cvt f n m d a src r => some (put (64 + f.code) [(n.val, 21), (m.val, 18), (d.code, 13), (a.code, 8), (src.code, 3), (r.code, 0)])
  | .drain f n m s x dr t a b r => some (put (80 + f.code) [(n.val, 21), (m.val, 18), (s.toNat, 17), (x.toNat, 16), (dr.toNat, 15), (t.val, 13), (a.code, 8), (b.val, 3), (r.code, 0)])
  | .rsSet p travel a => some (put 1 [(p.val, 22), (travel.toNat, 21), (a.val, 16)])
  | .rsAll p => some (put 2 [(p.val, 22)])
  | .rsNone p => some (put 3 [(p.val, 22)])
  | .rsRow p i => some (put 4 [(p.val, 22), (i.val, 0)])
  | .rsBand p lo hi => some (put 5 [(p.val, 22), (lo.val, 6), (hi.val, 0)])
  | .ecPush p q n => some (put 1 [(p.val, 22), (q.val, 18), (n.val, 10)])
  | .scPush p q n => some (put 2 [(p.val, 22), (q.val, 18), (n.val, 10)])
  | .ecDisc p n => some (put 3 [(p.val, 22), (n.val, 10)])
  | .ecTopk p n => some (put 4 [(p.val, 22), (n.val, 10)])
  | .tkInit p k f low => some (put 8 [(p.val, 22), (k.toNat, 14), (f.code, 10), (low.toNat, 9)])
  | .tkMerge p q => some (put 9 [(p.val, 22), (q.val, 18)])
  | .tkRead p q => some (put 10 [(p.val, 22), (q.val, 18)])
  | .tkCnt p d => some (put 11 [(p.val, 22), (d.val, 17)])
  | .aggRd p d g k => some (put 16 [(p.val, 22), (d.val, 17), (g.val, 15), (k.code, 12)])
  | .ecTmk p q => some (put 20 [(p.val, 22), (q.val, 18)])
  | .scChain p on => some (put 24 [(p.val, 22), (on.toNat, 0)])
  | .cellStepExecute _ _ _ => none
  | .feederBeat _ _ => none
  | .popStallCompletes _ _ => none
  | .collectorCapture _ => none
  | .loadLands _ _ => none
  | .freezeEnd _ => none
  | .swaitRelease _ => none
  | .syncRelease _ => none
  | .streamDescriptorArrives _ _ => none
  | .streamFetch _ _ => none
  | .copyBlockArrives _ _ => none
  | .scheduledCopyStart _ _ => none
  | .copyCompletes _ _ _ _ => none
  | .tlWaitLands _ _ => none
  | .barrierFormApplied _ _ => none
  | .barWaitLands _ _ => none
  | .storeArrivesAtHome _ _ => none
  | .atomicApplied _ _ _ => none
  | .markChangeArrives _ => none
  | .cacheMissFill _ _ _ => none
  | .writeBack _ _ => none
  | .roleChangeApplied _ _ => none
  | .probeAnswer _ _ _ => none
  | .pageWalk _ _ _ _ => none
  | .translationInvalidate _ _ _ => none
  | .pageRelocation _ _ _ _ _ => none
  | .relocationCopyComplete _ _ _ => none
  | .movedAnswer _ _ => none
  | .pageRetirementStep _ _ _ => none
  | .activeArrayCycle _ => none
  | .frozenArrayCycle _ => none
  | .retirementOverdue _ => none
  | .trapTaken _ => none
  | .automaticCancel _ _ => none
  | .phaseRollback _ => none
  | .fatalContextError _ _ => none
  | .taskCompletes _ => none
  | .queueEntryRead _ => none
  | .deviceLaunch => none
  | .eventSignal _ _ => none
  | .stagingComplete _ => none
  | .taskPlacement _ _ => none
  | .preemptionRequest _ _ => none
  | .deficitExpiry _ => none
  | .taskSave _ => none
  | .taskRestore _ _ _ => none
  | .leaveGrant _ => none
  | .leaveExpiry _ => none
  | .sprintAnswer _ => none
  | .clockLevelChange => none
  | .bellowsLeaseExpiry _ => none
  | .meltUpdate _ _ => none
  | .refreezeEnd => none
  | .railAlarm _ _ => none
  | .coolantFlowAlarm _ => none
  | .lidSensorAlarm _ _ => none
  | .junctionAlarm _ _ _ => none
  | .domainBarrierArrival _ _ => none
  | .domainBarrierCompletion _ => none
  | .absenceToken _ _ => none
  | .presenceToken _ _ => none
  | .domainBarrierTimeout _ => none
  | .switchIngressVerify _ _ => none
  | .landingPortVerify _ _ _ => none
  | .roundClose _ _ => none
  | .touchmarkReport _ => none
  | .pageQuarantine _ => none
  | .patrolScrub _ _ _ => none
  | .refreshManagement _ _ _ => none
  | .alertBackOff _ _ => none
  | .remapTableError _ _ _ => none
  | .hostCxlMemAccess _ _ => none
  | .qtailWrite _ _ => none
  | .qcfgWrite _ _ => none
  | .evsigWrite _ => none
  | .alarmWrite _ => none
  | .linkenWrite _ => none
  | .registerWrite _ _ => none
  | .createObject => none
  | .destroyObject => none
  | .freeEvent => none
  | .registerReductionGroup => none
  | .releaseReductionGroup => none
  | .badCommand => none
  | .attest => none
  | .flitCrcFail _ => none
  | .portDown _ => none
  | .routerStop _ _ _ => none
  | .ucieTrainingFail _ => none
  | .packageReset _ => none
  | .functionReady _ _ _ => none
  | .capacityPageStaged _ _ _ _ => none
  | .capacityPageEvicted _ _ _ => none
  | .pageRetirementStart _ _ _ _ => none
  | .domainBarrierPackageDrop _ _ => none
  | .remoteAccessArrives _ => none

/-- R41: the form of the CTL slot that the opcode of `w` selects, its fields read from `w`. -/
def fieldsCtl (w : Nat) : Instr :=
  match fld w 25 7 with
  | 1 => .br (Fin.ofNat 8 (fld w 22 3)) (BitVec.ofNat 22 (fld w 0 22))
  | 2 => .brp (Fin.ofNat 8 (fld w 22 3)) (Fin.ofNat 8 (fld w 19 3)) (bitOf w 18) (BitVec.ofNat 18 (fld w 0 18))
  | 3 => .jmpi (Fin.ofNat 8 (fld w 22 3)) (Fin.ofNat 32 (fld w 17 5))
  | 4 => .call (Fin.ofNat 8 (fld w 22 3)) (BitVec.ofNat 22 (fld w 0 22))
  | 5 => .ret (Fin.ofNat 8 (fld w 22 3))
  | 6 => .loop (Fin.ofNat 8 (fld w 22 3)) (Fin.ofNat 4 (fld w 20 2)) (Fin.ofNat 32 (fld w 15 5)) (BitVec.ofNat 15 (fld w 0 15))
  | 7 => .endloop (Fin.ofNat 8 (fld w 22 3)) (Fin.ofNat 4 (fld w 20 2))
  | 8 => .flagbr (Fin.ofNat 8 (fld w 22 3)) (Fin.ofNat 4 (fld w 20 2)) (bitOf w 19) (bitOf w 18) (BitVec.ofNat 18 (fld w 0 18))
  | 16 => .scope (Fin.ofNat 8 (fld w 22 3)) (Scope.ofCode (fld w 20 2))
  | 17 => .sync (Fin.ofNat 8 (fld w 22 3)) (BitVec.ofNat 8 (fld w 0 8))
  | 18 => .realign (Fin.ofNat 8 (fld w 22 3))
  | 19 => .freeze (Fin.ofNat 8 (fld w 22 3)) (BitVec.ofNat 16 (fld w 0 16))
  | 20 => .swait (Fin.ofNat 8 (fld w 22 3)) (Fin.ofNat 16 (fld w 18 4)) (BitVec.ofNat 10 (fld w 8 10))
  | 24 => .phase (Fin.ofNat 8 (fld w 22 3))
  | 25 => .phcancel (Fin.ofNat 8 (fld w 22 3))
  | 26 => .retire (Fin.ofNat 8 (fld w 22 3))
  | 32 => .lease (Fin.ofNat 8 (fld w 22 3)) (BitVec.ofNat 21 (fld w 0 21))
  | 33 => .lfree (Fin.ofNat 8 (fld w 22 3))
  | 34 => .sprint (Fin.ofNat 8 (fld w 22 3)) (Fin.ofNat 8 (fld w 19 3)) (BitVec.ofNat 2 (fld w 17 2)) (BitVec.ofNat 14 (fld w 0 14))
  | 35 => .sprfree (Fin.ofNat 8 (fld w 22 3))
  | 36 => .leave (Fin.ofNat 8 (fld w 22 3)) (BitVec.ofNat 2 (fld w 20 2)) (BitVec.ofNat 20 (fld w 0 20))
  | 40 => .trap (Fin.ofNat 8 (fld w 22 3)) (BitVec.ofNat 16 (fld w 0 16))
  | 41 => .xret (Fin.ofNat 8 (fld w 22 3))
  | 42 => .brk (Fin.ofNat 8 (fld w 22 3)) (BitVec.ofNat 16 (fld w 0 16))
  | 48 => .csrr (Fin.ofNat 8 (fld w 22 3)) (Fin.ofNat 32 (fld w 17 5)) (BitVec.ofNat 12 (fld w 0 12))
  | 49 => .csrw (Fin.ofNat 8 (fld w 22 3)) (Fin.ofNat 32 (fld w 17 5)) (BitVec.ofNat 12 (fld w 0 12))
  | 50 => .csrs (Fin.ofNat 8 (fld w 22 3)) (Fin.ofNat 32 (fld w 17 5)) (BitVec.ofNat 12 (fld w 0 12))
  | 51 => .csrc (Fin.ofNat 8 (fld w 22 3)) (Fin.ofNat 32 (fld w 17 5)) (BitVec.ofNat 12 (fld w 0 12))
  | 63 => .tend (Fin.ofNat 8 (fld w 22 3))
  | _ => .nop

/-- R42: the form of the SCL slot that the opcode of `w` selects, its fields read from `w`. -/
def fieldsScl (w : Nat) : Instr :=
  match fld w 25 7 with
  | 1 => .add (Fin.ofNat 8 (fld w 22 3)) (Fin.ofNat 32 (fld w 17 5)) (Fin.ofNat 32 (fld w 12 5)) (Fin.ofNat 32 (fld w 7 5))
  | 2 => .sub (Fin.ofNat 8 (fld w 22 3)) (Fin.ofNat 32 (fld w 17 5)) (Fin.ofNat 32 (fld w 12 5)) (Fin.ofNat 32 (fld w 7 5))
  | 3 => .mul (Fin.ofNat 8 (fld w 22 3)) (Fin.ofNat 32 (fld w 17 5)) (Fin.ofNat 32 (fld w 12 5)) (Fin.ofNat 32 (fld w 7 5))
  | 4 => .mulh (Fin.ofNat 8 (fld w 22 3)) (Fin.ofNat 32 (fld w 17 5)) (Fin.ofNat 32 (fld w 12 5)) (Fin.ofNat 32 (fld w 7 5))
  | 5 => .mulhz (Fin.ofNat 8 (fld w 22 3)) (Fin.ofNat 32 (fld w 17 5)) (Fin.ofNat 32 (fld w 12 5)) (Fin.ofNat 32 (fld w 7 5))
  | 6 => .and (Fin.ofNat 8 (fld w 22 3)) (Fin.ofNat 32 (fld w 17 5)) (Fin.ofNat 32 (fld w 12 5)) (Fin.ofNat 32 (fld w 7 5))
  | 7 => .andn (Fin.ofNat 8 (fld w 22 3)) (Fin.ofNat 32 (fld w 17 5)) (Fin.ofNat 32 (fld w 12 5)) (Fin.ofNat 32 (fld w 7 5))
  | 8 => .or (Fin.ofNat 8 (fld w 22 3)) (Fin.ofNat 32 (fld w 17 5)) (Fin.ofNat 32 (fld w 12 5)) (Fin.ofNat 32 (fld w 7 5))
  | 9 => .xor (Fin.ofNat 8 (fld w 22 3)) (Fin.ofNat 32 (fld w 17 5)) (Fin.ofNat 32 (fld w 12 5)) (Fin.ofNat 32 (fld w 7 5))
  | 10 => .shl (Fin.ofNat 8 (fld w 22 3)) (Fin.ofNat 32 (fld w 17 5)) (Fin.ofNat 32 (fld w 12 5)) (Fin.ofNat 32 (fld w 7 5))
  | 11 => .shr (Fin.ofNat 8 (fld w 22 3)) (Fin.ofNat 32 (fld w 17 5)) (Fin.ofNat 32 (fld w 12 5)) (Fin.ofNat 32 (fld w 7 5))
  | 12 => .sar (Fin.ofNat 8 (fld w 22 3)) (Fin.ofNat 32 (fld w 17 5)) (Fin.ofNat 32 (fld w 12 5)) (Fin.ofNat 32 (fld w 7 5))
  | 13 => .rotl (Fin.ofNat 8 (fld w 22 3)) (Fin.ofNat 32 (fld w 17 5)) (Fin.ofNat 32 (fld w 12 5)) (Fin.ofNat 32 (fld w 7 5))
  | 14 => .min (Fin.ofNat 8 (fld w 22 3)) (Fin.ofNat 32 (fld w 17 5)) (Fin.ofNat 32 (fld w 12 5)) (Fin.ofNat 32 (fld w 7 5))
  | 15 => .max (Fin.ofNat 8 (fld w 22 3)) (Fin.ofNat 32 (fld w 17 5)) (Fin.ofNat 32 (fld w 12 5)) (Fin.ofNat 32 (fld w 7 5))
  | 16 => .minz (Fin.ofNat 8 (fld w 22 3)) (Fin.ofNat 32 (fld w 17 5)) (Fin.ofNat 32 (fld w 12 5)) (Fin.ofNat 32 (fld w 7 5))
  | 17 => .maxz (Fin.ofNat 8 (fld w 22 3)) (Fin.ofNat 32 (fld w 17 5)) (Fin.ofNat 32 (fld w 12 5)) (Fin.ofNat 32 (fld w 7 5))
  | 18 => .clz (Fin.ofNat 8 (fld w 22 3)) (Fin.ofNat 32 (fld w 17 5)) (Fin.ofNat 32 (fld w 12 5))
  | 19 => .ctz (Fin.ofNat 8 (fld w 22 3)) (Fin.ofNat 32 (fld w 17 5)) (Fin.ofNat 32 (fld w 12 5))
  | 20 => .popc (Fin.ofNat 8 (fld w 22 3)) (Fin.ofNat 32 (fld w 17 5)) (Fin.ofNat 32 (fld w 12 5))
  | 21 => .mov (Fin.ofNat 8 (fld w 22 3)) (Fin.ofNat 32 (fld w 17 5)) (Fin.ofNat 32 (fld w 12 5))
  | 24 => .addi (Fin.ofNat 8 (fld w 22 3)) (Fin.ofNat 32 (fld w 17 5)) (Fin.ofNat 32 (fld w 12 5)) (BitVec.ofNat 12 (fld w 0 12))
  | 25 => .li (Fin.ofNat 8 (fld w 22 3)) (Fin.ofNat 32 (fld w 17 5)) (BitVec.ofNat 17 (fld w 0 17))
  | 28 => .lui 0 (Fin.ofNat 8 (fld w 22 3)) (Fin.ofNat 32 (fld w 17 5)) (BitVec.ofNat 16 (fld w 0 16))
  | 29 => .lui 1 (Fin.ofNat 8 (fld w 22 3)) (Fin.ofNat 32 (fld w 17 5)) (BitVec.ofNat 16 (fld w 0 16))
  | 30 => .lui 2 (Fin.ofNat 8 (fld w 22 3)) (Fin.ofNat 32 (fld w 17 5)) (BitVec.ofNat 16 (fld w 0 16))
  | 31 => .lui 3 (Fin.ofNat 8 (fld w 22 3)) (Fin.ofNat 32 (fld w 17 5)) (BitVec.ofNat 16 (fld w 0 16))
  | 32 => .cmp (Fin.ofNat 8 (fld w 22 3)) (Fin.ofNat 8 (fld w 19 3)) (Cc.ofCode (fld w 16 3)) (Fin.ofNat 32 (fld w 11 5)) (Fin.ofNat 32 (fld w 6 5))
  | 33 => .cmpi (Fin.ofNat 8 (fld w 22 3)) (Fin.ofNat 8 (fld w 19 3)) (Cc.ofCode (fld w 16 3)) (Fin.ofNat 32 (fld w 11 5)) (BitVec.ofNat 11 (fld w 0 11))
  | 34 => .sel (Fin.ofNat 8 (fld w 22 3)) (Fin.ofNat 32 (fld w 17 5)) (Fin.ofNat 8 (fld w 14 3)) (Fin.ofNat 32 (fld w 9 5)) (Fin.ofNat 32 (fld w 4 5))
  | 35 => .plog (Fin.ofNat 8 (fld w 22 3)) (Fin.ofNat 8 (fld w 19 3)) (Fin.ofNat 8 (fld w 16 3)) (Fin.ofNat 8 (fld w 13 3)) (BitVec.ofNat 4 (fld w 9 4))
  | 40 => .capnarrow (Fin.ofNat 8 (fld w 22 3)) (Fin.ofNat 16 (fld w 18 4)) (Fin.ofNat 16 (fld w 14 4)) (Fin.ofNat 32 (fld w 9 5)) (Fin.ofNat 32 (fld w 4 5))
  | 41 => .capoff (Fin.ofNat 8 (fld w 22 3)) (Fin.ofNat 16 (fld w 18 4)) (Fin.ofNat 16 (fld w 14 4)) (BitVec.ofNat 8 (fld w 0 8))
  | 42 => .capinfo (Fin.ofNat 8 (fld w 22 3)) (Fin.ofNat 32 (fld w 17 5)) (Fin.ofNat 16 (fld w 13 4)) (CapField.ofCode (fld w 11 2))
  | 43 => .capdrop (Fin.ofNat 8 (fld w 22 3)) (Fin.ofNat 16 (fld w 18 4))
  | 48 => .maskld (Fin.ofNat 8 (fld w 22 3)) (Fin.ofNat 8 (fld w 19 3)) (Fin.ofNat 32 (fld w 14 5))
  | 49 => .maskrot (Fin.ofNat 8 (fld w 22 3)) (Fin.ofNat 8 (fld w 19 3)) (Fin.ofNat 8 (fld w 16 3)) (Fin.ofNat 32 (fld w 11 5))
  | _ => .nop

/-- R43 to R45: the form of the MEM slot that the opcode of `w` selects, its fields read from `w`. -/
def fieldsMem (w : Nat) : Instr :=
  match fld w 25 7 with
  | 1 => .ld (Fin.ofNat 8 (fld w 22 3)) (Fin.ofNat 32 (fld w 17 5)) (Fin.ofNat 16 (fld w 13 4)) (Fin.ofNat 32 (fld w 8 5)) (Width.ofCode (fld w 5 3)) (BitVec.ofNat 5 (fld w 0 5))
  | 2 => .st (Fin.ofNat 8 (fld w 22 3)) (Fin.ofNat 32 (fld w 17 5)) (Fin.ofNat 16 (fld w 13 4)) (Fin.ofNat 32 (fld w 8 5)) (Width.ofCode (fld w 5 3)) (BitVec.ofNat 5 (fld w 0 5))
  | 3 => .ldp (Fin.ofNat 8 (fld w 22 3)) (Fin.ofNat 32 (fld w 17 5)) (Fin.ofNat 16 (fld w 13 4)) (Fin.ofNat 32 (fld w 8 5)) (BitVec.ofNat 5 (fld w 0 5))
  | 4 => .stp (Fin.ofNat 8 (fld w 22 3)) (Fin.ofNat 32 (fld w 17 5)) (Fin.ofNat 16 (fld w 13 4)) (Fin.ofNat 32 (fld w 8 5)) (BitVec.ofNat 5 (fld w 0 5))
  | 8 => .mark (Fin.ofNat 8 (fld w 22 3))
  | 9 => .fence (Fin.ofNat 8 (fld w 22 3)) (Scope.ofCode (fld w 20 2))
  | 16 => .amoAdd (Fin.ofNat 8 (fld w 22 3)) (Fin.ofNat 32 (fld w 17 5)) (Fin.ofNat 16 (fld w 13 4)) (Fin.ofNat 32 (fld w 8 5)) (Fin.ofNat 32 (fld w 3 5)) (bitOf w 2)
  | 17 => .amoAnd (Fin.ofNat 8 (fld w 22 3)) (Fin.ofNat 32 (fld w 17 5)) (Fin.ofNat 16 (fld w 13 4)) (Fin.ofNat 32 (fld w 8 5)) (Fin.ofNat 32 (fld w 3 5)) (bitOf w 2)
  | 18 => .amoOr (Fin.ofNat 8 (fld w 22 3)) (Fin.ofNat 32 (fld w 17 5)) (Fin.ofNat 16 (fld w 13 4)) (Fin.ofNat 32 (fld w 8 5)) (Fin.ofNat 32 (fld w 3 5)) (bitOf w 2)
  | 19 => .amoXor (Fin.ofNat 8 (fld w 22 3)) (Fin.ofNat 32 (fld w 17 5)) (Fin.ofNat 16 (fld w 13 4)) (Fin.ofNat 32 (fld w 8 5)) (Fin.ofNat 32 (fld w 3 5)) (bitOf w 2)
  | 20 => .amoMin (Fin.ofNat 8 (fld w 22 3)) (Fin.ofNat 32 (fld w 17 5)) (Fin.ofNat 16 (fld w 13 4)) (Fin.ofNat 32 (fld w 8 5)) (Fin.ofNat 32 (fld w 3 5)) (bitOf w 2)
  | 21 => .amoMax (Fin.ofNat 8 (fld w 22 3)) (Fin.ofNat 32 (fld w 17 5)) (Fin.ofNat 16 (fld w 13 4)) (Fin.ofNat 32 (fld w 8 5)) (Fin.ofNat 32 (fld w 3 5)) (bitOf w 2)
  | 22 => .amoMinz (Fin.ofNat 8 (fld w 22 3)) (Fin.ofNat 32 (fld w 17 5)) (Fin.ofNat 16 (fld w 13 4)) (Fin.ofNat 32 (fld w 8 5)) (Fin.ofNat 32 (fld w 3 5)) (bitOf w 2)
  | 23 => .amoMaxz (Fin.ofNat 8 (fld w 22 3)) (Fin.ofNat 32 (fld w 17 5)) (Fin.ofNat 16 (fld w 13 4)) (Fin.ofNat 32 (fld w 8 5)) (Fin.ofNat 32 (fld w 3 5)) (bitOf w 2)
  | 24 => .amoSwap (Fin.ofNat 8 (fld w 22 3)) (Fin.ofNat 32 (fld w 17 5)) (Fin.ofNat 16 (fld w 13 4)) (Fin.ofNat 32 (fld w 8 5)) (Fin.ofNat 32 (fld w 3 5)) (bitOf w 2)
  | 25 => .cas (Fin.ofNat 8 (fld w 22 3)) (Fin.ofNat 32 (fld w 17 5)) (Fin.ofNat 16 (fld w 13 4)) (Fin.ofNat 32 (fld w 8 5)) (Fin.ofNat 32 (fld w 3 5)) (bitOf w 2)
  | 32 => .redAdd (Fin.ofNat 8 (fld w 22 3)) (Fin.ofNat 16 (fld w 13 4)) (Fin.ofNat 32 (fld w 8 5)) (Fin.ofNat 32 (fld w 3 5)) (bitOf w 2)
  | 33 => .redAnd (Fin.ofNat 8 (fld w 22 3)) (Fin.ofNat 16 (fld w 13 4)) (Fin.ofNat 32 (fld w 8 5)) (Fin.ofNat 32 (fld w 3 5)) (bitOf w 2)
  | 34 => .redOr (Fin.ofNat 8 (fld w 22 3)) (Fin.ofNat 16 (fld w 13 4)) (Fin.ofNat 32 (fld w 8 5)) (Fin.ofNat 32 (fld w 3 5)) (bitOf w 2)
  | 35 => .redXor (Fin.ofNat 8 (fld w 22 3)) (Fin.ofNat 16 (fld w 13 4)) (Fin.ofNat 32 (fld w 8 5)) (Fin.ofNat 32 (fld w 3 5)) (bitOf w 2)
  | 36 => .redMin (Fin.ofNat 8 (fld w 22 3)) (Fin.ofNat 16 (fld w 13 4)) (Fin.ofNat 32 (fld w 8 5)) (Fin.ofNat 32 (fld w 3 5)) (bitOf w 2)
  | 37 => .redMax (Fin.ofNat 8 (fld w 22 3)) (Fin.ofNat 16 (fld w 13 4)) (Fin.ofNat 32 (fld w 8 5)) (Fin.ofNat 32 (fld w 3 5)) (bitOf w 2)
  | 38 => .redFadd (Fin.ofNat 8 (fld w 22 3)) (Fin.ofNat 16 (fld w 13 4)) (Fin.ofNat 32 (fld w 8 5)) (Fin.ofNat 32 (fld w 3 5))
  | 40 => .strmBind (Fin.ofNat 8 (fld w 22 3)) (Fin.ofNat 16 (fld w 18 4)) (Fin.ofNat 16 (fld w 13 4)) (Fin.ofNat 32 (fld w 8 5)) (Fin.ofNat 16 (fld w 4 4))
  | 41 => .strmAdv (Fin.ofNat 8 (fld w 22 3)) (Fin.ofNat 16 (fld w 18 4)) (Fin.ofNat 32 (fld w 8 5))
  | 42 => .strmLvl (Fin.ofNat 8 (fld w 22 3)) (Fin.ofNat 32 (fld w 17 5)) (Fin.ofNat 16 (fld w 4 4))
  | 43 => .strmRew (Fin.ofNat 8 (fld w 22 3)) (Fin.ofNat 16 (fld w 18 4))
  | 48 => .cpySet (Fin.ofNat 8 (fld w 22 3)) (Fin.ofNat 16 (fld w 18 4)) (Fin.ofNat 16 (fld w 13 4)) (Fin.ofNat 32 (fld w 8 5))
  | 49 => .cpyGo (Fin.ofNat 8 (fld w 22 3)) (Fin.ofNat 16 (fld w 18 4))
  | 50 => .cpyStage (Fin.ofNat 8 (fld w 22 3)) (Fin.ofNat 16 (fld w 18 4)) (BitVec.ofNat 6 (fld w 0 6))
  | 51 => .cpbinv (Fin.ofNat 8 (fld w 22 3)) (BitVec.ofNat 8 (fld w 0 8))
  | 56 => .tlWait (Fin.ofNat 8 (fld w 22 3)) (Fin.ofNat 32 (fld w 17 5)) (Fin.ofNat 20 (fld w 12 5)) (Fin.ofNat 32 (fld w 7 5))
  | 57 => .tlRead (Fin.ofNat 8 (fld w 22 3)) (Fin.ofNat 32 (fld w 17 5)) (Fin.ofNat 20 (fld w 12 5))
  | 58 => .tlBump (Fin.ofNat 8 (fld w 22 3))
  | 64 => .barInit (Fin.ofNat 8 (fld w 22 3)) (Fin.ofNat 32 (fld w 17 5)) (BitVec.ofNat 8 (fld w 9 8))
  | 65 => .barArr (Fin.ofNat 8 (fld w 22 3)) (BitVec.ofNat 8 (fld w 9 8))
  | 66 => .barDrop (Fin.ofNat 8 (fld w 22 3)) (BitVec.ofNat 8 (fld w 9 8))
  | 67 => .barXp (Fin.ofNat 8 (fld w 22 3)) (Fin.ofNat 32 (fld w 17 5)) (BitVec.ofNat 8 (fld w 9 8))
  | 68 => .barWait (Fin.ofNat 8 (fld w 22 3)) (Fin.ofNat 32 (fld w 17 5)) (BitVec.ofNat 8 (fld w 9 8))
  | 69 => .barTest (Fin.ofNat 8 (fld w 22 3)) (BitVec.ofNat 8 (fld w 9 8)) (Fin.ofNat 8 (fld w 6 3))
  | 72 => .evSig (Fin.ofNat 8 (fld w 22 3)) (BitVec.ofNat 16 (fld w 0 16))
  | 73 => .tlaunch (Fin.ofNat 8 (fld w 22 3)) (Fin.ofNat 16 (fld w 13 4)) (Fin.ofNat 32 (fld w 8 5))
  | 80 => .probe (Fin.ofNat 8 (fld w 22 3)) (Fin.ofNat 8 (fld w 19 3)) (Fin.ofNat 16 (fld w 13 4)) (Fin.ofNat 32 (fld w 8 5)) (Fin.ofNat 32 (fld w 3 5))
  | 81 => .unpin (Fin.ofNat 8 (fld w 22 3)) (Fin.ofNat 16 (fld w 13 4)) (Fin.ofNat 32 (fld w 8 5)) (Fin.ofNat 32 (fld w 3 5))
  | 82 => .prefetch (Fin.ofNat 8 (fld w 22 3)) (Fin.ofNat 16 (fld w 13 4)) (Fin.ofNat 32 (fld w 8 5)) (Fin.ofNat 32 (fld w 3 5))
  | 83 => .evict (Fin.ofNat 8 (fld w 22 3)) (Fin.ofNat 16 (fld w 13 4)) (Fin.ofNat 32 (fld w 8 5)) (Fin.ofNat 32 (fld w 3 5))
  | 84 => .role (Fin.ofNat 8 (fld w 22 3)) (Fin.ofNat 32 (fld w 17 5)) (Role.ofCode (fld w 15 2)) (View.ofCode (fld w 13 2))
  | _ => .nop

/-- R46: the form of the FDN slot that the opcode of `w` selects, its fields read from `w`. -/
def fieldsFdn (w : Nat) : Instr :=
  match fld w 25 7 with
  | 1 => .fnPop (Fin.ofNat 8 (fld w 22 3)) (Fin.ofNat 16 (fld w 18 4)) (Skew.ofCode (fld w 16 2)) (Fin.ofNat 16 (fld w 10 4))
  | 2 => .fnPopt (Fin.ofNat 8 (fld w 22 3)) (Fin.ofNat 16 (fld w 18 4)) (Skew.ofCode (fld w 16 2)) (LaneW.ofCode (fld w 14 2)) (Fin.ofNat 16 (fld w 10 4))
  | 3 => .fnZero (Fin.ofNat 8 (fld w 22 3)) (Fin.ofNat 16 (fld w 10 4))
  | 4 => .fnHold (Fin.ofNat 8 (fld w 22 3))
  | 5 => .fnBcast (Fin.ofNat 8 (fld w 22 3)) (Fin.ofNat 16 (fld w 18 4)) (Fin.ofNat 16 (fld w 10 4))
  | 6 => .fnTag (Fin.ofNat 8 (fld w 22 3)) (Fin.ofNat 32 (fld w 17 5))
  | 7 => .fnSkew (Fin.ofNat 8 (fld w 22 3)) (BitVec.ofNat 6 (fld w 0 6))
  | _ => .nop

/-- R46: the form of the FDW slot that the opcode of `w` selects, its fields read from `w`. -/
def fieldsFdw (w : Nat) : Instr :=
  match fld w 25 7 with
  | 1 => .fwPop (Fin.ofNat 8 (fld w 22 3)) (Fin.ofNat 16 (fld w 18 4)) (Skew.ofCode (fld w 16 2)) (Fin.ofNat 16 (fld w 10 4))
  | 2 => .fwPopt (Fin.ofNat 8 (fld w 22 3)) (Fin.ofNat 16 (fld w 18 4)) (Skew.ofCode (fld w 16 2)) (LaneW.ofCode (fld w 14 2)) (Fin.ofNat 16 (fld w 10 4))
  | 3 => .fwZero (Fin.ofNat 8 (fld w 22 3)) (Fin.ofNat 16 (fld w 10 4))
  | 4 => .fwHold (Fin.ofNat 8 (fld w 22 3))
  | 5 => .fwBcast (Fin.ofNat 8 (fld w 22 3)) (Fin.ofNat 16 (fld w 18 4)) (Fin.ofNat 16 (fld w 10 4))
  | 6 => .fwTag (Fin.ofNat 8 (fld w 22 3)) (Fin.ofNat 32 (fld w 17 5))
  | 7 => .fwSkew (Fin.ofNat 8 (fld w 22 3)) (BitVec.ofNat 6 (fld w 0 6))
  | _ => .nop

/-- R47 to R51: the form of the WAVE slot that the opcode of `w` selects, its fields read from `w`. -/
def fieldsWave (w : Nat) : Instr :=
  match fld w 25 7 with
  | 1 => .waveMov (Fin.ofNat 16 (fld w 21 4)) (Fin.ofNat 8 (fld w 18 3)) (Dst.ofCode (fld w 13 5)) (Src.ofCode (fld w 8 5)) (Elem.ofCode (fld w 0 3))
  | 2 => .movi (Fin.ofNat 16 (fld w 21 4)) (Fin.ofNat 8 (fld w 18 3)) (Dst.ofCode (fld w 13 5)) (BitVec.ofNat 10 (fld w 3 10)) (Elem.ofCode (fld w 0 3))
  | 3 => .waveAdd (Fin.ofNat 16 (fld w 21 4)) (Fin.ofNat 8 (fld w 18 3)) (Dst.ofCode (fld w 13 5)) (Src.ofCode (fld w 8 5)) (Src.ofCode (fld w 3 5)) (Elem.ofCode (fld w 0 3))
  | 4 => .waveSub (Fin.ofNat 16 (fld w 21 4)) (Fin.ofNat 8 (fld w 18 3)) (Dst.ofCode (fld w 13 5)) (Src.ofCode (fld w 8 5)) (Src.ofCode (fld w 3 5)) (Elem.ofCode (fld w 0 3))
  | 5 => .waveMul (Fin.ofNat 16 (fld w 21 4)) (Fin.ofNat 8 (fld w 18 3)) (Dst.ofCode (fld w 13 5)) (Src.ofCode (fld w 8 5)) (Src.ofCode (fld w 3 5)) (Elem.ofCode (fld w 0 3))
  | 6 => .fma (Fin.ofNat 16 (fld w 21 4)) (Fin.ofNat 8 (fld w 18 3)) (Dst.ofCode (fld w 13 5)) (Src.ofCode (fld w 8 5)) (Src.ofCode (fld w 3 5)) (Elem.ofCode (fld w 0 3))
  | 7 => .waveMin (Fin.ofNat 16 (fld w 21 4)) (Fin.ofNat 8 (fld w 18 3)) (Dst.ofCode (fld w 13 5)) (Src.ofCode (fld w 8 5)) (Src.ofCode (fld w 3 5)) (Elem.ofCode (fld w 0 3))
  | 8 => .waveMax (Fin.ofNat 16 (fld w 21 4)) (Fin.ofNat 8 (fld w 18 3)) (Dst.ofCode (fld w 13 5)) (Src.ofCode (fld w 8 5)) (Src.ofCode (fld w 3 5)) (Elem.ofCode (fld w 0 3))
  | 9 => .abs (Fin.ofNat 16 (fld w 21 4)) (Fin.ofNat 8 (fld w 18 3)) (Dst.ofCode (fld w 13 5)) (Src.ofCode (fld w 8 5)) (Elem.ofCode (fld w 0 3))
  | 10 => .neg (Fin.ofNat 16 (fld w 21 4)) (Fin.ofNat 8 (fld w 18 3)) (Dst.ofCode (fld w 13 5)) (Src.ofCode (fld w 8 5)) (Elem.ofCode (fld w 0 3))
  | 11 => .waveCmp (Fin.ofNat 16 (fld w 21 4)) (Fin.ofNat 8 (fld w 18 3)) (CellCc.ofCode (fld w 15 3)) (Fin.ofNat 4 (fld w 13 2)) (Src.ofCode (fld w 8 5)) (Src.ofCode (fld w 3 5)) (Elem.ofCode (fld w 0 3))
  | 12 => .selg (Fin.ofNat 16 (fld w 21 4)) (Fin.ofNat 8 (fld w 18 3)) (Dst.ofCode (fld w 13 5)) (Src.ofCode (fld w 8 5)) (Src.ofCode (fld w 3 5)) (Fin.ofNat 4 (fld w 0 2))
  | 13 => .waveAnd (Fin.ofNat 16 (fld w 21 4)) (Fin.ofNat 8 (fld w 18 3)) (Dst.ofCode (fld w 13 5)) (Src.ofCode (fld w 8 5)) (Src.ofCode (fld w 3 5)) (Elem.ofCode (fld w 0 3))
  | 14 => .waveOr (Fin.ofNat 16 (fld w 21 4)) (Fin.ofNat 8 (fld w 18 3)) (Dst.ofCode (fld w 13 5)) (Src.ofCode (fld w 8 5)) (Src.ofCode (fld w 3 5)) (Elem.ofCode (fld w 0 3))
  | 15 => .waveXor (Fin.ofNat 16 (fld w 21 4)) (Fin.ofNat 8 (fld w 18 3)) (Dst.ofCode (fld w 13 5)) (Src.ofCode (fld w 8 5)) (Src.ofCode (fld w 3 5)) (Elem.ofCode (fld w 0 3))
  | 16 => .waveShl (Fin.ofNat 16 (fld w 21 4)) (Fin.ofNat 8 (fld w 18 3)) (Dst.ofCode (fld w 13 5)) (Src.ofCode (fld w 8 5)) (Src.ofCode (fld w 3 5)) (Elem.ofCode (fld w 0 3))
  | 17 => .waveShr (Fin.ofNat 16 (fld w 21 4)) (Fin.ofNat 8 (fld w 18 3)) (Dst.ofCode (fld w 13 5)) (Src.ofCode (fld w 8 5)) (Src.ofCode (fld w 3 5)) (Elem.ofCode (fld w 0 3))
  | 18 => .waveSar (Fin.ofNat 16 (fld w 21 4)) (Fin.ofNat 8 (fld w 18 3)) (Dst.ofCode (fld w 13 5)) (Src.ofCode (fld w 8 5)) (Src.ofCode (fld w 3 5)) (Elem.ofCode (fld w 0 3))
  | 20 => .pack (Fin.ofNat 16 (fld w 21 4)) (Fin.ofNat 8 (fld w 18 3)) (Dst.ofCode (fld w 13 5)) (Src.ofCode (fld w 8 5)) (Src.ofCode (fld w 3 5)) (LaneW.ofCode (fld w 0 2))
  | 21 => .unpk (Fin.ofNat 16 (fld w 21 4)) (Fin.ofNat 8 (fld w 18 3)) (Dst.ofCode (fld w 13 5)) (Src.ofCode (fld w 8 5)) (bitOf w 3) (LaneW.ofCode (fld w 0 2))
  | 24 => .mma (Fin.ofNat 16 (fld w 21 4)) (Fin.ofNat 8 (fld w 18 3)) (bitOf w 17) (Fin.ofNat 4 (fld w 13 2)) (Src.ofCode (fld w 8 5)) (Src.ofCode (fld w 3 5)) (Fmt.ofCode (fld w 15 1 * 8 + fld w 0 3))
  | 25 => .mmaz (Fin.ofNat 16 (fld w 21 4)) (Fin.ofNat 8 (fld w 18 3)) (bitOf w 17) (Fin.ofNat 4 (fld w 13 2)) (Src.ofCode (fld w 8 5)) (Src.ofCode (fld w 3 5)) (Fmt.ofCode (fld w 15 1 * 8 + fld w 0 3))
  | 26 => .mmas (Fin.ofNat 16 (fld w 21 4)) (Fin.ofNat 8 (fld w 18 3)) (bitOf w 17) (Fin.ofNat 4 (fld w 13 2)) (Src.ofCode (fld w 8 5)) (Src.ofCode (fld w 3 5)) (Fmt.ofCode (fld w 15 1 * 8 + fld w 0 3))
  | 28 => .accz (Fin.ofNat 16 (fld w 21 4)) (Fin.ofNat 8 (fld w 18 3)) (Fin.ofNat 4 (fld w 13 2)) (bitOf w 0)
  | 29 => .accld (Fin.ofNat 16 (fld w 21 4)) (Fin.ofNat 8 (fld w 18 3)) (Fin.ofNat 4 (fld w 13 2)) (Fin.ofNat 4 ((fld w 8 5) - 27))
  | 30 => .accst (Fin.ofNat 16 (fld w 21 4)) (Fin.ofNat 8 (fld w 18 3)) (Fin.ofNat 4 (fld w 13 2)) (Fin.ofNat 4 ((fld w 8 5) - 27))
  | 32 => .lds (Fin.ofNat 16 (fld w 21 4)) (Fin.ofNat 8 (fld w 18 3)) (Dst.ofCode (fld w 13 5)) (Fin.ofNat 4 ((fld w 8 5) - 27)) (BitVec.ofNat 5 (fld w 3 5))
  | 33 => .sts (Fin.ofNat 16 (fld w 21 4)) (Fin.ofNat 8 (fld w 18 3)) (Fin.ofNat 4 ((fld w 13 5) - 27)) (Src.ofCode (fld w 8 5)) (BitVec.ofNat 5 (fld w 3 5))
  | 34 => .kset (Fin.ofNat 16 (fld w 21 4)) (Fin.ofNat 8 (fld w 18 3)) (Fin.ofNat 4 ((fld w 13 5) - 27)) (BitVec.ofNat 9 (fld w 3 9))
  | 35 => .kadd (Fin.ofNat 16 (fld w 21 4)) (Fin.ofNat 8 (fld w 18 3)) (Fin.ofNat 4 ((fld w 13 5) - 27)) (BitVec.ofNat 10 (fld w 3 10))
  | 36 => .perm (Fin.ofNat 16 (fld w 21 4)) (Fin.ofNat 8 (fld w 18 3)) (Dst.ofCode (fld w 13 5)) (Src.ofCode (fld w 8 5)) (Src.ofCode (fld w 3 5)) (LaneW.ofCode (fld w 0 2))
  | 37 => .xpose (Fin.ofNat 16 (fld w 21 4)) (Fin.ofNat 8 (fld w 18 3)) (Dst.ofCode (fld w 13 5)) (Src.ofCode (fld w 8 5)) (LaneW.ofCode (fld w 0 2))
  | 38 => .shuf (Fin.ofNat 16 (fld w 21 4)) (Fin.ofNat 8 (fld w 18 3)) (Dst.ofCode (fld w 13 5)) (Src.ofCode (fld w 8 5)) (Src.ofCode (fld w 3 5)) (Fin.ofNat 8 (fld w 0 3))
  | 40 => .exp2 (Fin.ofNat 16 (fld w 21 4)) (Fin.ofNat 8 (fld w 18 3)) (Dst.ofCode (fld w 13 5)) (Src.ofCode (fld w 8 5))
  | 41 => .log2 (Fin.ofNat 16 (fld w 21 4)) (Fin.ofNat 8 (fld w 18 3)) (Dst.ofCode (fld w 13 5)) (Src.ofCode (fld w 8 5))
  | 42 => .rcp (Fin.ofNat 16 (fld w 21 4)) (Fin.ofNat 8 (fld w 18 3)) (Dst.ofCode (fld w 13 5)) (Src.ofCode (fld w 8 5))
  | 43 => .rsq (Fin.ofNat 16 (fld w 21 4)) (Fin.ofNat 8 (fld w 18 3)) (Dst.ofCode (fld w 13 5)) (Src.ofCode (fld w 8 5))
  | 44 => .rng (Fin.ofNat 16 (fld w 21 4)) (Fin.ofNat 8 (fld w 18 3)) (Dst.ofCode (fld w 13 5)) (RngKind.ofCode (fld w 3 2)) (Fin.ofNat 8 (fld w 0 3))
  | 45 => .noise (Fin.ofNat 16 (fld w 21 4)) (Fin.ofNat 8 (fld w 18 3)) (Dst.ofCode (fld w 13 5)) (Elem.ofCode (fld w 0 3))
  | 48 => .dot (Fin.ofNat 16 (fld w 21 4)) (Fin.ofNat 8 (fld w 18 3)) (Dst.ofCode (fld w 13 5)) (Src.ofCode (fld w 8 5)) (Src.ofCode (fld w 3 5)) (Elem.ofCode (fld w 0 3))
  | 49 => .sumr (Fin.ofNat 16 (fld w 21 4)) (Fin.ofNat 8 (fld w 18 3)) (Dst.ofCode (fld w 13 5)) (Src.ofCode (fld w 8 5)) (Elem.ofCode (fld w 0 3))
  | 50 => .prefixSum (Fin.ofNat 16 (fld w 21 4)) (Fin.ofNat 8 (fld w 18 3)) (Dst.ofCode (fld w 13 5)) (Src.ofCode (fld w 8 5)) (Src.ofCode (fld w 3 5)) (Elem.ofCode (fld w 0 3))
  | 52 => .flag (Fin.ofNat 16 (fld w 21 4)) (Fin.ofNat 8 (fld w 18 3)) (CellCc.ofCode (fld w 15 3)) (Fin.ofNat 4 (fld w 13 2)) (Src.ofCode (fld w 8 5)) (Elem.ofCode (fld w 0 3))
  | 53 => .gset (Fin.ofNat 16 (fld w 21 4)) (Fin.ofNat 8 (fld w 18 3)) (Fin.ofNat 4 (fld w 13 2)) (bitOf w 0)
  | 54 => .tmk (Fin.ofNat 16 (fld w 21 4)) (Fin.ofNat 8 (fld w 18 3)) (Dst.ofCode (fld w 13 5)) (Src.ofCode (fld w 8 5)) (Src.ofCode (fld w 3 5)) (TmkClass.ofCode (fld w 0 3))
  | 64 => .cvt .f32 (Fin.ofNat 16 (fld w 21 4)) (Fin.ofNat 8 (fld w 18 3)) (Dst.ofCode (fld w 13 5)) (Src.ofCode (fld w 8 5)) (Fmt.ofCode (fld w 3 4)) (Rnd.ofCode (fld w 0 3))
  | 65 => .cvt .bf16 (Fin.ofNat 16 (fld w 21 4)) (Fin.ofNat 8 (fld w 18 3)) (Dst.ofCode (fld w 13 5)) (Src.ofCode (fld w 8 5)) (Fmt.ofCode (fld w 3 4)) (Rnd.ofCode (fld w 0 3))
  | 66 => .cvt .f16 (Fin.ofNat 16 (fld w 21 4)) (Fin.ofNat 8 (fld w 18 3)) (Dst.ofCode (fld w 13 5)) (Src.ofCode (fld w 8 5)) (Fmt.ofCode (fld w 3 4)) (Rnd.ofCode (fld w 0 3))
  | 67 => .cvt .e4m3 (Fin.ofNat 16 (fld w 21 4)) (Fin.ofNat 8 (fld w 18 3)) (Dst.ofCode (fld w 13 5)) (Src.ofCode (fld w 8 5)) (Fmt.ofCode (fld w 3 4)) (Rnd.ofCode (fld w 0 3))
  | 68 => .cvt .e5m2 (Fin.ofNat 16 (fld w 21 4)) (Fin.ofNat 8 (fld w 18 3)) (Dst.ofCode (fld w 13 5)) (Src.ofCode (fld w 8 5)) (Fmt.ofCode (fld w 3 4)) (Rnd.ofCode (fld w 0 3))
  | 69 => .cvt .e3m2 (Fin.ofNat 16 (fld w 21 4)) (Fin.ofNat 8 (fld w 18 3)) (Dst.ofCode (fld w 13 5)) (Src.ofCode (fld w 8 5)) (Fmt.ofCode (fld w 3 4)) (Rnd.ofCode (fld w 0 3))
  | 70 => .cvt .e2m3 (Fin.ofNat 16 (fld w 21 4)) (Fin.ofNat 8 (fld w 18 3)) (Dst.ofCode (fld w 13 5)) (Src.ofCode (fld w 8 5)) (Fmt.ofCode (fld w 3 4)) (Rnd.ofCode (fld w 0 3))
  | 71 => .cvt .e2m1 (Fin.ofNat 16 (fld w 21 4)) (Fin.ofNat 8 (fld w 18 3)) (Dst.ofCode (fld w 13 5)) (Src.ofCode (fld w 8 5)) (Fmt.ofCode (fld w 3 4)) (Rnd.ofCode (fld w 0 3))
  | 72 => .cvt .i8 (Fin.ofNat 16 (fld w 21 4)) (Fin.ofNat 8 (fld w 18 3)) (Dst.ofCode (fld w 13 5)) (Src.ofCode (fld w 8 5)) (Fmt.ofCode (fld w 3 4)) (Rnd.ofCode (fld w 0 3))
  | 73 => .cvt .z8 (Fin.ofNat 16 (fld w 21 4)) (Fin.ofNat 8 (fld w 18 3)) (Dst.ofCode (fld w 13 5)) (Src.ofCode (fld w 8 5)) (Fmt.ofCode (fld w 3 4)) (Rnd.ofCode (fld w 0 3))
  | 74 => .cvt .i4 (Fin.ofNat 16 (fld w 21 4)) (Fin.ofNat 8 (fld w 18 3)) (Dst.ofCode (fld w 13 5)) (Src.ofCode (fld w 8 5)) (Fmt.ofCode (fld w 3 4)) (Rnd.ofCode (fld w 0 3))
  | 75 => .cvt .i32 (Fin.ofNat 16 (fld w 21 4)) (Fin.ofNat 8 (fld w 18 3)) (Dst.ofCode (fld w 13 5)) (Src.ofCode (fld w 8 5)) (Fmt.ofCode (fld w 3 4)) (Rnd.ofCode (fld w 0 3))
  | 76 => .cvt .z32 (Fin.ofNat 16 (fld w 21 4)) (Fin.ofNat 8 (fld w 18 3)) (Dst.ofCode (fld w 13 5)) (Src.ofCode (fld w 8 5)) (Fmt.ofCode (fld w 3 4)) (Rnd.ofCode (fld w 0 3))
  | 80 => .drain .f32 (Fin.ofNat 16 (fld w 21 4)) (Fin.ofNat 8 (fld w 18 3)) (bitOf w 17) (bitOf w 16) (bitOf w 15) (Fin.ofNat 4 (fld w 13 2)) (Dst.ofCode (fld w 8 5)) (Fin.ofNat 16 (fld w 3 5)) (Rnd.ofCode (fld w 0 3))
  | 81 => .drain .bf16 (Fin.ofNat 16 (fld w 21 4)) (Fin.ofNat 8 (fld w 18 3)) (bitOf w 17) (bitOf w 16) (bitOf w 15) (Fin.ofNat 4 (fld w 13 2)) (Dst.ofCode (fld w 8 5)) (Fin.ofNat 16 (fld w 3 5)) (Rnd.ofCode (fld w 0 3))
  | 82 => .drain .f16 (Fin.ofNat 16 (fld w 21 4)) (Fin.ofNat 8 (fld w 18 3)) (bitOf w 17) (bitOf w 16) (bitOf w 15) (Fin.ofNat 4 (fld w 13 2)) (Dst.ofCode (fld w 8 5)) (Fin.ofNat 16 (fld w 3 5)) (Rnd.ofCode (fld w 0 3))
  | 83 => .drain .e4m3 (Fin.ofNat 16 (fld w 21 4)) (Fin.ofNat 8 (fld w 18 3)) (bitOf w 17) (bitOf w 16) (bitOf w 15) (Fin.ofNat 4 (fld w 13 2)) (Dst.ofCode (fld w 8 5)) (Fin.ofNat 16 (fld w 3 5)) (Rnd.ofCode (fld w 0 3))
  | 84 => .drain .e5m2 (Fin.ofNat 16 (fld w 21 4)) (Fin.ofNat 8 (fld w 18 3)) (bitOf w 17) (bitOf w 16) (bitOf w 15) (Fin.ofNat 4 (fld w 13 2)) (Dst.ofCode (fld w 8 5)) (Fin.ofNat 16 (fld w 3 5)) (Rnd.ofCode (fld w 0 3))
  | 85 => .drain .e3m2 (Fin.ofNat 16 (fld w 21 4)) (Fin.ofNat 8 (fld w 18 3)) (bitOf w 17) (bitOf w 16) (bitOf w 15) (Fin.ofNat 4 (fld w 13 2)) (Dst.ofCode (fld w 8 5)) (Fin.ofNat 16 (fld w 3 5)) (Rnd.ofCode (fld w 0 3))
  | 86 => .drain .e2m3 (Fin.ofNat 16 (fld w 21 4)) (Fin.ofNat 8 (fld w 18 3)) (bitOf w 17) (bitOf w 16) (bitOf w 15) (Fin.ofNat 4 (fld w 13 2)) (Dst.ofCode (fld w 8 5)) (Fin.ofNat 16 (fld w 3 5)) (Rnd.ofCode (fld w 0 3))
  | 87 => .drain .e2m1 (Fin.ofNat 16 (fld w 21 4)) (Fin.ofNat 8 (fld w 18 3)) (bitOf w 17) (bitOf w 16) (bitOf w 15) (Fin.ofNat 4 (fld w 13 2)) (Dst.ofCode (fld w 8 5)) (Fin.ofNat 16 (fld w 3 5)) (Rnd.ofCode (fld w 0 3))
  | 88 => .drain .i8 (Fin.ofNat 16 (fld w 21 4)) (Fin.ofNat 8 (fld w 18 3)) (bitOf w 17) (bitOf w 16) (bitOf w 15) (Fin.ofNat 4 (fld w 13 2)) (Dst.ofCode (fld w 8 5)) (Fin.ofNat 16 (fld w 3 5)) (Rnd.ofCode (fld w 0 3))
  | 89 => .drain .z8 (Fin.ofNat 16 (fld w 21 4)) (Fin.ofNat 8 (fld w 18 3)) (bitOf w 17) (bitOf w 16) (bitOf w 15) (Fin.ofNat 4 (fld w 13 2)) (Dst.ofCode (fld w 8 5)) (Fin.ofNat 16 (fld w 3 5)) (Rnd.ofCode (fld w 0 3))
  | 90 => .drain .i4 (Fin.ofNat 16 (fld w 21 4)) (Fin.ofNat 8 (fld w 18 3)) (bitOf w 17) (bitOf w 16) (bitOf w 15) (Fin.ofNat 4 (fld w 13 2)) (Dst.ofCode (fld w 8 5)) (Fin.ofNat 16 (fld w 3 5)) (Rnd.ofCode (fld w 0 3))
  | 91 => .drain .i32 (Fin.ofNat 16 (fld w 21 4)) (Fin.ofNat 8 (fld w 18 3)) (bitOf w 17) (bitOf w 16) (bitOf w 15) (Fin.ofNat 4 (fld w 13 2)) (Dst.ofCode (fld w 8 5)) (Fin.ofNat 16 (fld w 3 5)) (Rnd.ofCode (fld w 0 3))
  | 92 => .drain .z32 (Fin.ofNat 16 (fld w 21 4)) (Fin.ofNat 8 (fld w 18 3)) (bitOf w 17) (bitOf w 16) (bitOf w 15) (Fin.ofNat 4 (fld w 13 2)) (Dst.ofCode (fld w 8 5)) (Fin.ofNat 16 (fld w 3 5)) (Rnd.ofCode (fld w 0 3))
  | _ => .nop

/-- R52: the form of the RSEL slot that the opcode of `w` selects, its fields read from `w`. -/
def fieldsRsel (w : Nat) : Instr :=
  match fld w 25 7 with
  | 1 => .rsSet (Fin.ofNat 8 (fld w 22 3)) (bitOf w 21) (Fin.ofNat 32 (fld w 16 5))
  | 2 => .rsAll (Fin.ofNat 8 (fld w 22 3))
  | 3 => .rsNone (Fin.ofNat 8 (fld w 22 3))
  | 4 => .rsRow (Fin.ofNat 8 (fld w 22 3)) (Fin.ofNat 64 (fld w 0 6))
  | 5 => .rsBand (Fin.ofNat 8 (fld w 22 3)) (Fin.ofNat 64 (fld w 6 6)) (Fin.ofNat 64 (fld w 0 6))
  | _ => .nop

/-- R53: the form of the EDGE slot that the opcode of `w` selects, its fields read from `w`. -/
def fieldsEdge (w : Nat) : Instr :=
  match fld w 25 7 with
  | 1 => .ecPush (Fin.ofNat 8 (fld w 22 3)) (Fin.ofNat 16 (fld w 18 4)) (Fin.ofNat 16 (fld w 10 4))
  | 2 => .scPush (Fin.ofNat 8 (fld w 22 3)) (Fin.ofNat 16 (fld w 18 4)) (Fin.ofNat 16 (fld w 10 4))
  | 3 => .ecDisc (Fin.ofNat 8 (fld w 22 3)) (Fin.ofNat 16 (fld w 10 4))
  | 4 => .ecTopk (Fin.ofNat 8 (fld w 22 3)) (Fin.ofNat 16 (fld w 10 4))
  | 8 => .tkInit (Fin.ofNat 8 (fld w 22 3)) (BitVec.ofNat 8 (fld w 14 8)) (Fmt.ofCode (fld w 10 4)) (bitOf w 9)
  | 9 => .tkMerge (Fin.ofNat 8 (fld w 22 3)) (Fin.ofNat 16 (fld w 18 4))
  | 10 => .tkRead (Fin.ofNat 8 (fld w 22 3)) (Fin.ofNat 16 (fld w 18 4))
  | 11 => .tkCnt (Fin.ofNat 8 (fld w 22 3)) (Fin.ofNat 32 (fld w 17 5))
  | 16 => .aggRd (Fin.ofNat 8 (fld w 22 3)) (Fin.ofNat 32 (fld w 17 5)) (Fin.ofNat 4 (fld w 15 2)) (AggKind.ofCode (fld w 12 3))
  | 20 => .ecTmk (Fin.ofNat 8 (fld w 22 3)) (Fin.ofNat 16 (fld w 18 4))
  | 24 => .scChain (Fin.ofNat 8 (fld w 22 3)) (bitOf w 0)
  | _ => .nop

/-- R14: the slot of a form; an operation without a word has none, and `NOP` is read from slot 0. -/
def Instr.slot : Instr → Option Nat
  | .nop | .br _ _ | .brp _ _ _ _ | .jmpi _ _ | .call _ _ | .ret _ | .loop _ _ _ _ | .endloop _ _ |
    .flagbr _ _ _ _ _ | .scope _ _ | .sync _ _ | .realign _ | .freeze _ _ | .swait _ _ _ | .phase _ |
    .phcancel _ | .retire _ | .lease _ _ | .lfree _ | .sprint _ _ _ _ | .sprfree _ | .leave _ _ _ | .trap _ _ |
    .xret _ | .brk _ _ | .csrr _ _ _ | .csrw _ _ _ | .csrs _ _ _ | .csrc _ _ _ | .tend _ => some 0
  | .add _ _ _ _ | .sub _ _ _ _ | .mul _ _ _ _ | .mulh _ _ _ _ | .mulhz _ _ _ _ | .and _ _ _ _ | .andn _ _ _ _ |
    .or _ _ _ _ | .xor _ _ _ _ | .shl _ _ _ _ | .shr _ _ _ _ | .sar _ _ _ _ | .rotl _ _ _ _ | .min _ _ _ _ |
    .max _ _ _ _ | .minz _ _ _ _ | .maxz _ _ _ _ | .clz _ _ _ | .ctz _ _ _ | .popc _ _ _ | .mov _ _ _ |
    .addi _ _ _ _ | .li _ _ _ | .lui _ _ _ _ | .cmp _ _ _ _ _ | .cmpi _ _ _ _ _ | .sel _ _ _ _ _ |
    .plog _ _ _ _ _ | .capnarrow _ _ _ _ _ | .capoff _ _ _ _ | .capinfo _ _ _ _ | .capdrop _ _ | .maskld _ _ _ |
    .maskrot _ _ _ _ => some 1
  | .ld _ _ _ _ _ _ | .st _ _ _ _ _ _ | .ldp _ _ _ _ _ | .stp _ _ _ _ _ | .mark _ | .fence _ _ |
    .amoAdd _ _ _ _ _ _ | .amoAnd _ _ _ _ _ _ | .amoOr _ _ _ _ _ _ | .amoXor _ _ _ _ _ _ | .amoMin _ _ _ _ _ _ |
    .amoMax _ _ _ _ _ _ | .amoMinz _ _ _ _ _ _ | .amoMaxz _ _ _ _ _ _ | .amoSwap _ _ _ _ _ _ |
    .cas _ _ _ _ _ _ | .redAdd _ _ _ _ _ | .redAnd _ _ _ _ _ | .redOr _ _ _ _ _ | .redXor _ _ _ _ _ |
    .redMin _ _ _ _ _ | .redMax _ _ _ _ _ | .redFadd _ _ _ _ | .strmBind _ _ _ _ _ | .strmAdv _ _ _ |
    .strmLvl _ _ _ | .strmRew _ _ | .cpySet _ _ _ _ | .cpyGo _ _ | .cpyStage _ _ _ | .cpbinv _ _ |
    .tlWait _ _ _ _ | .tlRead _ _ _ | .tlBump _ | .barInit _ _ _ | .barArr _ _ | .barDrop _ _ | .barXp _ _ _ |
    .barWait _ _ _ | .barTest _ _ _ | .evSig _ _ | .tlaunch _ _ _ | .probe _ _ _ _ _ | .unpin _ _ _ _ |
    .prefetch _ _ _ _ | .evict _ _ _ _ | .role _ _ _ _ => some 2
  | .fnPop _ _ _ _ | .fnPopt _ _ _ _ _ | .fnZero _ _ | .fnHold _ | .fnBcast _ _ _ | .fnTag _ _ |
    .fnSkew _ _ => some 3
  | .fwPop _ _ _ _ | .fwPopt _ _ _ _ _ | .fwZero _ _ | .fwHold _ | .fwBcast _ _ _ | .fwTag _ _ |
    .fwSkew _ _ => some 4
  | .waveMov _ _ _ _ _ | .movi _ _ _ _ _ | .waveAdd _ _ _ _ _ _ | .waveSub _ _ _ _ _ _ | .waveMul _ _ _ _ _ _ |
    .fma _ _ _ _ _ _ | .waveMin _ _ _ _ _ _ | .waveMax _ _ _ _ _ _ | .abs _ _ _ _ _ | .neg _ _ _ _ _ |
    .waveCmp _ _ _ _ _ _ _ | .selg _ _ _ _ _ _ | .waveAnd _ _ _ _ _ _ | .waveOr _ _ _ _ _ _ |
    .waveXor _ _ _ _ _ _ | .waveShl _ _ _ _ _ _ | .waveShr _ _ _ _ _ _ | .waveSar _ _ _ _ _ _ |
    .pack _ _ _ _ _ _ | .unpk _ _ _ _ _ _ | .mma _ _ _ _ _ _ _ | .mmaz _ _ _ _ _ _ _ | .mmas _ _ _ _ _ _ _ |
    .accz _ _ _ _ | .accld _ _ _ _ | .accst _ _ _ _ | .lds _ _ _ _ _ | .sts _ _ _ _ _ | .kset _ _ _ _ |
    .kadd _ _ _ _ | .perm _ _ _ _ _ _ | .xpose _ _ _ _ _ | .shuf _ _ _ _ _ _ | .exp2 _ _ _ _ | .log2 _ _ _ _ |
    .rcp _ _ _ _ | .rsq _ _ _ _ | .rng _ _ _ _ _ | .noise _ _ _ _ | .dot _ _ _ _ _ _ | .sumr _ _ _ _ _ |
    .prefixSum _ _ _ _ _ _ | .flag _ _ _ _ _ _ | .gset _ _ _ _ | .tmk _ _ _ _ _ _ | .cvt _ _ _ _ _ _ _ |
    .drain _ _ _ _ _ _ _ _ _ _ => some 5
  | .rsSet _ _ _ | .rsAll _ | .rsNone _ | .rsRow _ _ | .rsBand _ _ _ => some 6
  | .ecPush _ _ _ | .scPush _ _ _ | .ecDisc _ _ | .ecTopk _ _ | .tkInit _ _ _ _ | .tkMerge _ _ | .tkRead _ _ |
    .tkCnt _ _ | .aggRd _ _ _ _ | .ecTmk _ _ | .scChain _ _ => some 7
  | _ => none

/-- R14: the form that the opcode of `w` selects in slot `k`. -/
def slotFields (k w : Nat) : Instr :=
  match k with
  | 0 => fieldsCtl w
  | 1 => fieldsScl w
  | 2 => fieldsMem w
  | 3 => fieldsFdn w
  | 4 => fieldsFdw w
  | 5 => fieldsWave w
  | 6 => fieldsRsel w
  | 7 => fieldsEdge w
  | _ => .nop

/-- R38, R39: the form that slot `k` reads from the word `w`, or none where the word is illegal there. -/
def decodeSlot (k w : Nat) : Option Instr :=
  let i := slotFields k w
  if encode i = some w ∧ i.wellFormed = true then some i else none

/-- The first slot, from CTL to EDGE, that accepts the word `w`, with the form it reads there. One word
can be legal in several slots, and which of them is meant is fixed by its place in the bundle (R14). -/
def firstSlot (w : Nat) : Option (Nat × Instr) :=
  [0, 1, 2, 3, 4, 5, 6, 7].findSome? fun k => (decodeSlot k w).map fun i => (k, i)

/-- The form read from a 32-bit slot word given alone: that of the first slot which accepts it. A text
of more than 32 bits is a bundle, whose slot 0 is at its low end (R14): the form of its first slot that
is not NOP. -/
def bundleForm (w : Nat) : Option (Nat × Instr) :=
  if w < 2 ^ 32 then firstSlot w
  else [0, 1, 2, 3, 4, 5, 6, 7].findSome? fun k =>
    if fld w (32 * k) 32 = 0 then none else (decodeSlot k (fld w (32 * k) 32)).map fun i => (k, i)

/-- The form that the decoder reads from a table word of `nbits` bits; an operation that has no bits
has no word to read. -/
def decodeTableWord (nbits w : Nat) : Option Instr :=
  if nbits = 0 then none else (bundleForm w).map Prod.snd

/-- R37: the eight slot words of a bundle given as one 256-bit value, slot 0 first. -/
def bundleWords (b : BitVec 256) : List Nat :=
  [0, 1, 2, 3, 4, 5, 6, 7].map fun k => fld b.toNat (32 * k) 32

end Sys2Proof
end

