-- ==== Sys2Proof/Config.lean ====
section
/-! DEFINITION. What the manual leaves open, as constants without a body: each is applied to a counter
of the state (`State.freeCtr`) or to the operands it depends on, so nothing can be proved of its value.
A claim about the part therefore holds whatever these constants are (R3). -/

namespace Sys2Proof

/-- R8, R104: on which cycle within its bound a sequencer result lands (argument: the free counter). -/
opaque Config.landing : Nat → Nat

/-- R8, R182: on which cycle within its bound a cell result lands (free counter, cell number). -/
opaque Config.cellLanding : Nat → Nat → Nat

/-- R109, R221: how many of a cell's flag writes of the last 2 cycles are not yet seen (free counter,
cell). -/
opaque Config.flagSeen : Nat → Nat → Nat

/-- R77: the value of a poisoned destination (free counter, cell, which destination). -/
opaque Config.poisonedReg : Nat → Nat → Nat → BitVec 256

/-- R77, R181: the entries of a tile written from a poisoned source (free counter, cell, entry). -/
opaque Config.poisonedEntry : Nat → Nat → Nat → BitVec 128

/-- R36: how many nanoseconds pass before an operation (free counter). -/
opaque Config.elapsed : Nat → Nat

/-- R8, R253, R305: which of the operations that may happen next does, where the manual orders none of them
(free counter). -/
opaque Config.pick : Nat → Nat

/-- R267: the object ID the command processor would take, where it is unused (free counter). -/
opaque Config.objectId : Nat → Nat

/-- R301: the `TASKID` the command processor would give, where it is unused (free counter). -/
opaque Config.taskId : Nat → Nat

/-- R250, R274: a value read from memory of another package (free counter). -/
opaque Config.remoteWord : Nat → BitVec 64

/-- R274: a 32-byte sector read from memory of another package (free counter). -/
opaque Config.remoteSector : Nat → BitVec 256

/-- R178: the contents of a bank after a change of role (free counter, byte of the bank). -/
opaque Config.bankByte : Nat → Nat → BitVec 8

/-- R13: a word of a cell store that was not declared live, after a restore (free counter, cell, word). -/
opaque Config.lostWord : Nat → Nat → Nat → BitVec 256

/-- R196: the poison bit of a word of a cell store that was not declared live, after a restore. -/
opaque Config.lostPoison : Nat → Nat → Nat → Bool

/-- R156: a sector of a copy whose pattern writes one destination twice or reads its own destination
(free counter, sector number). -/
opaque Config.overlapSector : Nat → Nat → BitVec 256

/-- R2, R151, R178: a block of a stream whose buffer another stream shares, or whose bank has changed its view (free
counter, stream, place in the buffer). -/
opaque Config.sharedBlock : Nat → Nat → Nat → BitVec 256

/-- R277: what a loaded walk routine (1 to 255) answers: the routine, the root, the page index, the page
size code, the context and whether the walk is for a write; none when the walk fails. -/
opaque Config.walkRoutine : Nat → Nat → Nat → Nat → Nat → Bool → Option (BitVec 128)

/-- R277, R399: the numbers of the walk routines that a firmware image carries (its digest). -/
opaque Config.routinesIn : BitVec 256 → List Nat

/-- R284, R285, R287: a sector of a page that comes back from another package (free counter, sector of the page). -/
opaque Config.arrivedSector : Nat → Nat → BitVec 256

/-- R285, R287: whether such a sector comes poisoned (free counter, sector of the page). -/
opaque Config.arrivedPoison : Nat → Nat → Bool

/-- R285, R287: the header of a chunk that comes back from another package (free counter, key of the header). -/
opaque Config.arrivedHeader : Nat → Nat → BitVec 208

/-- R164: which copy each half of a scheduled block comes from: memory, or one the tongs have cached (free counter,
half). -/
opaque Config.cachedHalf : Nat → Bool → Nat

/-- R389: the pseudo-channel of its stack that a byte of HBM lies in (physical address). -/
opaque Config.pseudoChannel : Nat → Nat

/-- R365: a sum of a round that the reducing agent has formed wrongly (free counter). -/
opaque Config.slippedSum : Nat → BitVec 32768

/-- R400: the signature by the identity key, with a salt, over the first 76 bytes of a report. -/
opaque Config.identitySign : BitVec 256 → BitVec 608 → BitVec 3072

/-- R400: the salt of a signature (free counter). -/
opaque Config.attestSalt : Nat → BitVec 256

/-- R392: the revision that `DEVID` reads. -/
opaque Config.revision : BitVec 16

/-- R399: the fused security version. -/
opaque Config.fusedVersion : BitVec 32

end Sys2Proof
end

