-- ==== Sys2Proof/Machine/Table.lean ====
section
/-! DEFINITION. Sparse tables with natural-number keys, as lists sorted by key. -/

namespace Sys2Proof.Machine

/-- The value listed under `k`, if any. -/
def tableFind {α : Type} : List (Nat × α) → Nat → Option α
  | [], _ => none
  | (k', v) :: t, k => if k = k' then some v else tableFind t k

/-- The value listed under `k`, or `d` when none is. -/
def tableGet {α : Type} (t : List (Nat × α)) (k : Nat) (d : α) : α :=
  (tableFind t k).getD d

/-- List `v` under `k`, in key order, in place of what was listed there. -/
def tableSet {α : Type} : List (Nat × α) → Nat → α → List (Nat × α)
  | [], k, v => [(k, v)]
  | (k', v') :: t, k, v =>
    if k = k' then (k, v) :: t
    else if k < k' then (k, v) :: (k', v') :: t
    else (k', v') :: tableSet t k v

/-- Take the entry under `k` out. -/
def tableErase {α : Type} (t : List (Nat × α)) (k : Nat) : List (Nat × α) :=
  t.filter fun e => e.1 != k

/-- Put `k` into a sorted list of numbers. -/
def setInsert : List Nat → Nat → List Nat
  | [], k => [k]
  | k' :: t, k => if k = k' then k' :: t else if k < k' then k :: k' :: t else k' :: setInsert t k

/-- Take `k` out of a list of numbers. -/
def setErase (t : List Nat) (k : Nat) : List Nat := t.filter fun x => x != k

/-- The first number of `lo, lo + 1, …` that is not in `used`, within `fuel` tries. -/
def firstUnused (used : List Nat) (lo : Nat) : Nat → Nat
  | 0 => lo
  | fuel + 1 => if used.contains lo then firstUnused used (lo + 1) fuel else lo

/-- `want` where it is unused and within bounds, else the first unused number from `lo`. -/
def pickUnused (used : List Nat) (want lo hi : Nat) : Nat :=
  if lo ≤ want ∧ want ≤ hi ∧ used.contains want = false then want
  else firstUnused used lo (used.length + 1)

end Sys2Proof.Machine
end

