-- ==== Sys2Proof/Machine/State.lean ====
section
/-! DEFINITION. The state of the part as plain data, its reset, and the ways a step can stop. Every
piece of state that the manual names has its place here; the model's own bookkeeping (the agenda, the
free counter, entries under way) is marked so. -/

namespace Sys2Proof.Machine

/-! ### Capabilities and streams -/

/-- R265: a capability with the valid tag held beside it. -/
structure Cap where
  valid : Bool
  obj : BitVec 24
  rights : BitVec 8
  lower : BitVec 48
  len : BitVec 48
  deriving DecidableEq, Repr, Inhabited

/-- An invalid capability register. -/
def Cap.none : Cap := ⟨false, 0, 0, 0, 0⟩

/-- A 256-bit value with its poison bit: a register, a block or a cell-store word (R13, R196). -/
structure PReg where
  bits : Reg256
  poison : Bool
  deriving DecidableEq, Repr, Inhabited

/-- R239: the states of a stream register. -/
inductive StreamMode where
  | unbound | binding | bound | exhausted | output
  deriving DecidableEq, Repr, Inhabited

/-- R149: the fields of a stream descriptor; dimension 0 first. -/
structure StreamDesc where
  base : BitVec 48
  extent : Vector Nat 4
  stride : Vector Int 4
  noise : BitVec 3
  wrap : Bool
  depth : Nat
  bank : Fin 32
  bufBase : Nat
  dims : Nat
  deriving DecidableEq, Repr, Inhabited

/-- A repositioning form held with a binding (R152): an advance by a count, or a rewind. -/
inductive HeldForm where
  | adv (n : Nat) | rew
  deriving DecidableEq, Repr

/-- R152, R153: what a `MEM` form of a bundle does to a stream once the pops before it have taken their
blocks: a repositioning form, or a bind with the capability, seed and step it sampled. -/
inductive Reposition where
  | form (f : HeldForm)
  | bind (cap : Cap) (reg : Fin 16) (seed step : Word64)
  deriving DecidableEq, Repr

/-- R152: a repositioning form that waits for the pops issued before it, and with it, that were not
stalled (`holds`: array and entry of each). `gate` is the entry from which fetches after it count (R237);
`fresh` marks a form of the bundle that is issuing; `merge` tells that a merge of the stream issued by then goes
on from the old position. -/
structure PendingReposition where
  q : Fin 16
  gate : Nat
  fresh : Bool
  merge : Bool
  holds : List (Fin 32 × Nat)
  act : Reposition
  deriving DecidableEq, Repr

/-- R12, R133, R239: a stream register with its engine. `buf` holds the buffered blocks, the next to be
taken first; `pos` is the number of blocks taken, skipped or pushed of the pattern. -/
structure Stream where
  mode : StreamMode
  desc : StreamDesc
  cap : Cap
  /-- The capability register the stream was bound through. -/
  reg : Fin 16
  seed : Word64
  step : Word64
  pos : Nat
  buf : List PReg
  held : List HeldForm
  /-- R237: memory forms with a lower entry number must be performed before a fetch. -/
  gate : Nat
  deriving DecidableEq, Repr, Inhabited

/-- A stream descriptor of zeros. -/
def StreamDesc.zero : StreamDesc :=
  ⟨0, Vector.replicate 4 1, Vector.replicate 4 0, 0, false, 64, 0, 0, 1⟩

/-- R12: an unbound stream register. -/
def Stream.unbound : Stream := ⟨.unbound, StreamDesc.zero, Cap.none, 0, 0, 0, 0, [], [], 0⟩

/-! ### Sequencer registers -/

/-- R12, R111: a loop counter with its loop's start and end. -/
structure LoopReg where
  count : BitVec 32
  start : BitVec 48
  stop : BitVec 48
  deriving DecidableEq, Repr, Inhabited

/-- R12, R127: the registers a bundle's slots read and write; a bundle reads one copy of them and
writes another (R16). -/
structure SeqRegs where
  s : Vector Word64 32
  p : Vector Bool 8
  h : Vector Cap 16
  m : Vector Word64 8
  l : Vector LoopReg 4
  orow : BitVec 32
  ocol : BitVec 32
  nseed : Word64
  nstep : Word64
  dthr : BitVec 24
  rsw : Word64
  travel : Bool
  pc : BitVec 48
  /-- Return stack, oldest address first; at most 8. -/
  ret : List (BitVec 48)
  xpc : BitVec 48
  xnpc : BitVec 48
  xsw : Word64
  nflg : BitVec 32
  nctl : BitVec 32
  dscl : BitVec 32
  deriving DecidableEq, Repr

/-- R12, R127: the registers at the start of a task, before the launch record sets any. -/
def SeqRegs.start : SeqRegs where
  s := Vector.replicate 32 0
  p := Vector.replicate 8 false
  h := Vector.replicate 16 Cap.none
  m := Vector.replicate 8 0xFFFFFFFFFFFFFFFF#64
  l := Vector.replicate 4 ⟨0, 0, 0⟩
  orow := 0
  ocol := 0
  nseed := 0
  nstep := 0
  dthr := 0
  rsw := 0xFFFFFFFFFFFFFFFF#64
  travel := false
  pc := 0
  ret := []
  xpc := 0
  xnpc := 0
  xsw := 0
  nflg := 0
  nctl := 0
  dscl := 0x3F800000#32

/-! ### Traps -/

/-- R336: the causes of a trap. -/
inductive Cause where
  | pipeline | poison | capability | illegal | schedule | breakpoint | user | resource | probe
  | overArrival | overdue | leaseExpiry | replayUnsafe | preempt
  deriving DecidableEq, Repr

/-- A pending boundary trap: its cause and bits [63:16] of the status word it would write. A tag mismatch
(R31) keeps the head's active cycle on which it was met and the global row and column, as `64 row + column`. -/
structure Trap where
  cause : Cause
  detail : BitVec 48
  cycle : Nat
  place : Nat
  deriving DecidableEq, Repr

/-- R15, R335: a trap raised by a slot of the bundle at `pc`. `resume` is the slot-resume it records,
`slot` the slot that runs again if it is discarded (R337), `npc` what `XNPC` takes. -/
structure SlotTrap where
  cause : Cause
  detail : BitVec 48
  resume : Nat
  slot : Nat
  pc : BitVec 48
  npc : BitVec 48
  deriving DecidableEq, Repr

/-- What holds a bundle back (R32, R113). -/
inductive Wait where
  /-- Cycles of a `FREEZE` left. -/
  | freeze (n : Nat)
  | swait | operand | leave | sync
  deriving DecidableEq, Repr

/-- Where a sequencer stands. -/
inductive Run where
  /-- No task is placed on the array. -/
  | off
  /-- The next bundle is due. -/
  | boundary
  /-- The bundle in the latch is issuing and slot `k` is next; 8 is the end of the cycle. -/
  | issuing (k : Nat)
  /-- The bundle due, or after a `FREEZE` the next one, waits. -/
  | waiting (w : Wait)
  /-- A rollback waits for issued wave steps to complete (R118). -/
  | rolling
  /-- Parked at a retirement point (R349). -/
  | parked
  /-- `TEND` has been committed (R126). -/
  | ended
  deriving DecidableEq, Repr

/-! ### Cells -/

/-- R84, R90: an accumulator tile: 16 entries, mode, overflow and poison. -/
structure Tile where
  entries : Vector Word128 16
  w128 : Bool
  overflow : Bool
  poison : Bool
  deriving DecidableEq, Repr

/-- A tile of zeros in X128 mode. -/
def Tile.zero : Tile := ⟨Vector.replicate 16 0, false, false, false⟩

/-- R18, R182: a cell result that has not landed. -/
inductive CellWrite where
  | f (k : Fin 16) (v : PReg)
  | word (w : Fin 512) (v : PReg)
  | tile (t : Fin 4) (v : Tile)
  deriving DecidableEq, Repr

/-- The model's entry for a result under way: the last active cycle on whose end it lands. -/
structure CellPend where
  due : Nat
  write : CellWrite
  /-- R76: the numeric flags of the step, which reach the sequencer no later than this result. -/
  flags : BitVec 32
  /-- R235: the step passed down a chain. -/
  chained : Bool
  deriving DecidableEq, Repr

/-- R88, R193: an `MMAS` in progress in a cell: the scales it sampled, and the number of the block whose beats it
executes with the fragments of that block so far. -/
structure MmasRun where
  scales : PReg
  block : Nat
  frags : List (Reg256 × Reg256)
  deriving DecidableEq, Repr

/-- R13: the state of one cell. -/
structure Cell where
  f : Vector PReg 16
  a : Vector Tile 4
  /-- R117: the checkpoint tiles, each with its poison bit (R345). -/
  ckpt : Vector Tile 4
  h : PReg
  v : PReg
  k : Vector (BitVec 9) 4
  g : BitVec 4
  /-- R109: the flag writes that a sample need not show yet, newest first: the first cycle on which every sample
  shows the write, the flag, and its value before. -/
  gLog : List (Nat × Fin 4 × Bool)
  /-- Cell store: the words that are not zero and clean, by number; with `lost`, every word written. -/
  store : List (Nat × PReg)
  /-- R13: after a restore of a store not declared live, the free number and the cell that its words not
  listed are taken from. -/
  lost : Option (Nat × Nat)
  pend : List CellPend
  /-- One more than the number of the last wave step the cell executed (R87, R192). -/
  lastStep : Nat
  mmas : Option MmasRun
  deriving DecidableEq, Repr

/-- R13: a cell at task start. -/
def Cell.start : Cell where
  f := Vector.replicate 16 ⟨0, false⟩
  a := Vector.replicate 4 Tile.zero
  ckpt := Vector.replicate 4 Tile.zero
  h := ⟨0, false⟩
  v := ⟨0, false⟩
  k := Vector.replicate 4 0
  g := 0
  gLog := []
  store := []
  lost := none
  pend := []
  lastStep := 0
  mmas := none

/-! ### Wave steps, feeders, edge -/

/-- What a wave step samples as its bundle issues (R16, R127, R194). -/
structure Samples where
  orow : BitVec 32
  ocol : BitVec 32
  nseed : Word64
  nstep : Word64
  dthr : BitVec 24
  nctl : BitVec 32
  dscl : BitVec 32
  deriving DecidableEq, Repr

/-- R20: the wave instruction in progress: the form, beats in all, the next beat and what it sampled. -/
structure WaveForm where
  form : Instr
  beats : Nat
  beat : Nat
  mask : Word64
  samples : Samples
  deriving DecidableEq, Repr

/-- R21, R24: a wave step; `op` is none for a NOP step. -/
structure WaveStep where
  num : Nat
  op : Option WaveForm
  word : Word64
  travel : Bool
  /-- The step's bundle committed a phase (R117). -/
  phase : Bool
  /-- The step passes down the chain (R34, R235). -/
  chained : Bool
  deriving DecidableEq, Repr

/-- R211: the forms a feeder can have in progress. -/
inductive FeederKind where
  | pop | popt (l : LaneW) | zero | hold | bcast
  deriving DecidableEq, Repr

/-- R211: a feeder form in progress. -/
structure FeederForm where
  kind : FeederKind
  q : Fin 16
  skew : Skew
  rot : BitVec 6
  left : Nat
  stalled : Bool
  /-- R236: the sequencer that issued the pop, and the pop's entry in its queue. -/
  owner : Fin 32
  entry : Nat
  deriving DecidableEq, Repr

/-- R206, R207, R212: a form as it reaches a feeder. -/
inductive FeederCmd where
  | form (f : FeederForm) | tag (n : BitVec 16) | skew (k : BitVec 6)
  deriving DecidableEq, Repr

/-- A write to an output register under way: it lands at the end of cycle `due`. -/
structure FeederWrite where
  due : Nat
  x : Fin 64
  /-- None keeps the register's value (`HOLD`). -/
  value : Option PReg
  tag : BitVec 16
  deriving DecidableEq, Repr

/-- R206, R207, R30: a feeder: output registers, tags, standing rotation, pop count, form in progress,
and the tags the static schedule implies. -/
structure Feeder where
  regs : Vector PReg 64
  tags : Vector (BitVec 16) 64
  implied : Vector (BitVec 16) 64
  rot : BitVec 6
  next : BitVec 16
  /-- R30, R207: the number that the static schedule gives the next pop. -/
  impliedNext : BitVec 16
  form : Option FeederForm
  /-- R34, R212: forms on their way down a chain, with the cycle on which each acts. -/
  inbox : List (Nat × FeederCmd)
  writes : List FeederWrite
  impliedWrites : List FeederWrite
  deriving DecidableEq, Repr

/-- R206, R207: a feeder at task start; the first pop of a task is number 1. -/
def Feeder.start : Feeder where
  regs := Vector.replicate 64 ⟨0, false⟩
  tags := Vector.replicate 64 0
  implied := Vector.replicate 64 0
  rot := 0
  next := 1
  impliedNext := 1
  form := none
  inbox := []
  writes := []
  impliedWrites := []

/-- R218, R220: an offer to the sorter: its cycle, pair and poison. -/
structure Offer where
  cycle : Nat
  key : BitVec 32
  payload : BitVec 32
  poison : Bool
  deriving DecidableEq, Repr

/-- R217: the top-k sorter; `offers` are captured pairs not yet processed (R220). -/
structure Sorter where
  k : Nat
  fmt : Fmt
  low : Bool
  list : List (BitVec 32 × BitVec 32)
  poison : Bool
  offers : List Offer
  deriving DecidableEq, Repr

/-- R217: the sorter at task start. -/
def Sorter.start : Sorter := ⟨1, .f32, false, [], false, []⟩

/-- What an edge capture does with the registers it samples. -/
inductive CaptureUse where
  | push (firstEntry : Nat) | offer | mark (entry : Nat)
  deriving DecidableEq, Repr

/-- One beat of a collector form. An east capture samples row `i` at the end of cycle `start + i`, a
south capture every column at the end of cycle `start` (R214, R231). `owner` is the sequencer whose
queue holds the blocks. -/
structure Capture where
  south : Bool
  /-- The cycle on which the head's sequencer issues the beat. -/
  beat : Nat
  start : Nat
  owner : Fin 32
  use : CaptureUse
  /-- `EC.TMK`: the partial sums T0 and T1 and the poison of the rows captured so far. -/
  t0 : Nat
  t1 : Nat
  poison : Bool
  /-- `EC.TMK`: lane 2 of row 63. -/
  last : Nat
  deriving DecidableEq, Repr

/-- R219, R220: the EDGE form whose beats are in progress. -/
inductive EdgeForm where
  /-- A capture form or `EC.DISC`: beats left. -/
  | plain (left : Nat)
  | merge (q : Fin 16) (left : Nat) (stalled : Bool)
  /-- `TK.READ`: blocks left and the blocks still to be given to queue entries. -/
  | read (blocks : List PReg) (owner : Fin 32) (entry : Nat)
  deriving DecidableEq, Repr

/-- R217, R219, R220, R223: an EDGE form as it reaches the sorter of an array. -/
inductive EdgeCmd where
  | init (k : Nat) (f : Fmt) (low : Bool)
  /-- `most`: the blocks that it takes at most, fewer where a cancel has cut it short. -/
  | merge (q : Fin 16) (most : Nat)
  | read (owner : Fin 32) (entry blocks : Nat)
  deriving DecidableEq, Repr

/-! ### The queues of a sequencer -/

/-- R145, R146: the operations of the atomic agents. -/
inductive AtomOp where
  | add | and | or | xor | min | max | minz | maxz | swap | cas | fadd
  deriving DecidableEq, Repr

/-- R170: the barrier forms. -/
inductive BarForm where
  | init | arr | drop | xp
  deriving DecidableEq, Repr

/-- A committed memory form that has not been performed (R135, R253). -/
inductive QOp where
  | load (d : Fin 32) (w : Width)
  | loadPair (d : Fin 32)
  | noise (d : Fin 32) (v : Word64)
  | tlWait (d : Fin 32) (t : Fin 20) (v : Word64)
  | tlRead (d : Fin 32) (t : Fin 20)
  /-- R173: the phase it waits for, once it has reached the object. -/
  | barWait (d : Fin 32) (b : BitVec 8) (phase : Option (BitVec 32))
  | strmDesc (q : Fin 16)
  | cpyBlock (n : Fin 16) (caps : Vector Cap 16)
  | launch
  | pop (a : Fin 32) (west : Bool)
  | store (bytes : Nat) (data : BitVec 128)
  /-- A block of a collector push; none until it is captured. `full` blocks write nothing (R215). -/
  | push (q : Fin 16) (full : Bool) (block : Option PReg)
  | atomic (d : Option (Fin 32)) (op : AtomOp) (four : Bool) (v cmp : Word64)
  | mark
  | fence (s : Scope)
  | tlBump
  | bar (f : BarForm) (b : BitVec 8) (v : Word64)
  /-- R136: `due` is the active cycle whose bundle reads the answer at the latest. -/
  | barTest (b : BitVec 8) (d : Fin 8) (due : Nat)
  | evSig (e : BitVec 16)
  | cpyGo (n : Fin 16)
  | cpyStage (n : Fin 16) (stage : Nat)
  | cpbinv (i : BitVec 8)
  | probe (d : Fin 8) (len : Nat) (due : Nat)
  | unpin (len : Nat)
  | prefetch (len : Nat)
  | evict (len : Nat)
  /-- R178: `at'` orders the changes of one bank as they were committed. -/
  | role (n : Fin 32) (r : Role) (v : View) (at' : Nat)
  deriving DecidableEq, Repr

/-- An entry of a sequencer's queues: its number in commit order, the form, the capability copy (R133),
the object offset it names, and the scope of its bundle. -/
structure QEntry where
  id : Nat
  op : QOp
  cap : Cap
  off : Nat
  scope : Scope
  /-- R286: the access was answered moved and is to be sent again. -/
  moved : Bool
  deriving DecidableEq, Repr

/-- A register write of a sequencer that has not landed (R104). -/
inductive SeqWrite where
  | s (d : Fin 32) (v : Word64)
  | p (d : Fin 8) (v : Bool)
  deriving DecidableEq, Repr

/-- The model's entry for it: it lands for bundles that issue after cycle `due`. -/
structure SeqPend where
  due : Nat
  write : SeqWrite
  deriving DecidableEq, Repr

/-! ### Commit points -/

/-- R161, R162: the state of a tongs context that the sequencer holds. -/
inductive Shadow where
  | empty | loaded | armed
  deriving DecidableEq, Repr, Inhabited

/-- R345: a stream's binding, state and position at the last `PHASE`. -/
structure StreamPoint where
  mode : StreamMode
  desc : StreamDesc
  cap : Cap
  reg : Fin 16
  seed : Word64
  step : Word64
  pos : Nat
  /-- Repositioning forms held with a binding (R152). -/
  held : List HeldForm
  deriving DecidableEq, Repr

/-- R155: a parameter block with the capabilities its register fields name. -/
structure CopyBlock where
  bits : BitVec 512
  src : Cap
  dst : Cap
  idx : Cap
  deriving DecidableEq, Repr, Inhabited

/-- R345: what the commit point keeps of one tongs context. -/
structure TongsPoint where
  released : Nat
  shadow : Shadow
  block : Option CopyBlock
  deriving DecidableEq, Repr

/-- R345: the commit point of the last `PHASE`, and the entry number its forms start from. -/
structure CommitPoint where
  entry : BitVec 48
  streams : Vector StreamPoint 16
  tongs : Vector TongsPoint 4
  firstEntry : Nat
  deriving DecidableEq, Repr

/-- R34, R232, R235: a group of one cluster, a chain, a chain that has been freed and whose steps issued before
are still under way (its arrays go on cycle by cycle together), and one whose steps have completed. -/
inductive GroupKind where
  | cluster | chain | freeing | freed
  deriving DecidableEq, Repr

/-- R123: a `SPRINT` whose answer has not landed: predicate, level, milliseconds, the active cycle whose
bundle reads the answer at the latest, and the number of the queue entries committed before it (R18). -/
structure SprintAsk where
  d : Fin 8
  level : BitVec 2
  ms : BitVec 14
  due : Nat
  first : Nat
  deriving DecidableEq, Repr

/-- One array: its sequencer, cells, feeders, collectors and sorter (R10, R12). -/
structure Arr where
  -- placement (R127)
  task : BitVec 32
  ctx : BitVec 12
  grpIdx : Nat
  group : List ArrayId
  kind : GroupKind
  prog : Cap
  -- sequencing
  run : Run
  /-- The address of the bundle due, before the check of R108. -/
  due : Word64
  /-- R15, R340: the slot at which the bundle due begins, and where a bundle that is re-entered continues. -/
  resume : Nat
  resumeNext : Option (BitVec 48)
  /-- R125: the slot and `XNPC` with which an `XRET` of this bundle re-enters. -/
  reenter : Option (Nat × BitVec 48)
  /-- R126: the bundle whose `TEND` has been committed. -/
  ending : Option (BitVec 48)
  /-- Active cycles without a bundle still to pass (R106). -/
  gap : Nat
  /-- R113: the line has released the `SYNC` or `REALIGN` bundle that is issuing. -/
  released : Bool
  /-- R115: cycles of the freeze that begins after this bundle. -/
  freeze : Nat
  /-- R349: the sequencer parks at the end of this bundle. -/
  park : Bool
  /-- R118: a `PHCANCEL` of this bundle has committed. -/
  phcancel : Bool
  /-- R344: the sequencer stops at the end of this bundle. -/
  halt : Bool
  /-- Where the bundle that is issuing transfers control, if it does. -/
  transfer : Option Word64
  handler : Bool
  latch : BitVec 256
  snap : SeqRegs
  regs : SeqRegs
  /-- R19: pending bits. -/
  pendS : Vector Bool 32
  regPend : List SeqPend
  /-- R76: numeric flags raised by steps whose results have not landed: cycle and bits. -/
  flagPend : List (Nat × BitVec 32)
  traps : List Trap
  slotTrap : Option SlotTrap
  -- counters (R12, R127)
  acnt : Nat
  fcnt : Nat
  retIv : BitVec 32
  retLeft : BitVec 32
  phNum : BitVec 32
  phDirty : Bool
  cancels : Nat
  clease : BitVec 21
  /-- R121: the bundle due issues under the command processor's own lease. -/
  firstBundle : Bool
  /-- R233: the sequencer has issued its `REALIGN`. -/
  aligned : Bool
  leaveClass : BitVec 2
  leaveLeft : BitVec 20
  scChain : Bool
  /-- R112: the scope that the bundle issuing gives its `MEM` form. -/
  scope : Scope
  -- agents of the array
  streams : Vector Stream 16
  /-- R152: repositions that wait for pops. -/
  reposition : List PendingReposition
  north : Feeder
  west : Feeder
  sorter : Sorter
  edge : Option EdgeForm
  /-- R223, R324: EDGE forms with the cycle on which each acts on this array. -/
  edgeCmds : List (Nat × EdgeCmd)
  captures : List Capture
  wave : Option WaveForm
  /-- R117: the bundle issuing has committed a phase. -/
  phaseMark : Bool
  /-- Wave steps, newest first. -/
  steps : List WaveStep
  /-- R34: `V` of row 63 at the end of each recent cycle, newest first. -/
  link : List (Nat × Vector PReg 64)
  cells : List (Nat × Cell)
  /-- The cells as they stood at the end of the last cycle (R27). -/
  prev : List (Nat × Cell)
  /-- Cells that have executed their step of this cycle. -/
  done : List Nat
  -- queues
  queue : List QEntry
  nextId : Nat
  point : CommitPoint
  /-- R165: the sequencer's own timeline. -/
  sq : Word64
  /-- R123: the `SPRINT`s whose answers have not landed, in order. -/
  sprints : List SprintAsk
  deriving DecidableEq, Repr

/-- The commit point at task start. -/
def CommitPoint.start : CommitPoint where
  entry := 0
  streams := Vector.replicate 16 ⟨.unbound, StreamDesc.zero, Cap.none, 0, 0, 0, 0, []⟩
  tongs := Vector.replicate 4 ⟨0, .empty, none⟩
  firstEntry := 0

/-- An array at task start, with no task placed. -/
def Arr.start : Arr where
  task := 0
  ctx := 0
  grpIdx := 0
  group := []
  kind := .cluster
  prog := Cap.none
  run := .off
  due := 0
  resume := 0
  resumeNext := none
  reenter := none
  ending := none
  gap := 0
  released := false
  freeze := 0
  park := false
  phcancel := false
  halt := false
  transfer := none
  handler := false
  latch := 0
  snap := SeqRegs.start
  regs := SeqRegs.start
  pendS := Vector.replicate 32 false
  regPend := []
  flagPend := []
  traps := []
  slotTrap := none
  acnt := 0
  fcnt := 0
  retIv := 0
  retLeft := 0
  phNum := 0
  phDirty := false
  cancels := 0
  clease := 0
  firstBundle := true
  aligned := false
  leaveClass := 0
  leaveLeft := 0
  scChain := true
  scope := .ar
  streams := Vector.replicate 16 Stream.unbound
  reposition := []
  north := Feeder.start
  west := Feeder.start
  sorter := Sorter.start
  edge := none
  edgeCmds := []
  captures := []
  wave := none
  phaseMark := false
  steps := []
  link := []
  cells := []
  prev := []
  done := []
  queue := []
  nextId := 0
  point := CommitPoint.start
  sq := 0
  sprints := []

/-! ### Clusters -/

/-- R168: a barrier object. -/
structure Barrier where
  exp : Nat
  next : Nat
  arr : Nat
  tx : Int
  ph : BitVec 32
  dropped : BitVec 4
  lastPh : Vector (Option (BitVec 32)) 4
  /-- R314: an arrival is on its way to the home package and the phase has not completed. -/
  sent : Bool
  deriving DecidableEq, Repr

/-- R291: a retired object. -/
def Barrier.retired : Barrier := ⟨0, 0, 0, 0, 0, 0, Vector.replicate 4 none, false⟩

/-- A sector that a copy has read, or zeroed, and not yet written: its object offset, value and poison. -/
structure SectorWrite where
  off : Nat
  value : BitVec 256
  poison : Bool
  deriving DecidableEq, Repr

/-- A copy under way (R156, R157, R260): its operation number, block, progress and origin. -/
structure Copy where
  opNum : Nat
  block : CopyBlock
  /-- The units (sectors, or rows of a GATHER) below which every one has been read. -/
  moved : Nat
  /-- Units read out of order. -/
  ahead : List Nat
  /-- R157: the row of a GATHER that is being read: where it begins in the source, and the sectors read of it. R363: of a
  copy into a window, where its chunk begins in the source. -/
  row : Option (Nat × List PReg)
  /-- Sectors to be written, in any order. -/
  buf : List SectorWrite
  /-- The sectors that a copy of 4,096 bytes has moved, each with the object offset it comes from. -/
  pairs : List (Nat × SectorWrite)
  /-- R396: sectors of it are kept, to leave the package together as a chunk. -/
  kept : Bool
  /-- R156, R157, R363: the initial check has been made. -/
  checked : Bool
  /-- Status, fault code and detail of a copy that has ended and is not yet complete. -/
  ended : Option (Nat × Nat × Nat)
  /-- R159, R160: what is done of its completion: with 1 its bytes have been posted, with 2 the first half of its record is
  written too. -/
  closed : Fin 3
  written : Nat
  zeroed : Nat
  schedIdx : BitVec 8
  blockIdx : BitVec 8
  /-- R365, R380: how often the contribution of a copy into a window has been sent, and whether it is held
  for the next round. -/
  sends : Nat
  late : Bool
  deriving DecidableEq, Repr

/-- R154, R158 to R164: a tongs context. -/
structure Tongs where
  active : Option Copy
  shadow : Shadow
  block : Option CopyBlock
  /-- A `CPY.GO` has been processed and the shadow copy waits for the active one. -/
  armed : Bool
  /-- Operation number of the last copy that was given one. -/
  lastOp : Nat
  timeline : Word64
  /-- R161: stage and block index of each entry; none when the context is direct. -/
  schedule : Option (List (Nat × Nat))
  schedIdx : Nat
  released : Nat
  ring : Cap
  ringOff : Nat
  ringEntries : Nat
  /-- R164: parameter blocks the tongs have cached for this task. -/
  cache : List (Nat × BitVec 512)
  /-- R162: the commands committed to the context, in commit order: the array whose queue holds each, and its entry. -/
  order : List (Fin 32 × Nat)
  deriving DecidableEq, Repr

/-- A tongs context at task start. -/
def Tongs.start : Tongs :=
  ⟨none, .empty, none, false, 0, 0, none, 0, 0, Cap.none, 0, 0, [], []⟩

/-- R178, R242: a bank's role and view. -/
structure Bank where
  role : Role
  view : View
  deriving DecidableEq, Repr

/-- R249: a write-back of a dirty line: the line (address / 64), its slice, and which of the slice's four reserved
entries (28 to 31) of the miss table it holds; none for one that is written around. -/
structure WriteBackEntry where
  line : Nat
  slice : Nat
  entry : Option (Fin 4)
  deriving DecidableEq, Repr

/-- R249: a miss: the line, its slice, and which of entries 0 to 27 of the slice's miss table it holds; none for one that
waits at the slice for an entry. -/
structure MissEntry where
  line : Nat
  slice : Nat
  entry : Option (Fin 28)
  deriving DecidableEq, Repr

/-- A cluster: banks, barrier objects, tongs, cache, and the level of its clock (R10, R356). -/
structure Cluster where
  banks : Vector Bank 32
  barriers : Vector Barrier 256
  tongs : Vector Tongs 16
  /-- R249: lines held by the cluster's slices, by address / 64, and whether each is dirty. -/
  lines : List (Nat × Bool)
  /-- R249: write-backs that the stack controller has not yet accepted, oldest first. -/
  writeBacks : List WriteBackEntry
  /-- R249: misses whose fills have not returned, in arrival order. -/
  misses : List MissEntry
  level : BitVec 2
  deriving DecidableEq, Repr

/-- R242: the role of a bank of a cluster that has no task. -/
def Bank.placed (n : Nat) : Bank :=
  ⟨if n < 16 then .cache else if n < 24 then .scratch else .operand, .noswz⟩

/-- A cluster after reset. -/
def Cluster.start : Cluster where
  banks := Vector.ofFn fun n => Bank.placed n.val
  barriers := Vector.replicate 256 Barrier.retired
  tongs := Vector.replicate 16 Tongs.start
  lines := []
  writeBacks := []
  misses := []
  level := 0

/-! ### Objects, pages, headers -/

/-- R271: an object table entry as its 256 bits, and whether the host made it (R268). -/
structure ObjEntry where
  raw : BitVec 256
  host : Bool
  /-- R275, R351: the extents of a scratch home, or of a save area: physical base and length. -/
  scratch : Option (List (Nat × Nat))
  /-- R395: the context whose object this entry of context 4,095 is, made by the same command. -/
  sharedFrom : Option (BitVec 12)
  /-- R287: an object of another package in the link-port table; only its pages that have come here are here. -/
  foreign : Bool
  deriving DecidableEq, Repr

/-- R371: a chunk header. -/
structure Header where
  chunkId : BitVec 64
  mark : BitVec 64
  producer : BitVec 32
  format : BitVec 8
  hops : BitVec 8
  lastHop : BitVec 16
  flags : BitVec 16
  /-- R383: an uncorrectable error of the header: its mark is treated as mismatched. -/
  lost : Bool
  deriving DecidableEq, Repr

/-- R375: a change of a mark on its way to the header home. -/
structure MarkMsg where
  chunk : Nat
  t0 : Nat
  t1 : Nat
  producer : BitVec 32
  deriving DecidableEq, Repr

/-- R285, R286: an access that the new home of a page holds: an entry of an array's queues, a write of another agent to
an offset of the object, or an access from another package. -/
inductive Held where
  | entry (a : Fin 32) (id : Nat)
  | write (off n v : Nat) (producer : BitVec 32)
  /-- R274: an access from another package. -/
  | remote (r : RemoteAccess)
  deriving DecidableEq, Repr

/-- R285, R288: a page that is moving: the key of its descriptor, the target, the cursor of a
retirement in sectors, and the accesses the new home holds, in the order they arrived. -/
structure PageMove where
  ctx : BitVec 12
  obj : BitVec 24
  page : BitVec 48
  target : BitVec 48
  pkg : BitVec 10
  /-- R287: the package that the page comes from. -/
  home : BitVec 10
  cursor : Option Nat
  held : List Held
  /-- R376, R378: the chunks of a retiring page whose headers get flag [0] with the new copy. -/
  flagged : List Nat
  deriving DecidableEq, Repr

/-- R279: a cached translation. -/
structure Translation where
  ctx : BitVec 12
  obj : BitVec 24
  page : BitVec 48
  desc : BitVec 128
  deriving DecidableEq, Repr

/-- R270, R287: what the link-port table holds of objects of other packages: their entries under their domain context IDs, and
the descriptors, translations and moves of their pages that have come to this package. -/
structure PortTable where
  objs : List (Nat × ObjEntry)
  descs : List (Nat × BitVec 128)
  translations : List Translation
  moves : List PageMove
  deriving DecidableEq, Repr

/-- R281: pins of one task on one page. -/
structure Pin where
  tid : BitVec 32
  ctx : BitVec 12
  obj : BitVec 24
  page : BitVec 48
  count : Nat
  deriving DecidableEq, Repr

/-- R284: a page the command processor has been asked to stage, or one whose write-back is under way. -/
structure PageJob where
  ctx : BitVec 12
  obj : BitVec 24
  page : BitVec 48
  deriving DecidableEq, Repr

/-- R284: the copy of a page in the capacity tier: the bytes that are not zero and the poisoned sectors,
by their place in the page. -/
structure BackPage where
  bytes : List Host.Cell
  poison : List Nat
  deriving DecidableEq, Repr, Inhabited

/-! ### Command processor -/

/-- R298 to R300, R314: a launch record as its bits, read whole. -/
structure Record where
  header : BitVec 2048
  scalars : BitVec 2048
  objects : List (BitVec 256)
  streams : List (BitVec 512)
  sched : List (BitVec 32)
  deriving DecidableEq, Repr

/-- R297, R312: where a launch record lies: at a physical address, or in an object of a context. -/
inductive RecPlace where
  | phys (a : BitVec 48)
  | object (ctx : BitVec 12) (obj : BitVec 24) (off : Nat)
  deriving DecidableEq, Repr

/-- R312: an entry of the device-side queue: a record as `TLAUNCH` read it, whether it is whole (padding of zeros, no
poison), and its issuer's context and priority. -/
structure DeviceLaunch where
  place : RecPlace
  ctx : BitVec 12
  prio : Nat
  record : Record
  sound : Bool
  deriving DecidableEq, Repr

/-- R262, R391, R392: a host access that has reached the UCIe port: a line of HBM or 8 bytes of the register block. -/
inductive HostAccess where
  /-- R382, R383: `mismatches` counts those of the unit that serves it, `bad` is the error that its read meets. -/
  | line (offset : BitVec 40) (write : Option (BitVec 512)) (mismatches : Fin 3) (bad : ReadError)
  /-- R286: an access to a line that was answered moved, sent again to the object's new home. -/
  | resend (obj : BitVec 24) (off : Nat) (write : Option (BitVec 512))
  /-- R392: a write of 8 bytes to the register block, or a read. -/
  | register (offset : BitVec 20) (v : Option (BitVec 64))
  deriving DecidableEq, Repr

/-- R304: the states of an accepted task. -/
inductive TaskState where
  | waitEvents | staging | ready | running | saved
  deriving DecidableEq, Repr

/-- R351 to R353: the image of one array of a saved task. Sections A to D are numbers whose byte `n` is byte
`n` of the section; E holds 640 bytes for each cell not at its task-start values, F 32 bytes for each word
`512 (64 i + j) + w` of a live cell store that is not zero, G the poisoned words by the same number, H the
bytes of the member's SCRATCH banks that are not zero. `rest` is the array as it parked: the model takes
from it the few things that the sections have no place for. -/
structure Image where
  /-- R351: the image ID of its chunks. -/
  id : BitVec 40
  a : Nat
  b : Nat
  c : Nat
  d : Nat
  e : List (Nat × Nat)
  f : List (Nat × Nat)
  g : List Nat
  h : List Host.Cell
  /-- Poisoned sectors of section H, by their place in it. -/
  hPoison : List Nat
  rest : Arr
  deriving DecidableEq, Repr

/-- R351: what the command processor notes of one saved task: the object that is its context's save area, where in HBM the
image of each member begins there, in order, and the images that it wrote. A restore reads their chunks from memory; it takes
from this record their image IDs and what the sections have no place for. -/
structure SaveArea where
  ctx : BitVec 12
  tid : BitVec 32
  obj : BitVec 24
  bases : List Nat
  images : List Image
  deriving DecidableEq, Repr

/-- An accepted task. -/
structure Task where
  tid : BitVec 32
  ctx : BitVec 12
  /-- Queue 0 to 63, or 64 for the device-side queue. -/
  queue : Nat
  prio : Nat
  seqNo : Nat
  recAddr : RecPlace
  interrupt : Bool
  record : Record
  state : TaskState
  waits : List (BitVec 16)
  arrs : List ArrayId
  caps : List (Fin 16 × Cap)
  prog : Cap
  params : Cap
  scratchObjs : List (BitVec 24 × Nat)
  created : List (BitVec 24)
  named : List (BitVec 24)
  preempt : Option (BitVec 32)
  switch : Bool
  deficit : Int
  reruns : Nat
  /-- R306: when the task was last placed. -/
  placed : Nat
  deriving DecidableEq, Repr

/-- R309, R310: an event entry: up to 6 inline waiters by `TASKID`, those in the supervisor's list, and those of the list
that a signal has released and that have not gone on yet. -/
structure Event where
  ctx : BitVec 12
  name : BitVec 16
  signalled : Bool
  waiters : List (BitVec 32)
  late : List (BitVec 32)
  leaving : List (BitVec 32)
  /-- The host has freed the entry while it had waiters. -/
  freed : Bool
  deriving DecidableEq, Repr

/-- R313: a wired-AND line. -/
structure SyncLine where
  ctx : BitVec 12
  group : BitVec 8
  count : Nat
  members : List ArrayId
  deriving DecidableEq, Repr

/-- R314: a domain barrier as this package holds it. As the home: arrivals, expected packages and
absences. -/
structure DomainBarrier where
  id : BitVec 24
  /-- The local member task; 0 when none. -/
  tid : BitVec 32
  localObj : BitVec 8
  home : BitVec 10
  expected : Nat
  nextExpected : Nat
  arrived : List (BitVec 10)
  absent : List (BitVec 10)
  /-- Packages whose local object has dropped out. -/
  dropped : List (BitVec 10)
  /-- The home's completion is on its way to the local object. -/
  completing : Bool
  /-- R311: its first arrival has come, and it has an entry of the table or, with the table full, one that the supervisor
  carries in memory. -/
  entered : Bool
  carried : Bool
  timeout : BitVec 32
  since : Nat
  deriving DecidableEq, Repr

/-- R393: the registers of a submission queue. -/
structure SubQueue where
  base : BitVec 48
  cfg : BitVec 32
  head : BitVec 12
  tail : BitVec 12
  stat : BitVec 3
  deriving DecidableEq, Repr, Inhabited

/-- R394: a context entry, with the fault ring's next record number. -/
structure Context where
  domain : BitVec 12
  enable : Bool
  quota : BitVec 32
  ring : BitVec 48
  entries : BitVec 16
  written : Nat
  deriving DecidableEq, Repr, Inhabited

/-- R368, R379: a report on its way to the command processor. -/
structure Report where
  kind : BitVec 16
  ctx : BitVec 12
  producer : BitVec 32
  chunkId : BitVec 64
  detector : BitVec 16
  lastHop : BitVec 16
  hops : BitVec 8
  format : BitVec 8
  expected : BitVec 64
  observed : BitVec 64
  /-- The copy whose contribution may be sent again: cluster, context and operation number. -/
  copy : Option (Fin 8 × Fin 16 × Nat)
  deriving DecidableEq, Repr

/-! ### Power and memory controllers -/

/-- R356: a bellows lease. -/
structure Lease where
  tid : BitVec 32
  clusters : List (Fin 8)
  level : BitVec 2
  start : Nat
  ms : Nat
  deriving DecidableEq, Repr

/-- R317: a queued leave request; `reserved` lists the dies that have reserved it. -/
structure LeaveReq where
  number : Nat
  arr : ArrayId
  arrs : List ArrayId
  cls : BitVec 2
  cycles : BitVec 20
  reserved : List (Fin 4)
  deriving DecidableEq, Repr

/-- R355 to R360: the power governor and slack-tub controller. `meltAcc` is the part of a unit of
`MELT` not yet counted, in microjoules. -/
structure Power where
  melt : BitVec 10
  meltAcc : Int
  refreeze : Option Nat
  ceil : Vector Nat 4
  leases : List Lease
  requests : List LeaveReq
  nextReq : Nat
  lid : Vector Nat 8
  flow : Nat
  /-- R401: the current sensor of each die, in amperes. -/
  current : Vector Nat 4
  /-- R359: activation allotment of each stack in hundredths of a watt. -/
  hbm : Vector Nat 16
  deriving DecidableEq, Repr

/-- R385 to R389: a stack controller: quarantine list (physical 64 KiB pages), refresh state and
quarantined pseudo-channels. Its sector record (R384) is the part of `State.poison` in its stack. -/
structure Stack where
  quarantined : List Nat
  /-- R387: activations counted since the row's neighbours were refreshed, by 2^32 · bank + row. -/
  activations : List (Nat × Nat)
  /-- R388: refreshes postponed, by bank. -/
  postponed : List (Nat × Nat)
  refreshes : Nat
  /-- Pseudo-channels quarantined. -/
  dead : List Nat
  /-- R389: the row-remap and swap table, and its mirror in reserved rows: entry number and contents, where not zero. -/
  remap : List (Nat × Nat)
  mirror : List (Nat × Nat)
  /-- R389: the touchmarks of the mirror's chunks, where not zero. -/
  mirrorMarks : List (Nat × BitVec 64)
  deriving DecidableEq, Repr, Inhabited

/-- R365, R366: a round's result on its way to the landing ports. -/
structure SentResult where
  chunk : Nat
  payload : BitVec 32768
  poisoned : Bool
  mark : BitVec 64
  reformed : Bool
  acks : List (BitVec 10)
  resends : Nat
  deriving DecidableEq, Repr

/-- R362: a reduction group and its rounds. -/
structure RedGroup where
  number : BitVec 24
  plane : Fin 16
  tensor : BitVec 40
  chunks : Nat
  members : List (BitVec 10 × BitVec 12 × BitVec 24)
  /-- Contributions held for the round of each chunk that is open, and for the next one. -/
  open' : List Contribution
  next : List Contribution
  /-- Results not yet acknowledged by every landing port. -/
  sent : List SentResult
  deriving DecidableEq, Repr

/-- R320, R396: a packet of an access to another package: its header flit, and its payload flits. -/
structure Packet where
  dest : BitVec 10
  cls : MsgClass
  obj : BitVec 24
  off : BitVec 48
  /-- R371: the chunk header that a packet with a chunk carries. -/
  header : Option (BitVec 256)
  payload : List (BitVec 512)
  /-- R383: the 32-byte sectors of the payload that are poisoned. -/
  poison : List Nat
  deriving DecidableEq, Repr

/-- R396, R397: a Vitoen port: how often the flit under way has been replayed, the packets in the sender's buffer, and the
flits of the first of them that are through. -/
structure Port where
  up : Bool
  replays : Nat
  packets : List Packet
  through : Nat
  deriving DecidableEq, Repr, Inhabited

/-- The state of the part. -/
structure State where
  /-- The model's own: the operations that other agents and the world outside make next. -/
  agenda : List Instr
  /-- The model's own: the array whose sequencer moves next. -/
  cur : Fin 32
  /-- The model's own: the counter the free values of `Config` are applied to. -/
  freeCtr : Nat
  /-- Power has not been removed (R401). -/
  powered : Bool
  ptime : Nat
  arrs : Vector Arr 32
  clusters : Vector Cluster 8
  /-- Bytes of memory that are not zero, by physical address. -/
  mem : List Host.Cell
  /-- Poisoned 32-byte sectors, by physical address / 32. -/
  poison : List Nat
  /-- R385: physical 64 KiB pages that a full sector record quarantines, awaiting the supervisor. -/
  toQuarantine : List Nat
  /-- Object tables: (context · 2^24 + object), entry. -/
  objs : List (Nat × ObjEntry)
  /-- Chunk headers by physical address of the chunk's first byte. -/
  headers : List (Nat × Header)
  markMsgs : List MarkMsg
  moves : List PageMove
  /-- R270, R287: the objects of other packages that have pages here. -/
  port : PortTable
  pins : List Pin
  translations : List Translation
  /-- R277: the walk routines 1 to 255 that are loaded. -/
  routines : List Nat
  /-- R276: descriptors the supervisor core keeps for pages that no table of routine 0 holds. -/
  descs : List (Nat × BitVec 128)
  stageJobs : List PageJob
  evictJobs : List PageJob
  /-- R284: what the capacity tier holds of pages, by page. -/
  backing : List (Nat × BackPage)
  /-- R178: SCRATCH banks whose contents a change of role left undefined: the bank (32 · cluster + bank)
  and the free number its undefined bytes come from. -/
  fills : List (Nat × Nat)
  tasks : List Task
  /-- R351: the save areas. That of a context that is lost is kept (R344, R354). -/
  saveAreas : List SaveArea
  /-- Numbers acceptances and placements in the order they happen. -/
  nextSeq : Nat
  /-- R301: every `TASKID` given. -/
  tids : List Nat
  /-- R305: the queue whose turn it is, for each priority. -/
  turns : Vector Nat 4
  queues : Vector SubQueue 64
  deviceQueue : List DeviceLaunch
  /-- R262: host accesses that have crossed the port and wait for the one before them. -/
  hostPort : List HostAccess
  /-- R392: the answers to host reads and to host accesses that failed, newest first: the line and its poison. -/
  hostReads : List (BitVec 512 × Bool)
  contexts : List (Nat × Context)
  events : List Event
  lines : List SyncLine
  domain : List DomainBarrier
  /-- MSI-X vectors raised, newest first. -/
  msix : List Nat
  reports : List Report
  power : Power
  stackCtl : Vector Stack 16
  groups : List RedGroup
  ports : Vector Port 16
  /-- Router inputs that assert stop, by input number and channel (R321). -/
  stops : List (Nat × Fin 6)
  -- host register block (R392)
  ready : BitVec 64
  readyFail : BitVec 64
  refthr : BitVec 10
  alarm : BitVec 32
  pkgnum : BitVec 10
  linken : BitVec 16
  command : BitVec 512
  mgmtStatus : BitVec 64
  /-- UCIe modules in service (R391). -/
  ucie : BitVec 8
  /-- R399: the functions whose firmware image the security root has loaded and passed, as `READY` numbers them. -/
  images : BitVec 64
  /-- R399: the measurement register. -/
  measurement : BitVec 256
  nextSerial : Nat
  deriving DecidableEq, Repr

/-- Why a step ends in a fault. -/
inductive Fault where
  /-- Raised by `step` once a junction at 120 °C has removed power from the package (R401). Safe: the
  part does nothing further. -/
  | poweredOff
  deriving DecidableEq, Repr

/-- Why a step has no next state. -/
inductive Refusal where
  /-- Raised by an arm of `exec` that has no meaning yet. Safe. -/
  | notModelled (mnemonic : String)
  /-- Raised by `step` when the agenda holds a word of a bundle slot, or an operation with an argument
  out of its range: no agent of the part makes it. Safe. -/
  | notAnEvent
  deriving DecidableEq, Repr

/-- R355, R357, R358: the governor after reset: no melt, no leave, ceilings of 1,000 A, allotments of
28 W, and sensors that force nothing. -/
def Power.start : Power where
  melt := 0
  meltAcc := 0
  refreeze := none
  ceil := Vector.replicate 4 1000
  leases := []
  requests := []
  nextReq := 0
  lid := Vector.replicate 8 40
  flow := 30
  current := Vector.replicate 4 0
  hbm := Vector.replicate 16 2800

/-- R399: the part after package reset: nothing placed, no function ready, memory with nothing listed. -/
def State.reset : State where
  agenda := []
  cur := 0
  freeCtr := 0
  powered := true
  ptime := 0
  arrs := Vector.replicate 32 Arr.start
  clusters := Vector.replicate 8 Cluster.start
  mem := []
  poison := []
  toQuarantine := []
  objs := []
  headers := []
  markMsgs := []
  moves := []
  port := ⟨[], [], [], []⟩
  pins := []
  translations := []
  routines := []
  descs := []
  stageJobs := []
  evictJobs := []
  backing := []
  fills := []
  tasks := []
  saveAreas := []
  nextSeq := 0
  tids := []
  turns := Vector.replicate 4 0
  queues := Vector.replicate 64 ⟨0, 0, 0, 0, 0⟩
  deviceQueue := []
  hostPort := []
  hostReads := []
  contexts := []
  events := []
  lines := []
  domain := []
  msix := []
  reports := []
  power := Power.start
  stackCtl := Vector.replicate 16 ⟨[], [], [], 0, [], [], [], []⟩
  groups := []
  ports := Vector.replicate 16 ⟨false, 0, [], 0⟩
  stops := []
  ready := 0
  readyFail := 0
  refthr := 256
  alarm := 0
  pkgnum := 0
  linken := 0
  command := 0
  mgmtStatus := 0
  ucie := 0xFF
  images := 0
  measurement := 0
  nextSerial := 0

end Sys2Proof.Machine
end

