-- ==== Sys2Proof/Machine/Bits.lean ====
section
/-! DEFINITION. Bit fields, lanes and byte order (R5, R37, R70), and the accessors of vectors. -/

namespace Sys2Proof.Machine

/-- Bits [lo + w - 1 : lo] of a number. -/
def bits (x lo w : Nat) : Nat := x / 2 ^ lo % 2 ^ w

/-- The signed value of the low `w` bits of `x`. -/
def signed (x w : Nat) : Int :=
  let y := x % 2 ^ w
  if y < 2 ^ (w - 1) then (y : Int) else (y : Int) - 2 ^ w

/-- The low `w` bits of an integer. -/
def wrap (x : Int) (w : Nat) : Nat := (x % (2 ^ w : Int)).toNat

/-- Lane `l` of width `w` of a register, as a number (R70). -/
def lane (r : Reg256) (w l : Nat) : Nat := bits r.toNat (w * l) w

/-- A register from the numbers of its lanes, lane 0 first. -/
def packLanes (w : Nat) : List Nat → Nat
  | [] => 0
  | x :: t => x % 2 ^ w + 2 ^ w * packLanes w t

/-- A register whose lane `l` is `f l`, for the `n` lanes of width `w`, and zero above. -/
def lanesOf (w n : Nat) (f : Nat → Nat) : Reg256 :=
  BitVec.ofNat 256 (packLanes w ((List.range n).map f))

/-- Replace a list element. -/
def listSet {α : Type} : List α → Nat → α → List α
  | [], _, _ => []
  | _ :: t, 0, v => v :: t
  | h :: t, n + 1, v => h :: listSet t n v

/-- A number below `n + 1` from any number. -/
def finOf (n x : Nat) : Fin (n + 1) := Fin.ofNat (n + 1) x

/-- Element `x` of a vector of `n + 1` elements, counted mod `n + 1`. -/
def vget {α : Type} {n : Nat} (v : Vector α (n + 1)) (x : Nat) : α := v[finOf n x]

/-- Put an element into a vector of `n + 1` elements, counted mod `n + 1`. -/
def vset {α : Type} {n : Nat} (v : Vector α (n + 1)) (x : Nat) (a : α) : Vector α (n + 1) :=
  v.set (finOf n x) a

/-- R398: whether a function is in service. -/
def inService (s : State) (bit : Nat) : Bool := s.ready.getLsbD bit

/-- R6: a count of 64 bits. -/
def w64 (n : Nat) : Word64 := BitVec.ofNat 64 n

/-- Whether a sorted list of numbers holds one. -/
def hasNat (l : List Nat) (x : Nat) : Bool := l.contains x

/-- ⌈a / b⌉. -/
def ceilDiv (a b : Nat) : Nat := (a + b - 1) / b

end Sys2Proof.Machine
end

