-- ==== Sys2Proof/Machine/Memory.lean ====
section
/-! DEFINITION. The bytes of memory: one canonical list, read and written byte by byte (R4, R37, R142),
and poison per 32-byte sector (R384). -/

namespace Sys2Proof.Machine

/-- What a byte that is not listed reads as. The manual gives no contents for memory after power-on;
zero is the model's choice (DESIGN CHOICE, log entry 4). -/
def Memory.unlisted : Byte := 0

/-- One byte of memory. -/
def Memory.read (m : List Host.Cell) (a : Nat) : Byte := tableGet m a Memory.unlisted

/-- Store one byte; a byte equal to what an unlisted address reads as is taken out of the list. -/
def Memory.write (m : List Host.Cell) (a : Nat) (b : Byte) : List Host.Cell :=
  if b = Memory.unlisted then tableErase m a else tableSet m a b

/-- The canonical form: addresses strictly rising from `lo`, and no byte that an unlisted address
would read as. -/
def Memory.wfFrom (lo : Nat) : List Host.Cell → Bool
  | [] => true
  | (a, b) :: t => decide (lo ≤ a) && decide (b ≠ Memory.unlisted) && Memory.wfFrom (a + 1) t

/-- The canonical form of memory. -/
def Memory.wf (m : List Host.Cell) : Bool := Memory.wfFrom 0 m

/-- `n` bytes from `a`, little-endian. -/
def Memory.readN (m : List Host.Cell) (a : Nat) : Nat → Nat
  | 0 => 0
  | n + 1 => (Memory.read m a).toNat + 256 * Memory.readN m (a + 1) n

/-- Store the low `n` bytes of `v` at `a`, little-endian. -/
def Memory.writeN (m : List Host.Cell) (a : Nat) : Nat → Nat → List Host.Cell
  | 0, _ => m
  | n + 1, v => Memory.writeN (Memory.write m a (BitVec.ofNat 8 v)) (a + 1) n (v / 256)

/-- R384: whether any sector of the `n` bytes from `a` is poisoned. -/
def poisonAt (s : State) (a n : Nat) : Bool :=
  (List.range ((a + n - 1) / 32 + 1 - a / 32)).any fun k => hasNat s.poison (a / 32 + k)

/-- R269: whether a physical address names a byte that exists; anything else is malformed. -/
def physOk (a : Nat) : Bool :=
  if a / 2 ^ 44 = 0 then bits a 40 4 = 0
  else if a / 2 ^ 44 = 1 then true
  else if a / 2 ^ 44 = 2 then bits a 30 14 = 0 && decide (bits a 0 22 < 3 * 2 ^ 20)
  else false

/-- R248, R269: the stack of a byte of HBM. -/
def stackOf (a : Nat) : Nat := bits a 36 4

/-- R248: the home cluster of a stack. -/
def clusterOfStack (k : Nat) : Nat := k / 4 * 2 + k % 4 / 2

/-- R250: the cluster that homes a byte of HBM or SCRATCH; none for the host die's memory. -/
def homeCluster (a : Nat) : Option Nat :=
  if a / 2 ^ 44 = 0 then some (clusterOfStack (stackOf a))
  else if a / 2 ^ 44 = 2 then some (bits a 28 2 * 2 + bits a 27 1)
  else none

/-- R398: whether the stack, or for SCRATCH the cluster, that holds a byte is in service. -/
def homeReady (s : State) (a : Nat) : Bool :=
  if a / 2 ^ 44 = 0 then inService s (stackOf a)
  else match homeCluster a with
    | some c => inService s (16 + c)
    | none => true

/-- R384, R385: enter a sector's poison. A sector of HBM that needs a new entry when all 512 are in use
quarantines its 64 KiB page, whose reads return poison from then on. -/
def enterPoison (s : State) (sector : Nat) : State :=
  if hasNat s.poison sector then s
  else
    let a := 32 * sector
    let same := s.poison.filter fun x => decide (32 * x / 2 ^ 44 = 0 ∧ stackOf (32 * x) = stackOf a)
    let entries := (same.map fun x => x / 2).foldl setInsert []
    if a / 2 ^ 44 = 0 ∧ 512 ≤ entries.length ∧ entries.contains (sector / 2) = false then
      { s with toQuarantine := setInsert s.toQuarantine (a / 65536) }
    else { s with poison := setInsert s.poison sector }

/-- R389: whether a physical page has a byte in a pseudo-channel. -/
def onChannel (page pc : Nat) : Bool :=
  (List.range 2048).any fun k => decide (Config.pseudoChannel (65536 * page + 32 * k) = pc)

/-- R385, R389: whether a byte lies in a page that its stack's controller has quarantined, or in one with a byte in a
quarantined pseudo-channel. -/
def quarantinedAt (s : State) (a : Nat) : Bool :=
  let k := vget s.stackCtl (stackOf a)
  decide (a / 2 ^ 44 = 0) && (hasNat k.quarantined (a / 65536) || hasNat s.toQuarantine (a / 65536)
    || k.dead.any fun pc => onChannel (a / 65536) pc)

/-- R178: what the listed bytes of a bank with undefined contents are combined with (exclusive or):
`n` bytes from `a`. Zero elsewhere. -/
def fillBytes (s : State) (a : Nat) : Nat → Nat
  | 0 => 0
  | n + 1 =>
    let bank := bits a 27 3 * 32 + bits a 22 5
    let b := match if a / 2 ^ 44 = 2 then tableFind s.fills bank else none with
      | some k => (Config.bankByte k (bits a 0 22)).toNat
      | none => 0
    b + 256 * fillBytes s (a + 1) n

/-- The `n` bytes at a physical address, little-endian. -/
def bytesAt (s : State) (a n : Nat) : Nat := Memory.readN s.mem a n ^^^ fillBytes s a n

/-- R384, R385: read `n` bytes of one sector, with the poison they carry. -/
def readPhys (s : State) (a n : Nat) : Nat × Bool :=
  (bytesAt s a n, poisonAt s a n || quarantinedAt s a)

/-- R384: store `n` bytes of one sector. A whole clean sector clears its poison, a poisoned write sets
it, and a smaller clean write leaves it; a write to a quarantined page is dropped (R385). -/
def writePhys (s : State) (a n v : Nat) (poisoned : Bool) : State :=
  if quarantinedAt s a then s
  else
    let s := { s with mem := Memory.writeN s.mem a n (v % 2 ^ (8 * n) ^^^ fillBytes s a n) }
    if poisoned then enterPoison s (a / 32)
    else if n = 32 then { s with poison := setErase s.poison (a / 32) }
    else s

end Sys2Proof.Machine
end

