-- ==== Sys2Proof/Machine/Objects.lean ====
section
/-! DEFINITION. Object tables, page walks and the accesses agents make by object ID and offset (R265 to
R290), with the touchmarks of marked chunks (R370 to R375). -/

namespace Sys2Proof.Machine

/-! ### Rights (R265) -/

/-- Bit numbers of the rights byte. -/
def Right.execute : Nat := 0
/-- R265. -/
def Right.narrow : Nat := 1
/-- R265. -/
def Right.copy : Nat := 2
/-- R265. -/
def Right.stream : Nat := 3
/-- R265. -/
def Right.noise : Nat := 4
/-- R265. -/
def Right.atomic : Nat := 5
/-- R265. -/
def Right.write : Nat := 6
/-- R265. -/
def Right.read : Nat := 7

/-- Whether a capability carries a right. -/
def Cap.has (c : Cap) (r : Nat) : Bool := c.rights.getLsbD r

/-! ### Object table entries (R271) -/

/-- The key of an object of a context. -/
def objKey (ctx : BitVec 12) (obj : BitVec 24) : Nat := ctx.toNat * 2 ^ 24 + obj.toNat

/-- R270: the entry of an object. -/
def objFind (s : State) (ctx : BitVec 12) (obj : BitVec 24) : Option ObjEntry :=
  tableFind s.objs (objKey ctx obj)

/-- R271: kind 0 to 3. -/
def ObjEntry.kind (e : ObjEntry) : Nat := bits e.raw.toNat 0 4
/-- R271. -/
def ObjEntry.marked (e : ObjEntry) : Bool := e.raw.getLsbD 8
/-- R271. -/
def ObjEntry.memside (e : ObjEntry) : Bool := e.raw.getLsbD 9
/-- R271. -/
def ObjEntry.capacity (e : ObjEntry) : Bool := e.raw.getLsbD 10
/-- R271: 0 for 64 KiB, 1 for 2 MiB. -/
def ObjEntry.pageCode (e : ObjEntry) : Nat := bits e.raw.toNat 16 2
/-- R276: log2 of the page size. -/
def ObjEntry.pageShift (e : ObjEntry) : Nat := if e.pageCode = 0 then 16 else 21
/-- R271. -/
def ObjEntry.homePkg (e : ObjEntry) : Nat := bits e.raw.toNat 84 10
/-- R271: 1 when the object is homed on a package by number. -/
def ObjEntry.homeKind (e : ObjEntry) : Nat := bits e.raw.toNat 94 2
/-- R271. -/
def ObjEntry.ceiling (e : ObjEntry) : Nat := bits e.raw.toNat 96 8
/-- R271. -/
def ObjEntry.routine (e : ObjEntry) : Nat := bits e.raw.toNat 104 8
/-- R271. -/
def ObjEntry.root (e : ObjEntry) : Nat := bits e.raw.toNat 112 48
/-- R271. -/
def ObjEntry.size (e : ObjEntry) : Nat := bits e.raw.toNat 160 48

/-- R362: the group number of a window entry. -/
def ObjEntry.group (e : ObjEntry) : Nat := bits e.raw.toNat 112 24

/-- R395: the context under which the pages of an object are kept: the one that shared it with context 4,095. -/
def ownCtx (s : State) (ctx : BitVec 12) (obj : BitVec 24) : BitVec 12 :=
  match objFind s ctx obj with
  | some e => e.sharedFrom.getD ctx
  | none => ctx

/-- R362: a window names the package itself as its home. -/
def ObjEntry.window (s : State) (e : ObjEntry) : Bool :=
  decide (e.homeKind = 1 ∧ e.homePkg = s.pkgnum.toNat)

/-! ### Linear objects (R272) -/

/-- The physical address of an offset in an extent list given as base and length pairs. -/
def extentAt : List (Nat × Nat) → Nat → Option Nat
  | [], _ => none
  | (b, n) :: t, off => if off < n then some (b + off) else extentAt t (off - n)

/-- R272: the physical address of an offset under the extent list at `list`. -/
def extentWalk (s : State) (list off : Nat) : Nat → Option Nat
  | 0 => none
  | fuel + 1 =>
    let e := Memory.readN s.mem list 16
    let base := bits e 48 48
    let len := bits e 0 48
    if off < len then some (base + off)
    else if e / 2 ^ 127 = 1 then none
    else extentWalk s (list + 16) (off - len) fuel

/-! ### Pages (R276 to R279) -/

/-- R276: the state field of a descriptor. -/
def descState (d : BitVec 128) : Nat := bits d.toNat 61 3
/-- R276: the physical base. -/
def descBase (d : BitVec 128) : Nat := bits d.toNat 16 32 * 2 ^ 16
/-- R276: the package that homes a RESIDENT page. -/
def descPkg (d : BitVec 128) : Nat := bits d.toNat 118 10
/-- R276: the target base of a moving page. -/
def descTarget (d : BitVec 128) : Nat := bits d.toNat 80 32 * 2 ^ 16

/-- R276: a descriptor of state `st`, base `b`, target `t`, package `p`, dirty and accessed bits. -/
def mkDesc (st b t p : Nat) (dirty acc : Bool) : BitVec 128 :=
  BitVec.ofNat 128 (p % 1024 * 2 ^ 118 + t / 2 ^ 16 % 2 ^ 32 * 2 ^ 80 + st % 8 * 2 ^ 61
    + b / 2 ^ 16 % 2 ^ 32 * 2 ^ 16 + (if dirty then 2 else 0) + (if acc then 1 else 0))

/-- R269, R276, R277: whether a descriptor is well formed for a page size; one that names a reserved region is not. -/
def descOk (d : BitVec 128) (shift : Nat) : Bool :=
  let n := d.toNat
  decide (bits n 112 6 = 0 ∧ bits n 64 16 = 0 ∧ descState d < 5 ∧ bits n 48 13 = 0 ∧ bits n 2 14 = 0)
    && decide (descState d = 2 ∨ descState d = 3 ∨ bits n 80 32 = 0)
    && decide (shift = 16 ∨ bits n 16 5 = 0)
    && physOk (descBase d) && physOk (descTarget d)

/-- R277: 16 bytes that a walk routine reads in regions 0x0 and 0x1; none where it meets poisoned data. -/
def walkRead (s : State) (a : Nat) : Option Nat :=
  if a / 2 ^ 44 < 2 ∧ physOk a = true ∧ poisonAt s a 16 = false ∧ quarantinedAt s a = false then
    some (Memory.readN s.mem a 16)
  else none

/-- R277, R278: what a walk of routine 0 finds: where the page's descriptor stands, that a level has no table for it,
or nothing. -/
inductive Walk where
  | at (a : Nat)
  | absent
  | failed
  deriving DecidableEq, Repr

/-- R278: routine 0 from level `3 - n`. -/
def walkTable (s : State) (table page : Nat) : Nat → Walk
  | 0 => if physOk table then .at (table + 16 * bits page 0 8) else .failed
  | n + 1 =>
    match walkRead s (table + 16 * bits page (8 * (n + 1)) 8) with
    | none => .failed
    | some e =>
      if bits e 48 13 ≠ 0 ∨ bits e 0 12 ≠ 0 ∨ e / 2 ^ 64 ≠ 0 then .failed
      else if bits e 61 3 = 0 then .absent
      else if bits e 61 3 = 1 then walkTable s (bits e 12 36 * 4096) page n
      else .failed

/-- The key of a page. -/
def pageKey (ctx : BitVec 12) (obj : BitVec 24) (page : Nat) : Nat := objKey ctx obj * 2 ^ 48 + page

/-- R277, R278: the descriptor a walk of the object's routine gives; none when the walk fails. -/
def walkPage (s : State) (e : ObjEntry) (ctx : BitVec 12) (obj : BitVec 24) (page : Nat) (wr : Bool) :
    Option (BitVec 128) :=
  let ctx := ownCtx s ctx obj
  match tableFind s.descs (pageKey ctx obj page) with
  | some d => some d
  | none =>
    let d :=
      if e.foreign then none
      else if e.routine = 0 then
        match walkTable s e.root page 3 with
        | .at a => (walkRead s a).map (BitVec.ofNat 128)
        | .absent => some 0
        | .failed => none
      else if s.routines.contains e.routine = false then none
      else Config.walkRoutine e.routine e.root page e.pageCode ctx.toNat wr
    match d with
    | some d => if descOk d e.pageShift then some d else none
    | none => none

/-- R279: the cached translation of a page. -/
def cached (s : State) (ctx : BitVec 12) (obj : BitVec 24) (page : Nat) : Option (BitVec 128) :=
  let ctx := ownCtx s ctx obj
  (s.translations.find? fun t => t.ctx = ctx && t.obj = obj && t.page.toNat = page).map (·.desc)

/-- R279: discard every cached translation of a page. -/
def uncache (s : State) (ctx : BitVec 12) (obj : BitVec 24) (page : Nat) : State :=
  let ctx := ownCtx s ctx obj
  { s with translations :=
      s.translations.filter fun t => !(t.ctx = ctx && t.obj = obj && t.page.toNat = page) }

/-- R277, R279: write a page's descriptor where its table holds it, and discard cached copies. -/
def setDesc (s : State) (e : ObjEntry) (ctx : BitVec 12) (obj : BitVec 24) (page : Nat)
    (d : BitVec 128) : State :=
  let s := uncache s ctx obj page
  let key := pageKey (ownCtx s ctx obj) obj page
  match if e.routine = 0 ∧ e.foreign = false then walkTable s e.root page 3 else .failed with
  | .at a => { s with mem := Memory.writeN s.mem a 16 d.toNat, descs := tableErase s.descs key }
  | .absent | .failed => { s with descs := tableSet s.descs key d }

/-- R276, R277: a translation for an access: the cached one, or a walk, which sets the accessed and
dirty bits and caches what it finds. -/
def translatePage (s : State) (e : ObjEntry) (ctx : BitVec 12) (obj : BitVec 24) (page : Nat)
    (wr : Bool) : State × Option (BitVec 128) :=
  match cached s ctx obj page with
  | some d => if wr && !d.getLsbD 1 then walk else (s, some d)
  | none => walk
where
  /-- The walk of a translation that is not cached, or that a first write needs. -/
  walk : State × Option (BitVec 128) :=
    match walkPage s e ctx obj page wr with
    | none => (s, none)
    | some d =>
      if descState d = 0 ∨ descState d = 4 then (s, some d)
      else
        let d' := d ||| (if wr then 3#128 else 1#128)
        let s := if d' = d then uncache s ctx obj page else setDesc s e ctx obj page d'
        ({ s with translations := ⟨ownCtx s ctx obj, obj, BitVec.ofNat 48 page, d'⟩ :: s.translations }, some d')

/-! ### Where an access goes -/

/-- What the target port answers (R273, R280, R285, R288). -/
inductive Target where
  /-- A byte of this package, with the new copy of a retiring page that a write also reaches. -/
  | phys (a : Nat) (mirror : Option Nat)
  /-- Memory of another package. -/
  | remote (pkg : Nat)
  /-- The page is moving and its freeze point has passed. -/
  | moved
  /-- Not performed: 1 not resident, 2 access table. -/
  | fail (sub : Nat)
  deriving DecidableEq, Repr

/-- The move of a page, if one is in progress. -/
def moveOf (s : State) (ctx : BitVec 12) (obj : BitVec 24) (page : Nat) : Option PageMove :=
  let ctx := ownCtx s ctx obj
  s.moves.find? fun m => m.ctx = ctx && m.obj = obj && m.page.toNat = page

/-- R266, R273: whether the ceiling of an entry holds every right of a list. -/
def ObjEntry.grants (e : ObjEntry) (need : List Nat) : Bool := need.all e.ceiling.testBit

/-- R273, R280: look up, check and translate an access of `n` bytes at an object offset that needs a list of rights. -/
def locate (s : State) (ctx : BitVec 12) (obj : BitVec 24) (off n : Nat) (need : List Nat) (wr : Bool) :
    State × Target :=
  match objFind s ctx obj with
  | none => (s, .fail 2)
  | some e =>
    if e.kind = 0 ∨ e.kind = 3 ∨ e.grants need = false ∨ e.size < off + n then (s, .fail 2)
    else if e.homeKind = 1 then (s, if e.window s then .fail 2 else .remote e.homePkg)
    else if e.kind = 1 then
      let a := match e.scratch with
        | some l => extentAt l off
        | none => extentWalk s e.root off 4096
      match a with
      | some a => if physOk a then (s, .phys a none) else (s, .fail 2)
      | none => (s, .fail 2)
    else
      let page := off / 2 ^ e.pageShift
      let o := off % 2 ^ e.pageShift
      match translatePage s e ctx obj page wr with
      | (s, none) => (s, .fail 1)
      | (s, some d) =>
        if descState d = 1 then
          if descPkg d = s.pkgnum.toNat then (s, .phys (descBase d + o) none) else (s, .remote (descPkg d))
        else if descState d = 2 then (s, .moved)
        else if descState d = 3 then
          match moveOf s ctx obj page with
          | some m =>
            match m.cursor with
            | some c => (s, .phys (descBase d + o)
                (if o / 32 < c then some (m.target.toNat + o) else none))
            | none => (s, .phys (descBase d + o) none)
          | none => (s, .phys (descBase d + o) none)
        else (s, .fail 1)

/-! ### Touchmarks (R370 to R376) -/

/-- R373: the width in bits of an element of a chunk format. -/
def chunkWidth (f : Nat) : Nat :=
  if f = 0 ∨ f = 11 ∨ f = 12 then 32
  else if f = 1 ∨ f = 2 then 16
  else if f = 7 ∨ f = 10 then 4
  else if f = 16 then 128
  else 8

/-- R373: the integer of an element's bits, mod P. -/
def chunkVal (f raw : Nat) : Nat :=
  let w := chunkWidth f
  let v : Int := if f = 8 ∨ f = 10 ∨ f = 11 ∨ f = 16 then signed raw w else (raw % 2 ^ w : Nat)
  (v % (markPrime : Int)).toNat

/-- R373: T0 and T1 over the elements `j` to `j + n - 1` of a payload. -/
def markSums (f payload j n : Nat) : Nat × Nat :=
  (List.range n).foldl (fun (t : Nat × Nat) i =>
    let v := chunkVal f (bits payload (chunkWidth f * i) (chunkWidth f))
    ((t.1 + v) % markPrime, (t.2 + (j + i + 1) * v) % markPrime)) (0, 0)

/-- R373: a touchmark from its sums. -/
def mkMark (t : Nat × Nat) : BitVec 64 := BitVec.ofNat 64 (t.2 * 2 ^ 32 + t.1)

/-- R373: the touchmark of a whole payload. -/
def touchmark (f payload : Nat) : BitVec 64 := mkMark (markSums f payload 0 (32768 / chunkWidth f))

/-- R375: add a change to a header's mark. -/
def Header.change (h : Header) (d0 d1 : Nat) (producer : BitVec 32) : Header :=
  let t0 := (bits h.mark.toNat 0 32 + d0) % markPrime
  let t1 := (bits h.mark.toNat 32 32 + d1) % markPrime
  { h with mark := mkMark (t0, t1), producer := producer }

/-- R375: the header of a chunk with the mark changes that are on their way to it: bytes and mark change in one
coherence step, so every verifier sees both. -/
def headerNow (s : State) (key : Nat) : Option Header :=
  (tableFind s.headers key).map fun h =>
    (s.markMsgs.filter fun m => m.chunk = key).foldl (fun h m => h.change m.t0 m.t1 m.producer) h

/-- R276, R287: whether a page with a descriptor has bytes on this package. -/
def pageHere (s : State) (ctx : BitVec 12) (obj : BitVec 24) (page : Nat) (d : BitVec 128) : Bool :=
  match descState d with
  | 1 => decide (descPkg d = s.pkgnum.toNat)
  | 2 => match moveOf s ctx obj page with | some m => decide (m.home = s.pkgnum) | none => true
  | 3 => true
  | _ => false

/-- The physical byte of an offset of an object, where it is on this package. -/
def byteHome (s : State) (ctx : BitVec 12) (obj : BitVec 24) (e : ObjEntry) (off : Nat) : Option Nat :=
  if e.homeKind = 1 then none
  else if e.kind = 1 then
    match e.scratch with
    | some l => extentAt l off
    | none => extentWalk s e.root off 4096
  else if e.kind = 2 then
    match walkPage s e ctx obj (off / 2 ^ e.pageShift) false with
    | some d =>
      if pageHere s ctx obj (off / 2 ^ e.pageShift) d then some (descBase d + off % 2 ^ e.pageShift) else none
    | none => none
  else none

/-- R370: the physical address that keys a chunk's header: its first byte. -/
def chunkHome (s : State) (ctx : BitVec 12) (obj : BitVec 24) (e : ObjEntry) (chunk : Nat) :
    Option Nat := byteHome s ctx obj e (4096 * chunk)

/-- R178: the CACHE banks of a cluster, ascending (R248). -/
def cacheBanks (s : State) (cl : Nat) : List Nat :=
  (List.range 32).filter fun b => (vget (vget s.clusters cl).banks b).role = .cache

/-- R248: the slice (bank) of a byte of HBM; none where its home has no CACHE bank. -/
def sliceOf (s : State) (a : Nat) : Option (Nat × Nat) :=
  if a / 2 ^ 44 = 0 then
    let cl := clusterOfStack (stackOf a)
    let bs := cacheBanks s cl
    if bs.isEmpty then none else (bs[a / 64 % bs.length]?).map fun b => (cl, b)
  else none

/-- R375: the unit that holds a byte of marked data, to tell whether it is the header home. -/
def unitOf (s : State) (e : ObjEntry) (a : Nat) : Nat :=
  if a / 2 ^ 44 = 2 then 10000 + a / 2 ^ 22
  else if e.memside then 20000 + stackOf a
  else match sliceOf s a with
    | some (cl, b) => 32 * cl + b
    | none => 30000 + stackOf a

/-- R375: the update of a chunk's mark for a write of `n` bytes at an object offset whose byte lies at
`a`, from the memory before to the value written. The header home takes it at once; another unit sends
the change. -/
def markWrite (s : State) (ctx : BitVec 12) (obj : BitVec 24) (off a n v : Nat)
    (producer : BitVec 32) : State :=
  match objFind s ctx obj with
  | none => s
  | some e =>
    if e.marked = false then s
    else
      match chunkHome s ctx obj e (off / 4096) with
      | none => s
      | some key =>
        match tableFind s.headers key with
        | none => s
        | some h =>
          let f := h.format.toNat
          let w := chunkWidth f
          let o := off % 4096
          let j0 := 8 * o / w
          let j1 := (8 * (o + n) - 1) / w
          let sector := bytesAt s (a - o % 32) 32
          let lo := 8 * (o % 32)
          let sector' := sector - bits sector lo (8 * n) * 2 ^ lo + v % 2 ^ (8 * n) * 2 ^ lo
          let shift := w * j0 % 256
          -- R370: bytes beyond the object's size count as zero
          let inside := 2 ^ (8 * min 32 (e.size - (off - o % 32)))
          let old := markSums f (sector % inside / 2 ^ shift) j0 (j1 + 1 - j0)
          let new := markSums f (sector' % inside / 2 ^ shift) j0 (j1 + 1 - j0)
          let d0 := (new.1 + markPrime - old.1) % markPrime
          let d1 := (new.2 + markPrime - old.2) % markPrime
          if unitOf s e a = unitOf s e key then
            { s with headers := tableSet s.headers key (h.change d0 d1 producer) }
          else { s with markMsgs := s.markMsgs ++ [⟨key, d0, d1, producer⟩] }

/-! ### The objects that hold a byte (R272, R375) -/

/-- R272: the offset at which the extent list at `list` places a physical byte. -/
def extentOffset (s : State) (list a done : Nat) : Nat → Option Nat
  | 0 => none
  | fuel + 1 =>
    let e := Memory.readN s.mem list 16
    let base := bits e 48 48
    let len := bits e 0 48
    if base ≤ a ∧ a < base + len then some (done + (a - base))
    else if e / 2 ^ 127 = 1 then none
    else extentOffset s (list + 16) a (done + len) fuel

/-- R275: the offset at which extents given as base and length pairs place a physical byte, the first at offset `done`. -/
def extentFind (a : Nat) : Nat → List (Nat × Nat) → Option Nat
  | _, [] => none
  | done, (b, n) :: t => if b ≤ a ∧ a < b + n then some (done + (a - b)) else extentFind a (done + n) t

/-- The offset at which an object holds a physical byte of this package; none for a byte beyond its size. -/
def offsetIn (s : State) (ctx : BitVec 12) (obj : BitVec 24) (e : ObjEntry) (a : Nat) : Option Nat :=
  (if e.homeKind = 1 then none
  else if e.kind = 1 then
    match e.scratch with
    | some l => extentFind a 0 l
    | none => extentOffset s e.root a 0 4096
  else if e.kind = 2 then
    (List.range (ceilDiv e.size (2 ^ e.pageShift))).findSome? fun page =>
      match walkPage s e ctx obj page false with
      | some d =>
        if pageHere s ctx obj page d = true ∧ descBase d ≤ a ∧ a < descBase d + 2 ^ e.pageShift then
          some (page * 2 ^ e.pageShift + (a - descBase d))
        else none
      | none => none
  else none).filter fun off => decide (off < e.size)

/-- R375: the places at which marked objects hold a physical byte. Objects may share bytes (R272). -/
def markedPlaces (s : State) (a : Nat) : List (BitVec 12 × BitVec 24 × Nat) :=
  s.objs.filterMap fun x =>
    if x.2.marked then
      let ctx := BitVec.ofNat 12 (x.1 / 2 ^ 24)
      let obj := BitVec.ofNat 24 x.1
      (offsetIn s ctx obj x.2 a).map fun off => (ctx, obj, off)
    else none

/-- R370: the key of the header of the chunk that holds an offset of an object. -/
def headerKey (s : State) (ctx : BitVec 12) (obj : BitVec 24) (off : Nat) : Option Nat :=
  (objFind s ctx obj).bind fun e => chunkHome s ctx obj e (off / 4096)

/-- R375: a write of `n` bytes at `a` changes the mark of each chunk that holds them at one of a list of places, once. -/
def markPlaces (s : State) (a n v : Nat) (producer : BitVec 32) (l : List (BitVec 12 × BitVec 24 × Nat)) : State :=
  (l.foldl (fun (r : State × List Nat) p =>
    match headerKey r.1 p.1 p.2.1 p.2.2 with
    | some k => if r.2.contains k then r else (markWrite r.1 p.1 p.2.1 p.2.2 a n v producer, k :: r.2)
    | none => r) (s, [])).1

/-! ### Reads and writes by object -/

/-- What a read answers. -/
inductive Got where
  | value (v : Nat) (poisoned : Bool)
  /-- R244: the bank's role no longer serves the access. -/
  | refused (bank : Nat)
  | moved
  | fail (sub : Nat)
  deriving DecidableEq, Repr

/-- R244: whether a byte of SCRATCH lies in a bank of another role, and which. -/
def bankRefuses (s : State) (a : Nat) : Option Nat :=
  if a / 2 ^ 44 = 2 then
    match homeCluster a with
    | some cl =>
      if (vget (vget s.clusters cl).banks (bits a 22 5)).role = .scratch then none
      else some (bits a 22 5)
    | none => none
  else none

/-- R249: the entry of its slice's miss table that a miss takes: a free one of 0 to 27, or none while others wait. -/
def freeMiss (l : List MissEntry) (slice : Nat) : Option (Fin 28) :=
  if l.any fun e => decide (e.slice = slice ∧ e.entry = none) then none
  else (List.finRange 28).find? fun k => !l.any fun e => decide (e.slice = slice ∧ e.entry = some k)

/-- R249: the misses that wait take the entries that have come free, in arrival order. -/
def grantMisses (l : List MissEntry) : List MissEntry :=
  l.foldl (fun done e => done ++ [if e.entry.isSome then e
    else { e with entry := freeMiss (done ++ l.filter fun f => f.entry.isSome) e.slice }]) []

/-- R249: the misses of a cluster once the fill of a line has returned. -/
def fillMiss (l : List MissEntry) (line : Nat) : List MissEntry := grantMisses (l.filter fun e => e.line != line)

/-- R249: whether a slice serves an access to a byte now: it holds the line, or it can take an entry for it. An access that
finds one free has its fill within the access's own step. -/
def lineServed (s : State) (a : Nat) : Bool :=
  match sliceOf s a with
  | none => true
  | some (cl, b) =>
    let c := vget s.clusters cl
    (tableFind c.lines (a / 64)).isSome
      || (!(c.misses.any fun e => decide (e.line = a / 64)) && (freeMiss c.misses b).isSome)

/-- R273, R287: the package that an offset of an object is homed on, where that is another one. -/
def remoteHome (s : State) (ctx : BitVec 12) (obj : BitVec 24) (e : ObjEntry) (off : Nat) : Option Nat :=
  if e.homeKind = 1 then if e.window s then none else some e.homePkg
  else if e.kind = 2 then
    match walkPage s e ctx obj (off / 2 ^ e.pageShift) false with
    | some d => if descState d = 1 ∧ descPkg d ≠ s.pkgnum.toNat then some (descPkg d) else none
    | none => none
  else none

/-- R398: whether a page of an object needs no walk, or some walker engine is in service. -/
def walkServed (s : State) (ctx : BitVec 12) (obj : BitVec 24) (e : ObjEntry) (off : Nat) : Bool :=
  decide (e.kind ≠ 2 ∨ e.homeKind = 1) || (cached s ctx obj (off / 2 ^ e.pageShift)).isSome
    || (List.range 4).any fun k => inService s (40 + k)

/-- R249, R397, R398: whether an access to `n` bytes of an object is served now: by the slices, but for a MEMSIDE object, whose
accesses bypass them; by the stack or bank that holds them, and a walker where it needs one; and by a link port that is up
where they are on another package (log entry 127). -/
def bytesServed (s : State) (ctx : BitVec 12) (obj : BitVec 24) (off n : Nat) : Bool :=
  match objFind s ctx obj with
  | none => true
  | some e =>
    walkServed s ctx obj e off && ((remoteHome s ctx obj e off).isNone || s.ports.any fun p => p.up)
      && (List.range (ceilDiv (off % 64 + n) 64)).all fun k =>
        match byteHome s ctx obj e (max off (off / 64 * 64 + 64 * k)) with
        | some a => homeReady s a && (e.memside || lineServed s a)
        | none => true

/-- R144, R249, R250: a slice takes note of an access to a line; the line of a MEMSIDE object bypasses the caches and
is invalidated there. A miss to a line whose write-back the controller has not accepted is sent after it. -/
def touchLine (s : State) (a : Nat) (dirty memside : Bool) : State :=
  match sliceOf s a with
  | none => s
  | some (cl, _) =>
    let c := vget s.clusters cl
    let d := dirty || tableGet c.lines (a / 64) false
    let lines := if memside then tableErase c.lines (a / 64) else tableSet c.lines (a / 64) d
    let left := c.writeBacks.filter fun e => e.line != a / 64
    let c' : Cluster := { c with lines := lines, writeBacks := left, misses := fillMiss c.misses (a / 64) }
    { s with clusters := vset s.clusters cl c' }

/-- R271: whether an object of a context is flagged MEMSIDE. -/
def memsideOf (s : State) (ctx : BitVec 12) (obj : BitVec 24) : Bool :=
  match objFind s ctx obj with
  | some e => e.memside
  | none => false

/-- The model's free counter moves on. -/
def bump (s : State) : State := { s with freeCtr := s.freeCtr + 1 }

/-! ### Packets to other packages (R274, R320, R396, R397) -/

/-- R397: the first port that is up from port `k` on, in ascending order mod 16. -/
def nextPort (s : State) (k : Nat) : Option (Fin 16) :=
  ((List.range 16).map fun n => Fin.ofNat 16 (k + n)).find? fun p => s.ports[p].up

/-- R396, R397: a packet enters a sender's buffer. Nothing says by which port it leaves: a free value picks it, and where the
port is down the packet leaves by the next that is up, or waits for one (log entry 124). -/
def sendPacket (s : State) (p : Packet) : State :=
  let k := Config.pick s.freeCtr % 16
  let q := (nextPort s k).getD (Fin.ofNat 16 k)
  let x := s.ports[q]
  { bump s with ports := s.ports.set q { x with packets := x.packets ++ [p] } }

/-- R397: what a down port still holds leaves by the next port that is up; a packet on the link starts again. -/
def rerouteFrom (s : State) (p : Fin 16) : State :=
  let x := s.ports[p]
  match if x.up then none else nextPort s (p.val + 1) with
  | none => s
  | some q =>
    let ports := s.ports.set p { x with packets := [], through := 0 }
    { s with ports := ports.set q { ports[q] with packets := ports[q].packets ++ x.packets } }

/-- R251, R274: read up to 32 bytes of one sector of an object. Memory of another package is asked in a packet, and answers
with a free value. -/
def readObj (s : State) (ctx : BitVec 12) (obj : BitVec 24) (off n : Nat) (need : List Nat) : State × Got :=
  match locate s ctx obj off n need false with
  | (s, .phys a _) =>
    match bankRefuses s a with
    | some b => (s, .refused b)
    | none =>
      let r := readPhys s a n
      (touchLine s a false (memsideOf s ctx obj), .value r.1 r.2)
  | (s, .remote pkg) =>
    let v := (Config.remoteSector s.freeCtr).toNat % 2 ^ (8 * n)
    let s := bump s
    -- R320: an atomic operation goes in a packet of its own class
    (if need.contains Right.atomic then s
      else sendPacket s ⟨BitVec.ofNat 10 pkg, .req, obj, BitVec.ofNat 48 off, none, [], []⟩, .value v false)
  | (s, .moved) => (s, .moved)
  | (s, .fail k) => (s, .fail k)

/-- What a write answers. -/
inductive Put where
  | done
  | refused (bank : Nat)
  | moved
  | fail (sub : Nat)
  deriving DecidableEq, Repr

/-- R251, R288, R375: write up to 32 bytes of one sector of an object. -/
def writeObj (s : State) (ctx : BitVec 12) (obj : BitVec 24) (off n : Nat) (need : List Nat) (v : Nat)
    (poisoned : Bool) (producer : BitVec 32) : State × Put :=
  match locate s ctx obj off n need true with
  | (s, .phys a mirror) =>
    match bankRefuses s a with
    | some b => (s, .refused b)
    | none =>
      let s := if quarantinedAt s a then s
        else markPlaces s a n v producer ((ctx, obj, off) :: markedPlaces s a)
      let s := writePhys (touchLine s a true (memsideOf s ctx obj)) a n v poisoned
      match mirror with
      | some b => (writePhys s b n v poisoned, .done)
      | none => (s, .done)
  | (s, .remote pkg) =>
    (if need.contains Right.atomic then s
      else sendPacket s ⟨BitVec.ofNat 10 pkg, .req, obj, BitVec.ofNat 48 off, none, [BitVec.ofNat 512 v]
        , if poisoned then [0] else []⟩, .done)
  | (s, .moved) => (s, .moved)
  | (s, .fail k) => (s, .fail k)

/-- R250, R252: whether a scope of a sequencer in cluster `cl` covers the home of an access. -/
def covers (s : State) (sc : Scope) (cl : Nat) (ctx : BitVec 12) (obj : BitVec 24) (off : Nat) : Bool :=
  match sc with
  | .ar => false
  | .dm => true
  | .pk =>
    match objFind s ctx obj with
    | none => true
    | some e =>
      if e.homeKind = 1 then e.window s
      else if e.kind = 2 then
        match walkPage s e ctx obj (off / 2 ^ e.pageShift) false with
        | some d => !(descState d = 1 && descPkg d != s.pkgnum.toNat)
        | none => true
      else true
  | .cl =>
    match objFind s ctx obj with
    | none => true
    | some e =>
      match byteHome s ctx obj e off with
      | some a => match homeCluster a with
        | some c => c = cl
        | none => false
      | none => false

/-! ### Writes by physical address -/

/-- R270: the state with the link-port table's objects of other packages in the place of this package's own. -/
def swapPort (s : State) : State :=
  { s with
    objs := s.port.objs, descs := s.port.descs, translations := s.port.translations, moves := s.port.moves
    port := ⟨s.objs, s.descs, s.translations, s.moves⟩ }

/-- R288: the copy of a retiring page of a port's table, ahead of the flip, that a write to a byte of it also reaches. -/
def mirrorIn (s : State) (a : Nat) : Option Nat :=
  s.moves.findSome? fun m =>
    match m.cursor, objFind s m.ctx m.obj with
    | some c, some e =>
      match walkPage s e m.ctx m.obj m.page.toNat false with
      | some d =>
        if descBase d ≤ a ∧ a < descBase d + 2 ^ e.pageShift ∧ (a - descBase d) / 32 < c then
          some (m.target.toNat + (a - descBase d))
        else none
      | none => none
    | _, _ => none

/-- R288: the copy of a retiring page that a write to a byte of it also reaches. -/
def mirrorOf (s : State) (a : Nat) : Option Nat := (mirrorIn s a).or (mirrorIn (swapPort s) a)

/-- R288, R375: a write of up to 32 bytes to physical memory itself: the headers of the marked chunks that hold them follow
it, and the new copy of a retiring page takes it too. -/
def writeRaw (s : State) (a n v : Nat) (poisoned : Bool) (producer : BitVec 32) : State :=
  let mark (s : State) : State := markPlaces s a n v producer (markedPlaces s a)
  let s := if quarantinedAt s a then s else swapPort (mark (swapPort (mark s)))
  let s' := writePhys s a n v poisoned
  match mirrorOf s a with
  | some b => writePhys s' b n v poisoned
  | none => s'

/-- R288, R375: a write by an agent that writes physical memory itself: the command processor, the security root. -/
def writeHome (s : State) (a n v : Nat) : State := writeRaw s a n v false 0

/-- R288, R384: a sector is entered as poisoned, in every copy of it that a write reaches. -/
def poisonSector (s : State) (a : Nat) : State :=
  let s' := enterPoison s (a / 32)
  match mirrorOf s a with
  | some b => enterPoison s' (b / 32)
  | none => s'

end Sys2Proof.Machine
end

