-- ==== Sys2Proof/Machine/Records.lean ====
section
/-! DEFINITION. The functions in service (R398) and the headers of launch records (R298, R314). -/

namespace Sys2Proof.Machine

/-- R398: the bit of the command processor. -/
def cpReady (s : State) : Bool := inService s 44

/-! ### The header of a launch record (R298) -/

/-- A field of the header: its lowest bit and width. -/
def Record.fld (r : Record) (lo w : Nat) : Nat := bits r.header.toNat lo w
/-- R298. -/
def Record.length (r : Record) : Nat := r.fld 32 32
/-- R298: arrays. -/
def Record.arrays (r : Record) : Nat := r.fld 64 3
/-- R298. -/
def Record.chain (r : Record) : Bool := r.header.getLsbD 67
/-- R298: the cell store is live. -/
def Record.live (r : Record) : Bool := r.header.getLsbD 69
/-- R298. -/
def Record.prio (r : Record) : Nat := r.fld 70 2
/-- R298: parameter blocks. -/
def Record.blocks (r : Record) : Nat := r.fld 80 16
/-- R298: schedule entries. -/
def Record.nsch (r : Record) : Nat := r.fld 96 16
/-- R298: stream entries. -/
def Record.nstr (r : Record) : Nat := r.fld 112 8
/-- R298: object entries. -/
def Record.nobj (r : Record) : Nat := r.fld 120 8
/-- R298: the declared retirement interval. -/
def Record.interval (r : Record) : Nat := r.fld 800 32
/-- R298: the entry point. -/
def Record.entry (r : Record) : Nat := r.fld 832 64
/-- R298: the parameter table's object entry. -/
def Record.paramEntry (r : Record) : Nat := r.fld 944 5
/-- R298: the parameter table's offset in that object. -/
def Record.paramOff (r : Record) : Nat := r.fld 896 48
/-- R298: the names of the wait list. -/
def Record.waits (r : Record) : List (BitVec 16) :=
  (List.range (r.fld 72 4)).map fun k => BitVec.ofNat 16 (r.fld (1152 + 16 * k) 16)
/-- R298: the names of the signal list. -/
def Record.signals (r : Record) : List (BitVec 16) :=
  (List.range (r.fld 76 4)).map fun k => BitVec.ofNat 16 (r.fld (1280 + 16 * k) 16)
/-- R298: a trap-table entry. -/
def Record.handler (r : Record) (k : Nat) : Nat := r.fld (512 + 32 * k) 32
/-- R298, R313: the sync groups used, with the sequencers in each. -/
def Record.syncs (r : Record) : List (BitVec 8 × Nat) :=
  ((List.range 4).map fun k => (BitVec.ofNat 8 (r.fld (1432 + 32 * k) 8), r.fld (1424 + 32 * k) 8)).filter
    fun e => e.1 != 0
/-- R314: the domain barrier entry. -/
def Record.domain (r : Record) : Nat := r.fld 1536 128
/-- R314: the domain barrier's ID. -/
def Record.domainId (r : Record) : BitVec 24 := BitVec.ofNat 24 (bits r.domain 80 24)

/-! ### Reading a record (R299) -/

/-- What gives the number of `w` bytes from byte `off` of a record. -/
abbrev Reader := Nat → Nat → Nat

/-- The bytes of a number. -/
def bytesOf (v : Nat) : Reader := fun off w => bits v (8 * off) (8 * w)

/-- R299: a length padded to a multiple of 64. -/
def pad64 (n : Nat) : Nat := ceilDiv n 64 * 64

/-- R298: whether the counts that give the lengths of the sections are within their limits. -/
def Record.sized (r : Record) : Bool := decide (r.nobj ≤ 18 ∧ r.nstr ≤ 16 ∧ r.nsch ≤ 1024)

/-- R299: the header and the scalars of a record, with no further sections. -/
def readHeader (rd : Reader) : Record := ⟨BitVec.ofNat 2048 (rd 0 256), BitVec.ofNat 2048 (rd 256 256), [], [], []⟩

/-- R299: the bytes of a record; those of its header and scalars where its counts are out of range. -/
def recordBytes (rd : Reader) : Nat :=
  let h := readHeader rd
  if h.sized then 512 + pad64 (32 * h.nobj) + 64 * h.nstr + pad64 (4 * h.nsch) else 512

/-- R298, R299: a record; the sections after the scalars only where the counts are within their limits. -/
def readRecord (rd : Reader) : Record :=
  let h := readHeader rd
  if h.sized then
    let o := 512
    let q := o + pad64 (32 * h.nobj)
    { h with
      objects := (List.range h.nobj).map fun k => BitVec.ofNat 256 (rd (o + 32 * k) 32)
      streams := (List.range h.nstr).map fun k => BitVec.ofNat 512 (rd (q + 64 * k) 64)
      sched := (List.range h.nsch).map fun k => BitVec.ofNat 32 (rd (q + 64 * h.nstr + 4 * k) 4) }
  else h

/-- R299: whether the padding of the object and schedule sections is zero. -/
def paddingOk (rd : Reader) (r : Record) : Bool :=
  let o := 512 + 32 * r.nobj
  let q := 512 + pad64 (32 * r.nobj) + 64 * r.nstr + 4 * r.nsch
  decide (rd o (pad64 (32 * r.nobj) - 32 * r.nobj) = 0 ∧ rd q (pad64 (4 * r.nsch) - 4 * r.nsch) = 0)

end Sys2Proof.Machine
end

