-- ==== Sys2Proof/Machine/Ops.lean ====
section
/-! DEFINITION. The operations that the meanings share: arrays and sequencer registers (R12, R16, R18),
traps and their return (R335 to R342), fatal context errors and the records of the fault ring (R344,
R394), and status words (R303). -/

namespace Sys2Proof.Machine

/-! ### Arrays -/

/-- An array. -/
def getA (s : State) (a : Fin 32) : Arr := s.arrs[a]

/-- Put an array. -/
def setA (s : State) (a : Fin 32) (x : Arr) : State := { s with arrs := s.arrs.set a x }

/-- Change an array. -/
def updA (s : State) (a : Fin 32) (f : Arr → Arr) : State := setA s a (f (getA s a))

/-- Change the array whose bundle is issuing. -/
def updCur (s : State) (f : Arr → Arr) : State := updA s s.cur f

/-- The array whose bundle is issuing. -/
def curA (s : State) : Arr := getA s s.cur

/-- Change several arrays. -/
def updAll (s : State) (as : List (Fin 32)) (f : Arr → Arr) : State :=
  as.foldl (fun s a => updA s a f) s

/-- The cluster of an array (R127). -/
def clusterOf (a : Fin 32) : Fin 8 := ⟨a.val / 4, by omega⟩

/-- R291: the number of an array within its cluster. -/
def inCluster (a : Fin 32) : Nat := a.val % 4

/-- The die of an array. -/
def dieOf (a : Fin 32) : Fin 4 := ⟨a.val / 8, by omega⟩

/-- Change a cluster. -/
def updC (s : State) (c : Fin 8) (f : Cluster → Cluster) : State :=
  { s with clusters := s.clusters.set c (f s.clusters[c]) }

/-- The arrays of an array's group, itself alone when no task is placed. -/
def members (s : State) (a : Fin 32) : List (Fin 32) :=
  if (getA s a).group.isEmpty then [a] else (getA s a).group

/-- R34: the arrays that act as one tall array with `a`. -/
def tall (s : State) (a : Fin 32) : List (Fin 32) :=
  if (getA s a).kind = .chain then members s a else [a]

/-- R235: array number `k` of an array's group, unless it has gone to another task. -/
def memberAt (s : State) (a : Fin 32) (k : Nat) : Option (Fin 32) :=
  (members s a)[k]?.filter fun b => (getA s b).task = (getA s a).task

/-- R235: the arrays of an array's group that its task still has. -/
def mates (s : State) (a : Fin 32) : List (Fin 32) :=
  (members s a).filter fun b => (getA s b).task = (getA s a).task

/-- R121, R232: the head of a chain. -/
def isHead (x : Arr) : Bool := x.kind = .chain && x.grpIdx = 0

/-- R232: a sequencer of a chain other than the head's. -/
def isTail (x : Arr) : Bool := x.kind != .cluster && x.grpIdx != 0

/-- R34, R231: the sum of the link delays from the head. -/
def linkDelay (x : Arr) : Nat := if x.kind = .cluster then 0 else 4 * x.grpIdx

/-- R34, R235: the arrays whose cycles pass together with those of `a`: a chain, also while steps issued before
its `LFREE` are under way. -/
def lockstep (s : State) (a : Fin 32) : List (Fin 32) :=
  if (getA s a).kind = .chain ∨ (getA s a).kind = .freeing then members s a else [a]

/-! ### Sequencer registers -/

/-- R12, R16: a scalar register as the bundle reads it; `S0` reads zero. -/
def Arr.rs (x : Arr) (r : Fin 32) : Word64 := if r = 0 then 0 else x.snap.s[r]

/-- R12, R16: a predicate as the bundle reads it; `P0` reads true. -/
def Arr.rp (x : Arr) (p : Fin 8) : Bool := if p = 0 then true else x.snap.p[p]

/-- R16: a capability register as the bundle reads it. -/
def Arr.rh (x : Arr) (h : Fin 16) : Cap := x.snap.h[h]

/-- Whether a write under way is to scalar register `d`. -/
def SeqPend.isS (e : SeqPend) (d : Fin 32) : Bool :=
  match e.write with | .s k _ => k = d | .p _ _ => false

/-- Whether a write under way is to predicate `d`. -/
def SeqPend.isP (e : SeqPend) (d : Fin 8) : Bool :=
  match e.write with | .p k _ => k = d | .s _ _ => false

/-- Put a scalar register; a write to `S0` is discarded (R12). -/
def SeqRegs.putS (r : SeqRegs) (d : Fin 32) (v : Word64) : SeqRegs :=
  if d = 0 then r else { r with s := r.s.set d v }

/-- Put a predicate; a write to `P0` is discarded (R12). -/
def SeqRegs.putP (r : SeqRegs) (d : Fin 8) (v : Bool) : SeqRegs :=
  if d = 0 then r else { r with p := r.p.set d v }

/-- R18, R104: a result of latency 1; writes of earlier bundles to the register land before it. -/
def Arr.ws (x : Arr) (d : Fin 32) (v : Word64) : Arr :=
  { x with regs := x.regs.putS d v, regPend := x.regPend.filter fun e => !e.isS d }

/-- R18: an answer to come for predicate `d` is discarded where it would land after a later write. -/
def QOp.dropP (d : Fin 8) : QOp → QOp
  | .barTest b e n => if e = d then .barTest b 0 n else .barTest b e n
  | .probe e n t => if e = d then .probe 0 n t else .probe e n t
  | op => op

/-- R18: a write to predicate `d` supersedes the answers still to come for it that were asked for before it: those
of entries below `id`, and the first `n` of the `SPRINT`s. -/
def Arr.supersedeP (x : Arr) (d : Fin 8) (id n : Nat) : Arr :=
  { x with
    queue := x.queue.map fun e => if e.id < id then { e with op := e.op.dropP d } else e
    sprints := x.sprints.mapIdx fun k t => if k < n ∧ t.d = d then { t with d := 0 } else t }

/-- R18, R104: a predicate result of latency 1. -/
def Arr.wp (x : Arr) (d : Fin 8) (v : Bool) : Arr :=
  let x := x.supersedeP d x.nextId x.sprints.length
  { x with regs := x.regs.putP d v, regPend := x.regPend.filter fun e => !e.isP d }

/-- R18, R136: the answer of queue entry `id` lands in its predicate; one asked for before it is superseded. -/
def Arr.landP (x : Arr) (d : Fin 8) (v : Bool) (id : Nat) : Arr :=
  let x := x.supersedeP d id (x.sprints.filter fun t => decide (t.first ≤ id)).length
  { x with regs := x.regs.putP d v }

/-- R18, R123: the answer of the first `SPRINT` lands in its predicate. -/
def Arr.landSprint (x : Arr) (v : Bool) : Arr :=
  match x.sprints with
  | [] => x
  | t :: l =>
    let x := x.supersedeP t.d t.first 0
    { x with regs := x.regs.putP t.d v, sprints := l }

/-- R8, R18: enter a result that lands by cycle `due`; an earlier write to the same register lands no
later. -/
def Arr.pendWrite (x : Arr) (w : SeqWrite) (due : Nat) : Arr :=
  let same (e : SeqPend) : Bool := match w with | .s d _ => e.isS d | .p d _ => e.isP d
  { x with regPend :=
      (x.regPend.map fun e => if same e then { e with due := min e.due due } else e) ++ [⟨due, w⟩] }

/-- R8: the cycle on which a result of latency bound `n` is first read: free within the bound. -/
def landingCycle (s : State) (x : Arr) (n : Nat) : Nat :=
  x.acnt + 1 + Config.landing s.freeCtr % n

/-- Apply a landed result. -/
def SeqRegs.land (r : SeqRegs) : SeqWrite → SeqRegs
  | .s d v => r.putS d v
  | .p d v => r.putP d v

/-- R104: land the results that a bundle of cycle `now` reads. -/
def Arr.landRegs (x : Arr) (now : Nat) : Arr :=
  { x with
    regs := (x.regPend.filter fun e => decide (e.due ≤ now)).foldl (fun r e => r.land e.write) x.regs
    regPend := x.regPend.filter fun e => decide (now < e.due) }

/-- R147, R148: a marker of both queues. -/
def QOp.isMarker : QOp → Bool
  | .mark | .fence _ => true
  | _ => false

/-- R147, R148: a marker before which nothing is left has done its work. -/
def settleMarkers (q : List QEntry) : List QEntry := q.dropWhile fun e => e.op.isMarker

/-- R135, R253: a committed form enters the queues, with its capability copy and the object offset. -/
def Arr.enqueue (x : Arr) (op : QOp) (cap : Cap) (off : Nat) : Arr :=
  { x with queue := settleMarkers (x.queue ++ [⟨x.nextId, op, cap, off, x.scope, false⟩]), nextId := x.nextId + 1 }

/-- R139: a form that sets `PHDIRTY` as it commits. -/
def Arr.dirty (x : Arr) : Arr := { x with phDirty := true }

/-- R18, R19: a load's value lands and clears its pending bit; results of earlier forms land before it. -/
def Arr.landS (x : Arr) (d : Fin 32) (v : Word64) : Arr :=
  { x with regs := x.regs.putS d v, regPend := x.regPend.filter fun e => !e.isS d, pendS := x.pendS.set d false }

/-- R12, R19: set a pending bit, of which every scalar register has one. -/
def Arr.setPending (x : Arr) (d : Fin 32) : Arr := { x with pendS := x.pendS.set d true }

/-! ### Traps -/

/-- R336: the code of a cause. -/
def Cause.code : Cause → Nat
  | .pipeline => 1 | .poison => 2 | .capability => 3 | .illegal => 4 | .schedule => 5
  | .probe => 6 | .overArrival => 7 | .leaseExpiry => 8 | .overdue => 9 | .breakpoint => 10
  | .user => 11 | .resource => 12 | .replayUnsafe => 13 | .preempt => 14

/-- R336: the priority of a cause, 1 the highest. -/
def Cause.prio : Cause → Nat
  | .pipeline => 1 | .poison => 2 | .replayUnsafe => 2 | .capability => 3 | .illegal => 4
  | .schedule => 5 | .breakpoint => 6 | .user => 6 | .resource => 7 | .probe => 8
  | .overArrival => 9 | .overdue => 10 | .leaseExpiry => 11 | .preempt => 12

/-- R336: the classes of trap. -/
inductive TrapClass where
  | cancel | inTask | system | fatal
  deriving DecidableEq, Repr

/-- R336: the class of a cause. -/
def Cause.cls : Cause → TrapClass
  | .pipeline | .poison => .cancel
  | .capability | .illegal => .fatal
  | .schedule | .breakpoint | .user | .probe | .overArrival | .overdue | .leaseExpiry => .inTask
  | .resource | .replayUnsafe | .preempt => .system

/-- R298: the place of a cause in the trap table. -/
def Cause.key : Cause → Option Nat
  | .probe => some 0 | .leaseExpiry => some 1 | .overArrival => some 2 | .schedule => some 3
  | .overdue => some 4 | .breakpoint => some 5 | .user => some 6
  | _ => none

/-- R338: the trap status word. -/
def mkXsw (c : Cause) (detail : BitVec 48) (resume : Nat) : Word64 :=
  BitVec.ofNat 64 (detail.toNat * 2 ^ 16 + c.code * 2 ^ 8 + resume % 8)

/-- A boundary trap becomes pending (R335). -/
def Arr.raise (x : Arr) (c : Cause) (detail : Nat) : Arr :=
  { x with traps := x.traps ++ [⟨c, BitVec.ofNat 48 detail, 0, 0⟩] }

/-- R15, R340: where execution goes after the whole bundle; a bundle that was re-entered continues at its
`XNPC`, at whichever slot it began. -/
def Arr.afterBundle (x : Arr) : Word64 :=
  match x.transfer with
  | some t => t
  | none => (x.resumeNext.getD (x.snap.pc + 32#48)).setWidth 64

/-- R15, R335: slot `k` raises a trap: the slots from `k` on do not commit, and the cycle ends. -/
def Arr.slotFault (x : Arr) (k : Nat) (c : Cause) (detail : Nat) : Arr :=
  { x with
    slotTrap := some ⟨c, BitVec.ofNat 48 detail, k, k, x.snap.pc, x.afterBundle.setWidth 48⟩
    run := .issuing 8 }

/-- A slot trap of a bundle that does not issue (R116, R121): it is pending at this boundary. -/
def Arr.issueFault (x : Arr) (k : Nat) (c : Cause) (detail : Nat) : Arr :=
  { x with
    slotTrap := some ⟨c, BitVec.ofNat 48 detail, k, k, x.snap.pc, x.afterBundle.setWidth 48⟩
    run := .boundary }

/-- R338: the detail of a schedule fault, from its subcause and the field from bit 24 of `XSW`. -/
def schedDetail (sub field : Nat) : Nat := sub + 256 * field

/-- Raise a schedule fault in a slot (R338). -/
def Arr.schedFault (x : Arr) (slot sub field : Nat) : Arr :=
  x.slotFault slot .schedule (schedDetail sub field)

/-- Raise a schedule fault at the next boundary (R338). -/
def Arr.schedTrap (x : Arr) (sub field : Nat) : Arr := x.raise .schedule (schedDetail sub field)

/-- R338: raise a capability fault in a slot: subcause and capability register. -/
def Arr.capFault (x : Arr) (slot sub reg : Nat) : Arr :=
  x.slotFault slot .capability (sub + 256 * reg)

/-- R338: raise an illegal-instruction trap in a slot: subcause and opcode. -/
def Arr.illegalFault (x : Arr) (slot sub opcode : Nat) : Arr :=
  x.slotFault slot .illegal (sub + 512 * opcode)

/-! ### Records, rings and status -/

/-- R286: the new home of a page holds a write of an agent that has no entry in a queue. -/
def holdWrite (s : State) (ctx : BitVec 12) (obj : BitVec 24) (off n v : Nat) (producer : BitVec 32) : State :=
  let page := match objFind s ctx obj with | some e => off / 2 ^ e.pageShift | none => 0
  let own := ownCtx s ctx obj
  { s with moves := s.moves.map fun m =>
      if m.ctx = own ∧ m.obj = obj ∧ m.page.toNat = page then { m with held := m.held ++ [.write off n v producer] }
      else m }

/-- A write of an agent that has no entry in a queue; one answered moved is held at the page's new home. The answer is the
subcause of R273 or R280 where it fails. -/
def tryPut (s : State) (ctx : BitVec 12) (obj : BitVec 24) (off n : Nat) (need : List Nat) (v : Nat)
    (producer : BitVec 32) : State × Option Nat :=
  match writeObj s ctx obj off n need v false producer with
  | (s, .moved) => (holdWrite s ctx obj off n v producer, none)
  | (s, .fail sub) => (s, some sub)
  | (s, .done) | (s, .refused _) => (s, none)

/-- A write of an agent that has no entry in a queue, where none fails. -/
def putObj (s : State) (ctx : BitVec 12) (obj : BitVec 24) (off n : Nat) (need : List Nat) (v : Nat)
    (producer : BitVec 32) : State := (tryPut s ctx obj off n need v producer).1

/-- R303: write a task's status word and then the time, in the launch record. -/
def writeStatus (s : State) (p : RecPlace) (tid : BitVec 32) (reason st : Nat) : State :=
  let v := tid.toNat * 2 ^ 32 + reason % 2 ^ 16 * 2 ^ 16 + st
  let now := s.ptime % 2 ^ 64
  match p with
  | .phys a => writeHome (writeHome s (a.toNat + 16) 8 v) (a.toNat + 24) 8 now
  | .object ctx obj off => putObj (putObj s ctx obj (off + 16) 8 [] v 0) ctx obj (off + 24) 8 [] now 0

/-- R394: write a 64-byte record to a context's fault ring, and raise vector 64. -/
def writeRing (s : State) (ctx : BitVec 12) (rec' : Nat) : State :=
  match tableFind s.contexts ctx.toNat with
  | none => s
  | some c =>
    if c.entries = 0 ∨ c.enable = false then s
    else
      let a := c.ring.toNat + 64 * (c.written % c.entries.toNat)
      let s := writeHome (writeHome s a 32 (rec' % 2 ^ 256)) (a + 32) 32 (rec' / 2 ^ 256)
      let c' : Context := { c with written := c.written + 1 }
      { s with contexts := tableSet s.contexts ctx.toNat c', msix := 64 :: s.msix }

/-- R344: the fatal record. -/
def fatalRecord (s : State) (i : FatalInfo) : Nat :=
  let where' := match i.array with
    | some a => a.val * 2 ^ 48 + (getA s a).grpIdx % 4 * 2 ^ 53
    | none => 0
  1 + i.subcause.toNat * 2 ^ 16 + i.tid.toNat * 2 ^ 32 + (s.ptime % 2 ^ 64) * 2 ^ 64
    + (i.pc.toNat + where') * 2 ^ 128
    + (i.obj.toNat + i.agent.toNat * 2 ^ 24) * 2 ^ 192
    + i.offset.toNat * 2 ^ 256 + i.xsw.toNat * 2 ^ 320 + i.chunk.toNat * 2 ^ 384
    + i.kind.toNat * 2 ^ 448

/-- R160: the record of a completed copy, as its bytes 0 to 63. -/
def copyRecord (s : State) (c : Copy) (status fault : Nat) (detail : Nat) : Nat :=
  status + bits c.block.bits.toNat 0 4 * 2 ^ 8 + c.blockIdx.toNat * 2 ^ 16 + c.schedIdx.toNat * 2 ^ 24
    + fault * 2 ^ 32 + c.written % 2 ^ 64 * 2 ^ 64 + detail % 2 ^ 64 * 2 ^ 128
    + c.zeroed % 2 ^ 64 * 2 ^ 192 + s.ptime % 2 ^ 64 * 2 ^ 256 + c.opNum % 2 ^ 64 * 2 ^ 448

/-- R160: the object offset of the record of an operation in a context's ring. -/
def Tongs.recordAt (t : Tongs) (opNum : Nat) : Nat :=
  t.ring.lower.toNat + t.ringOff + 64 * ((opNum - 1) % t.ringEntries)

/-- R160: write half of a copy's record into the context's ring: bytes 0 to 31, or with `high` bytes 32 to 63. -/
def writeHalf (s : State) (ctx : BitVec 12) (tid : BitVec 32) (t : Tongs) (c : Copy) (status fault detail : Nat)
    (high poisoned : Bool) : State × Put :=
  let r := copyRecord s c status fault detail
  writeObj s ctx t.ring.obj (t.recordAt c.opNum + if high then 32 else 0) 32 [Right.write]
    (if high then r / 2 ^ 256 else r % 2 ^ 256) poisoned tid

/-- R159, R273, R280, R286: the record of a cancelled copy, in one step (log entry 107); a half whose page is moving is held
at the new home. The answer is the subcause and the offset of the first half that fails its checks. -/
def cancelRecord (s : State) (ctx : BitVec 12) (tid : BitVec 32) (t : Tongs) (c : Copy) : State × Option (Nat × Nat) :=
  if t.ringEntries = 0 then (s, none)
  else
    let off := t.recordAt c.opNum
    let r := copyRecord s c 3 0 0
    let (s, low) := tryPut s ctx t.ring.obj off 32 [Right.write] (r % 2 ^ 256) tid
    let (s, high) := tryPut s ctx t.ring.obj (off + 32) 32 [Right.write] (r / 2 ^ 256) tid
    (s, match low with
      | some sub => some (sub, off)
      | none => high.map fun sub => (sub, off + 32))

/-! ### Abandoned forms -/

/-- R29, R231: after how many cycles a beat's write reaches register `x`; `base` is the global row of
local row 0. -/
def Skew.delay (k : Skew) (base x : Nat) : Nat :=
  match k with
  | .noskew => 0
  | .skew => base + x
  | .rskew => 63 - x

/-- R34, R231: the global row of an array's row 0, for its west feeder. -/
def rowBase (x : Arr) : Nat := if x.kind = .cluster then 0 else 64 * x.grpIdx

/-- The skew of a form: only pops have one (R206). -/
def FeederForm.delay (m : FeederForm) (base x : Nat) : Nat :=
  match m.kind with
  | .pop | .popt _ => Skew.delay m.skew base x
  | .zero | .hold | .bcast => 0

/-- R30: the writes that the static schedule implies for the `n` beats of a form from cycle `now`, the
first being pop number `num`. -/
def impliedOf (m : FeederForm) (base num now : Nat) : Nat → List FeederWrite
  | 0 => []
  | n + 1 => ((List.finRange 64).map fun x : Fin 64 =>
      ⟨now + m.delay base x.val, x, none, BitVec.ofNat 16 num⟩) ++ impliedOf m base (num + 1) (now + 1) n

/-- R30: the static schedule has a form begin on cycle `now`: the tags it implies, and the count after them. -/
def Feeder.imply (f : Feeder) (now base : Nat) (m : FeederForm) : Feeder :=
  { f with
    impliedWrites := f.impliedWrites ++ impliedOf m base f.impliedNext.toNat now m.left
    impliedNext := f.impliedNext + BitVec.ofNat 16 m.left }

/-- R34, R346: what is left of a form with its next beat on cycle `due` of an array `d` cycles down the chain, when its
slot has issued no beat from cycle `now` on: the beats that are on their way. A stalled form is abandoned. -/
def FeederForm.issued (m : FeederForm) (now d due : Nat) : Option FeederForm :=
  let n := min m.left (now + d - due)
  if m.stalled ∨ n = 0 then none else some { m with left := n }

/-- R346: what is left of something on its way to a feeder; a tag or a rotation still arrives. -/
def FeederCmd.issued (now d due : Nat) : FeederCmd → Option FeederCmd
  | .form m => (m.issued now d due).map .form
  | .tag n => some (.tag n)
  | .skew k => some (.skew k)

/-- R209: whether a feeder form takes blocks from a stream. -/
def FeederKind.pops : FeederKind → Bool
  | .pop | .popt _ | .bcast => true
  | .zero | .hold => false

/-- R206: the blocks that a beat takes. -/
def FeederKind.blocks : FeederKind → Nat
  | .pop | .popt _ => 64
  | .bcast => 1
  | .zero | .hold => 0

/-- The forms of a feeder: the one in progress and those on their way. -/
def Feeder.forms (f : Feeder) : List FeederForm :=
  f.form.toList ++ f.inbox.filterMap fun e => match e.2 with
    | .form m => some m
    | .tag _ | .skew _ => none

/-- R346, R211: abandon the feeder forms with beats left or stalled, but for beats on their way down the chain. The tags the
schedule implies are then those that the registers carry or are about to carry, and those of the beats that are left. -/
def Feeder.abandon (f : Feeder) (now d base : Nat) : Feeder :=
  let inbox := f.inbox.filterMap fun e => (e.2.issued now d e.1).map fun c => (e.1, c)
  match f.form with
  | none => { f with inbox := inbox }
  | some m =>
    let g := { f with
      form := none, inbox := inbox, implied := f.tags, impliedWrites := f.writes, impliedNext := f.next }
    match m.issued now d now with
    | none => g
    | some m => { g.imply now base m with form := some m }

/-- R126: whether a `MEM` form or push that the sequencer committed has not been performed; a pop is no
such form (R236). -/
def Arr.outstanding (x : Arr) : Bool :=
  x.queue.any fun e => match e.op with | .pop _ _ => false | _ => true

/-- Take entries out of a sequencer's queue. -/
def dropEntries (s : State) (a : Fin 32) (ids : List Nat) : State :=
  updA s a fun x => { x with queue := settleMarkers (x.queue.filter fun e => !ids.contains e.id) }

/-- The entries `first` to `first + n - 1`. -/
def idRange (first n : Nat) : List Nat := (List.range n).map fun k => first + k

/-- The queue entries that a capture fills. -/
def Capture.ids (c : Capture) : List Nat :=
  match c.use with
  | .push first => idRange first 64
  | .mark e => [e]
  | .offer => []

/-- R220: the blocks of a `TK.READ`. -/
def Sorter.blocks (x : Sorter) : Nat := ceilDiv x.k 4

/-- R346: what is left of an EDGE form on its way whose slot has issued `n` beats. -/
def EdgeCmd.issued (n : Nat) : EdgeCmd → EdgeCmd
  | .init k f low => .init k f low
  | .merge q most => .merge q (min most n)
  | .read o e k => .read o e (min k n)

/-- R346: what is left of the EDGE form in progress whose slot has issued `n` beats more; a stalled merge is abandoned. -/
def EdgeForm.issued (n : Nat) : EdgeForm → Option EdgeForm
  | .plain left => if min left n = 0 then none else some (.plain (min left n))
  | .merge q left stalled => if stalled ∨ min left n = 0 then none else some (.merge q (min left n) false)
  | .read l o e => if (l.take n).isEmpty then none else some (.read (l.take n) o e)

/-- R346: abandon the feeder and edge forms of an array with beats left or stalled: their pops, and the pushes of beats
that have not issued, leave the queues. `travel`: beats that the head has issued and that are on their way down the chain go
on (R34). -/
def abandonForms (s : State) (a : Fin 32) (travel : Bool) : State :=
  let x := getA s a
  let now := x.acnt
  let d := if travel then linkDelay x else 0
  let north := x.north.abandon now d 0
  let west := x.west.abandon now d (rowBase x)
  let left := (north.forms ++ west.forms).map fun m => (m.owner, m.entry)
  let pops := ((x.north.forms ++ x.west.forms).filter fun m =>
    m.kind.pops && !left.contains (m.owner, m.entry)).map fun m => (m.owner, [m.entry])
  let late := x.captures.filter fun c => decide (now ≤ c.beat)
  let reads := match x.edge with
    | some (.read l o e) => [(o, idRange (e + d) (l.length - d))]
    | _ => []
  let cmds := x.edgeCmds.filterMap fun e => match e.2 with
    | .read o n k => some (o, idRange (n + (now + d - e.1)) (k - (now + d - e.1)))
    | .init _ _ _ | .merge _ _ => none
  let s := (pops ++ late.map (fun c => (c.owner, c.ids)) ++ reads ++ cmds).foldl
    (fun s e => dropEntries s e.1 e.2) s
  updA s a fun x => { x with
    north := north, west := west, edge := x.edge.bind fun e => e.issued d
    edgeCmds := (x.edgeCmds.map fun e => (e.1, e.2.issued (now + d - e.1))).filter fun e => match e.2 with
      | .init _ _ _ => true
      | .merge _ n | .read _ _ n => decide (0 < n)
    captures := x.captures.filter fun c => decide (c.beat < now) }

/-! ### Ending the tasks of a context -/

/-- R154: the tongs contexts that belong to an array: one on each engine of its cluster, as `4 e + x`. -/
def tongsOf (a : Fin 32) : List Nat := (List.range 4).map fun e => 4 * e + inCluster a

/-- Put a tongs context. -/
def putTongs (s : State) (cl : Fin 8) (k : Nat) (t : Tongs) : State :=
  updC s cl fun x => { x with tongs := vset x.tongs k t }

/-- R344: the address that a record gives for an error met at a sequencer outside a bundle: the bundle
due, or its `TEND` bundle. -/
def duePc (x : Arr) : BitVec 48 :=
  match x.ending with
  | some p => p
  | none => x.due.setWidth 48

/-- R344: the record of an access of array `a`'s task that fails: subcause 1 not resident, 2 access table (R273, R280). -/
def accessInfo (s : State) (a : Fin 32) (agent sub : Nat) (obj : BitVec 24) (off : Nat) : FatalInfo :=
  let shift := match objFind s (getA s a).ctx obj with
    | some e => if sub = 1 then e.pageShift else 0
    | none => 0
  { subcause := BitVec.ofNat 16 sub, agent := BitVec.ofNat 8 agent, obj := obj
    offset := BitVec.ofNat 64 (off / 2 ^ shift), array := if agent < 4 then some a else none
    xsw := 0, pc := if agent < 4 then duePc (getA s a) else 0, tid := (getA s a).task, chunk := 0
    kind := 0 }

/-- R159, R160: a copy cancelled because its context's run ends: status 3, the timeline advances, and
nothing is posted. The answer is the error of its record, where that fails. -/
def cancelCopy (s : State) (a : Fin 32) (k : Nat) : State × Option FatalInfo :=
  let cl := clusterOf a
  let t := vget s.clusters[cl].tongs k
  match t.active with
  | none => (s, none)
  | some c =>
    let (s, failed) := cancelRecord s (getA s a).ctx (getA s a).task t c
    (putTongs s cl k { t with active := none, timeline := w64 c.opNum },
      failed.map fun f => accessInfo s a 4 f.1 t.ring.obj f.2)

/-- R344: the copies of an array's contexts are cancelled; the first error is kept. -/
def cancelCopies (r : State × Option FatalInfo) (a : Fin 32) : State × Option FatalInfo :=
  (tongsOf a).foldl (fun r k =>
    let (s, i) := cancelCopy r.1 a k
    (s, r.2.or i)) r

/-- R344: an array's sequencer stops, steps issued and forms committed go on. -/
def Arr.stop (x : Arr) : Arr :=
  { x with run := .off, traps := [], slotTrap := none, handler := false, leaveLeft := 0, halt := false
           leaveClass := 0, sprints := [], phcancel := false, transfer := none, gap := 0, wave := none }

/-- R344: stop an array's sequencer at its next boundary. -/
def stopArr (x : Arr) : Arr :=
  match x.run with
  | .issuing _ => { x with halt := true }
  | _ => x.stop

/-- R344: stop several sequencers; forms with beats left are abandoned. -/
def stopAll (s : State) (as : List (Fin 32)) : State := updAll (as.foldl (abandonForms · · false) s) as stopArr

/-- The task of an identity. -/
def taskFind (s : State) (tid : BitVec 32) : Option Task := s.tasks.find? fun t => t.tid = tid

/-- Change a task. -/
def updT (s : State) (tid : BitVec 32) (f : Task → Task) : State :=
  { s with tasks := s.tasks.map fun t => if t.tid = tid then f t else t }

/-- R313: whether a task that was placed and has not completed holds a sync line while it has no arrays. -/
def Task.holdsLine (t : Task) (l : SyncLine) : Bool :=
  decide (t.ctx = l.ctx) && (decide (t.state = .saved) || decide (t.state ≠ .running ∧ t.reruns ≠ 0))
    && t.record.syncs.any fun e => e.1 = l.group

/-- R313: a sync line loses the members that are among `as`; it is freed once its last member has completed. -/
def dropLines (s : State) (as : List (Fin 32)) : State :=
  { s with lines := (s.lines.map fun l =>
      { l with members := l.members.filter fun m => !as.contains m }).filter fun l =>
        !l.members.isEmpty || s.tasks.any fun t => t.holdsLine l }

/-- R281, R344, R356: what ends with a task's run: pins, leave and lease. -/
def endHoldings (s : State) (t : Task) (pins : Bool) : State :=
  { s with
    pins := if pins then s.pins.filter fun p => p.tid != t.tid else s.pins
    power := { s.power with
      leases := s.power.leases.filter fun l => l.tid != t.tid
      requests := s.power.requests.filter fun r => !t.arrs.contains r.arr } }

/-- R344: end a task's run: sequencers stop, copies are cancelled, holdings end. The answer is the error of a copy's record
that fails. -/
def endRun (s : State) (t : Task) : State × Option FatalInfo :=
  let (s, failed) := t.arrs.foldl cancelCopies (s, none)
  let s := stopAll s t.arrs
  (endHoldings (dropLines s t.arrs) t true, failed)

/-- R344: a fatal context error: the record, then the end of every task of the context with status 5. A form that fails then
is dropped. -/
def fatalContext (s : State) (ctx : BitVec 12) (i : FatalInfo) : State :=
  let s := writeRing s ctx (fatalRecord s i)
  let mine := s.tasks.filter fun t => t.ctx = ctx
  let s := mine.foldl (fun s t =>
    let s := (endRun s t).1
    let s := writeStatus s t.recAddr t.tid i.subcause.toNat 5
    if t.interrupt ∧ t.queue < 64 then { s with msix := t.queue :: s.msix } else s) s
  let s := { s with
    tasks := s.tasks.filter fun t => t.ctx != ctx
    events := s.events.filter fun e => e.ctx != ctx
    lines := s.lines.filter fun l => l.ctx != ctx }
  stopAll s ((List.finRange 32).filter fun a => (getA s a).ctx = ctx && (getA s a).run != .off)

/-- R344: the record of an error that a sequencer meets. -/
def seqFatal (s : State) (a : Fin 32) (sub : Nat) (xsw : Word64) (pc : BitVec 48) : FatalInfo :=
  { subcause := BitVec.ofNat 16 sub, agent := 0, obj := 0, offset := 0, array := some a, xsw := xsw
    pc := pc, tid := (getA s a).task, chunk := 0, kind := 0 }

/-- R273, R280: an access of array `a`'s task fails. -/
def accessFatal (s : State) (a : Fin 32) (agent sub : Nat) (obj : BitVec 24) (off : Nat) : State :=
  fatalContext s (getA s a).ctx (accessInfo s a agent sub obj off)

/-! ### Cancels (R118, R346, R348) -/

/-- R118, R346: an array begins its rollback: no bundle issues until issued steps have completed. -/
def Arr.startRollback (x : Arr) : Arr :=
  { x with
    run := .rolling, slotTrap := none, handler := false, gap := 0, transfer := none
    traps := x.traps.filter fun t => t.cause.cls != .cancel
    cancels := x.cancels + 1, ending := none, freeze := 0, park := false, phcancel := false, released := false
    reposition := [] }

/-- R118, R346: the arrays of a rollback begin it. -/
def startRollback (s : State) (as : List (Fin 32)) : State :=
  updAll (as.foldl (abandonForms · · true) s) as Arr.startRollback

/-- R351: what a context's save area holds of a task. -/
def areaOf (s : State) (t : Task) : Option SaveArea := s.saveAreas.find? fun e => e.ctx = t.ctx && e.tid = t.tid

/-- R351: the bytes from the first of an image to its last. -/
def imageSpan : Nat := 10438 * 4096

/-- R351: the entry of a save area with given extents: MARKED, with no right for any program. -/
def areaEntry (l : List (Nat × Nat)) : ObjEntry :=
  ⟨BitVec.ofNat 256 (1 + 2 ^ 8 + (l.map fun e => e.2).sum * 2 ^ 160), false, some l, none, false⟩

/-- R351: the extents of a context's save area change; one that holds nothing is given up. -/
def setArea (s : State) (ctx : BitVec 12) (obj : BitVec 24) (l : List (Nat × Nat)) : State :=
  { s with objs := if l.isEmpty then tableErase s.objs (objKey ctx obj) else tableSet s.objs (objKey ctx obj) (areaEntry l) }

/-- R351: the extents of a context's save area. -/
def areaExtents (s : State) (ctx : BitVec 12) (obj : BitVec 24) : List (Nat × Nat) :=
  match objFind s ctx obj with
  | some e => e.scratch.getD []
  | none => []

/-- R351: one image's place in a save area is given up, with the headers of its chunks. -/
def dropImage (s : State) (r : SaveArea) (b : Nat) : State :=
  let inside (a : Nat) : Bool := decide (b ≤ a ∧ a < b + imageSpan)
  let s := setArea s r.ctx r.obj ((areaExtents s r.ctx r.obj).filter fun e => !inside e.1)
  { s with headers := s.headers.filter fun h => !inside h.1 }

/-- The images of a task that is not to be restored from them are given up. -/
def dropImages (s : State) (t : Task) : State :=
  let mine (e : SaveArea) : Bool := e.ctx = t.ctx && e.tid = t.tid
  let s := (s.saveAreas.filter mine).foldl (fun s r => r.bases.foldl (fun s b => dropImage s r b) s) s
  { s with saveAreas := s.saveAreas.filter fun e => !mine e }

/-- R348, R381: end the run of a task and place it again from its launch record. A cancelled copy whose record fails its
checks is the fatal error of R273 or R280. -/
def rerun (s : State) (t : Task) : State :=
  let again (t : Task) : Task :=
    { t with state := .staging, arrs := [], reruns := t.reruns + 1, preempt := none, switch := false }
  match endRun (dropImages (updT s t.tid again) t) t with
  | (s, none) => s
  | (s, some i) => fatalContext s t.ctx i

/-- R298: the re-runnable bit of a record. -/
def Record.rerunnable (r : Record) : Bool := r.header.getLsbD 68

/-- R348: phase replay unsafe, met at the bundle `pc`: a re-runnable task is placed again, at most three times
(R381); another loses its context. -/
def replayUnsafe (s : State) (a : Fin 32) (pc : BitVec 48) : State :=
  let x := getA s a
  match taskFind s x.task with
  | some t =>
    if t.record.rerunnable ∧ t.reruns < 3 then rerun s t
    else fatalContext s x.ctx (seqFatal s a 9 0 pc)
  | none => stopAll s [a]

/-- R346, R348: a cancel at a boundary. One that arises while a rollback waits merges into it. -/
def cancel (s : State) (a : Fin 32) : State :=
  let x := getA s a
  if x.run = .rolling then
    updA s a fun x => { x with traps := x.traps.filter fun t => t.cause.cls != .cancel }
  else if x.phDirty ∨ 2 ≤ x.cancels then replayUnsafe s a (duePc x)
  else startRollback s (tall s a)

/-! ### Taking a trap, and the return -/

/-- R298, R339: the handler of a cause, if the task's trap table names one. -/
def handlerOf (s : State) (x : Arr) (c : Cause) : Option (BitVec 48) :=
  match c.key, taskFind s x.task with
  | some k, some t =>
    let e := bits t.record.header.toNat (512 + 32 * k) 32
    if e = 0 then none else some (BitVec.ofNat 48 (32 * (e - 1)))
  | _, _ => none

/-- R339: beats that issue before a handler's first bundle: those of the wave instruction, and feeder
and edge beats that are not stalled. -/
def Arr.beatsLeft (x : Arr) : Nat :=
  let w := match x.wave with | some f => f.beats - f.beat | none => 0
  let f (g : Feeder) : Nat := match g.form with | some m => if m.stalled then 0 else m.left | none => 0
  let e := match x.edge with
    | some (.plain n) => n
    | some (.merge _ n st) => if st then 0 else n
    | some (.read l _ _) => l.length
    | none => 0
  max (max w e) (max (f x.north) (f x.west))

/-- R337: whether a boundary trap can be taken now: the in-task class is held in handler mode (R341)
and discarded after `TEND` (R126). -/
def Arr.takeable (x : Arr) (t : Trap) : Bool :=
  !(x.handler && decide (t.cause.cls = .inTask))

/-- R337: the pending boundary trap of highest priority, in the order raised. -/
def bestTrap : List Trap → Option Trap
  | [] => none
  | t :: ts =>
    match bestTrap ts with
    | none => some t
    | some u => if u.cause.prio < t.cause.prio then some u else some t

/-- The boundary trap that the sequencer takes next. -/
def Arr.nextTrap (x : Arr) : Option Trap := bestTrap (x.traps.filter x.takeable)

/-- Take one trap out of the list. -/
def eraseTrap : List Trap → Trap → List Trap
  | [], _ => []
  | t :: ts, u => if t = u then ts else t :: eraseTrap ts u

/-- R339: enter the handler at `h`. A parked member that takes an in-task trap is not parked again by its `XRET`: it goes on at
the bundle after (DESIGN CHOICE, log entry 121). -/
def Arr.enter (x : Arr) (h : BitVec 48) (pc npc : BitVec 48) (xsw : Word64) : Arr :=
  { x with
    regs := { x.regs with xpc := pc, xnpc := npc, xsw := xsw }
    handler := true, due := h.setWidth 64, resume := 0, resumeNext := none, reenter := none, released := false
    transfer := none, gap := x.beatsLeft + 2, run := .boundary }

/-- R337, R339 to R343: the effect of taking one trap at a boundary, with the bundle it records. Where resource exhaustion
stopped an `EV.SIG`, the rest of its bundle runs first (R311 says only 'at the next bundle'; DEDUCED, log entry 123). -/
def takeOne (s : State) (a : Fin 32) (c : Cause) (detail : BitVec 48) (fromSlot : Bool)
    (resume : Nat) (pc npc : BitVec 48) : State :=
  let x := getA s a
  let xsw := mkXsw c detail resume
  match c.cls with
  | .cancel => cancel s a
  | .fatal =>
    let sub := if x.handler then 8 else if c = .capability then 5 else 6
    fatalContext s x.ctx (seqFatal s a sub xsw pc)
  | .system =>
    if c = .replayUnsafe then replayUnsafe s a pc
    else if fromSlot && x.handler then fatalContext s x.ctx (seqFatal s a 8 xsw pc)
    else if fromSlot then
      -- R311: the supervisor records the signal, and the rest of the bundle goes on
      updA s a fun x =>
        let x := (x.enqueue (.evSig (detail.setWidth 16)) Cap.none 0).dirty
        { x with due := pc.setWidth 64, resume := resume, resumeNext := some npc, run := .boundary }
    else s
  | .inTask =>
    if fromSlot && x.handler then fatalContext s x.ctx (seqFatal s a 8 xsw pc)
    else
      match handlerOf s x c with
      | some h =>
        let s := updA s a fun x => x.enter h pc npc xsw
        -- R234: a lapsed chain lease is granted again at the entry to its handler
        if c = .schedule ∧ detail.toNat % 256 = 8 then updA s a fun x => { x with clease := 0x100000 }
        else s
      | none =>
        if c = .leaseExpiry then s
        else fatalContext s x.ctx (seqFatal s a 7 xsw pc)

/-- R126: the boundary traps of the in-task class that arise after `TEND` are discarded. -/
def Arr.discardTraps (x : Arr) : Arr :=
  { x with traps := x.traps.filter fun t => !(x.ending.isSome && decide (t.cause.cls = .inTask)) }

/-- R337, R339, R340: the sequencer takes the pending trap of highest priority. A slot trap is taken or
discarded, never held. -/
def takeTrap (s : State) (a : Fin 32) : State :=
  let s := updA s a Arr.discardTraps
  let x := getA s a
  let npcDue : BitVec 48 :=
    if x.resume = 0 then x.due.setWidth 48 + 32#48 else x.resumeNext.getD (x.due.setWidth 48 + 32#48)
  match x.slotTrap, x.nextTrap with
  | none, none => s
  | some st, none =>
    takeOne (updA s a fun x => { x with slotTrap := none }) a st.cause st.detail true st.resume st.pc
      st.npc
  | none, some t =>
    takeOne (updA s a fun x => { x with traps := eraseTrap x.traps t }) a t.cause t.detail false x.resume
      (x.due.setWidth 48) npcDue
  | some st, some t =>
    if t.cause.prio < st.cause.prio then
      let s := updA s a fun x => { x with slotTrap := none, traps := eraseTrap x.traps t
                                          due := st.pc.setWidth 64, resume := st.slot
                                          resumeNext := some st.npc }
      takeOne s a t.cause t.detail false st.slot st.pc st.npc
    else
      takeOne (updA s a fun x => { x with slotTrap := none }) a st.cause st.detail true st.resume
        st.pc st.npc

/-- R125, R340: leave handler mode; the bundle at `XPC` is re-entered at the slot of `XSW`[2:0]. A slot trap of the rest of
the `XRET` bundle enters a handler again, as handler mode has been left, and that slot is lost (DESIGN CHOICE, log entry
122). -/
def Arr.xret (x : Arr) : Arr :=
  { x with
    handler := false, gap := 2, transfer := some (x.snap.xpc.setWidth 64)
    reenter := some (bits x.snap.xsw.toNat 0 3, x.snap.xnpc) }

/-- R335: whether the sequencer stands at a boundary at which traps are taken. -/
def Arr.atBoundary (x : Arr) : Bool :=
  match x.run with
  | .boundary => true
  | .waiting (.freeze _) => false
  | .waiting _ => true
  | .parked => true
  | .ended => true
  | .rolling => false
  | .off => false
  | .issuing _ => false

/-- Whether a trap is pending that would be taken at a boundary. -/
def Arr.trapPending (x : Arr) : Bool := x.slotTrap.isSome || x.nextTrap.isSome

end Sys2Proof.Machine
end

