-- ==== Sys2Proof/Machine/Flags.lean ====
section
/-! DEFINITION. The flags of the part: the cells' flags as the array edge gathers them (R109, R221), and
the bits of the numeric flag register (R76). The sequencer itself has no carry, overflow or sign flags
(R105). -/

namespace Sys2Proof.Machine

/-- R109: flag `g` of cell `key` of array `b` as an edge sample of cycle `now` sees it: every write of a step that
landed in every cell at least 2 cycles before, and of the later ones as many as the part chooses, bit by bit and cell
by cell. A write stands over every earlier one of the flag. -/
def flagSeen (s : State) (b : Fin 32) (g : Fin 4) (key : Nat) (c : Cell) (now : Nat) : Bool :=
  let late := (c.gLog.filter fun e => e.2.1 = g).takeWhile fun e => decide (now < e.1)
  match Config.flagSeen s.freeCtr (4 * (4096 * b.val + key) + g.val) % (late.length + 1) with
  | 0 => c.g.getLsbD g.val
  | n + 1 => match late[n]? with
    | some e => e.2.2
    | none => c.g.getLsbD g.val

/-- R109: flag `g` of cell (i, j) of an array, as an edge sample sees it. -/
def flagAt (s : State) (b : Fin 32) (g : Fin 4) (i j : Nat) : Bool :=
  match tableFind (getA s b).cells (64 * i + j) with
  | some c => flagSeen s b g (64 * i + j) c (getA s b).acnt
  | none => false

/-- R109: the OR of flag `g` over the cells of an array that satisfy `sel`. -/
def flagAny (s : State) (b : Fin 32) (g : Fin 4) (sel : Nat → Bool) : Bool :=
  (getA s b).cells.any fun e => sel e.1 && flagSeen s b g e.1 e.2 (getA s b).acnt

/-- R109: the AND of flag `g` over the 64 cells `key 0` to `key 63`. -/
def flagLine (s : State) (b : Fin 32) (g : Fin 4) (key : Nat → Nat) : Bool :=
  (List.range 64).all fun k => match tableFind (getA s b).cells (key k) with
    | some c => flagSeen s b g (key k) c (getA s b).acnt
    | none => false

/-- R109: the AND of flag `g` over every cell of an array. -/
def flagAll (s : State) (b : Fin 32) (g : Fin 4) : Bool :=
  (List.range 64).all fun i => flagLine s b g fun j => 64 * i + j

/-- R109: the aggregate that a sequencer sees: of its own array, or of every array of its chain. -/
def aggAny (s : State) (a : Fin 32) (g : Fin 4) : Bool :=
  (tall s a).any fun b => flagAny s b g fun _ => true

/-- R109: the AND aggregate. -/
def aggAll (s : State) (a : Fin 32) (g : Fin 4) : Bool := (tall s a).all fun b => flagAll s b g

/-- R221: the value `AGG.RD` gives. -/
def aggValue (s : State) (a : Fin 32) (g : Fin 4) (k : AggKind) : Word64 :=
  let as := tall s a
  let word (f : Nat → Bool) : Word64 :=
    BitVec.ofNat 64 (packLanes 1 ((List.range 64).map fun i => if f i then 1 else 0))
  match k with
  | .rowor => word fun i => as.any fun b => flagAny s b g fun key => key / 64 = i
  | .rowand => word fun i => as.all fun b => flagLine s b g fun j => 64 * i + j
  | .color => word fun j => as.any fun b => flagAny s b g fun key => key % 64 = j
  | .coland => word fun j => as.all fun b => flagLine s b g fun i => 64 * i + j
  | .all => (if aggAny s a g then 1 else 0) + (if aggAll s a g then 2 else 0)

end Sys2Proof.Machine
end

