-- ==== Sys2Proof/Machine/Operands.lean ====
section
/-! DEFINITION. The operand forms of the sequencer's slots: predication (R17, R40), branch targets (R37,
R107), immediates (R129, R130), the control and status registers (R127), and the fields of the feeder
and EDGE state words (R211, R219). -/

namespace Sys2Proof

/-- R141: the width in bytes of a load or store. -/
def Width.bytes : Width → Nat
  | .d64 => 8 | .i8 => 1 | .z8 => 1 | .f16 => 2 | .i32 => 4 | .z32 => 4

/-- R44, R141: extend a loaded value. -/
def Width.extend (w : Width) (v : Nat) : Word64 :=
  match w with
  | .d64 => BitVec.ofNat 64 v
  | .i8 => (BitVec.ofNat 8 v).signExtend 64
  | .z8 => BitVec.ofNat 64 (v % 2 ^ 8)
  | .f16 => BitVec.ofNat 64 (v % 2 ^ 16)
  | .i32 => (BitVec.ofNat 32 v).signExtend 64
  | .z32 => BitVec.ofNat 64 (v % 2 ^ 32)

/-- The width in bits of a lane code. -/
def LaneW.width : LaneW → Nat
  | .w4 => 4 | .w8 => 8 | .w16 => 16 | .w32 => 32

end Sys2Proof

namespace Sys2Proof.Machine

/-- A meaning's answer. -/
abbrev Answer := Host.Outcome State Fault Refusal

/-- R17: a slot whose predicate is false commits as NOP. -/
def gated (p : Fin 8) (s : State) (f : State → State) : State := if (curA s).rp p then f s else s

/-- R37, R107: the target of a branch by a count of bundles. -/
def branchTarget (pc : BitVec 48) (off : Word64) : Word64 := pc.setWidth 64 + 32#64 * off

/-- R106, R107: transfer control to `t`, with `gap` cycles without a bundle. -/
def Arr.goto (x : Arr) (t : Word64) (gap : Nat) : Arr := { x with transfer := some t, gap := gap }

/-- R211: the form codes of a feeder's micro-PC. -/
def FeederKind.num : FeederKind → Nat
  | .pop => 1 | .popt _ => 2 | .zero => 3 | .hold => 4 | .bcast => 5

/-- R211: the lane code of a feeder form. -/
def FeederKind.lane : FeederKind → Nat
  | .popt l => l.code
  | _ => 0

/-- R211: `FNPOS` or `FWPOS`. -/
def Feeder.pos (f : Feeder) : BitVec 32 :=
  match f.form with
  | none => f.next.setWidth 32
  | some m =>
    if m.left = 0 then f.next.setWidth 32
    else BitVec.ofNat 32 ((m.left - 1) * 2 ^ 28 + m.q.val * 2 ^ 24 + m.kind.num * 2 ^ 21
      + m.skew.code * 2 ^ 19 + m.kind.lane * 2 ^ 17 + (if m.stalled then 2 ^ 16 else 0) + f.next.toNat)

/-- R219: `EDGEPOS`. -/
def edgePos (e : Option EdgeForm) : BitVec 32 :=
  match e with
  | some (.merge q left st) =>
    BitVec.ofNat 32 ((if st then 2 ^ 31 else 0) + left % 128 * 2 ^ 24 + q.val * 2 ^ 20)
  | _ => 0

/-- R239: the mode of a stream as the forms of later slots and bundles find it: a bind that waits for pops has
already marked it binding. -/
def Arr.modeOf (x : Arr) (q : Fin 16) : StreamMode :=
  let bound := x.reposition.any fun e =>
    decide (e.q = q) && (match e.act with | .bind _ _ _ _ => true | .form _ => false)
  if bound then .binding else x.streams[q].mode

/-- R152, R237: the blocks buffered and not taken, as the forms committed before leave them. -/
def Arr.level (x : Arr) (q : Fin 16) : Nat :=
  let base := match x.streams[q].mode with
    | .bound | .exhausted => x.streams[q].buf.length
    | .unbound | .binding | .output => 0
  (x.reposition.filter fun e => decide (e.q = q)).foldl (fun n e =>
    match e.act with
    | .form (.adv k) => n - k
    | .form .rew => 0
    | .bind _ _ _ _ => 0) base

/-- R356: the lease a task holds. -/
def leaseOf (s : State) (tid : BitVec 32) : Option Lease := s.power.leases.find? fun l => l.tid = tid

/-- R330, R127: milliseconds left of a lease, rounded up. -/
def Lease.left (l : Lease) (now : Nat) : Nat := ceilDiv (l.start + l.ms * 1000000 - now) 1000000

/-- R127: `SPRST`. -/
def sprst (s : State) (x : Arr) : Word64 :=
  let r := if s.power.refreeze.isSome then 2 ^ 31 else 0
  match leaseOf s x.task with
  | none => w64 r
  | some l => w64 (r + l.level.toNat * 2 ^ 16 + l.left s.ptime % 2 ^ 14)

/-- R127: `LEAVEST`. -/
def leavest (x : Arr) : Word64 :=
  if x.leaveLeft = 0 then 0 else w64 (x.leaveClass.toNat * 2 ^ 20 + x.leaveLeft.toNat)

/-- R127: the value of a CSR that has the number; none where no CSR has it. `CLEASE` is read after the bundle's own
decrement (log entry 83: the model's choice). -/
def csrRead (s : State) (a : Fin 32) (c : BitVec 12) : Option Word64 :=
  let x := getA s a
  let r := x.snap
  match c.toNat with
  | 0x000 => some (r.nflg.setWidth 64)
  | 0x001 => some (r.nctl.setWidth 64)
  | 0x002 => some (r.dscl.setWidth 64)
  | 0x003 => some (r.dthr.setWidth 64)
  | 0x004 => some r.nseed
  | 0x005 => some r.nstep
  | 0x006 => some (r.orow.signExtend 64)
  | 0x007 => some (r.ocol.signExtend 64)
  | 0x008 => some r.rsw
  | 0x009 => some (if r.travel then 1 else 0)
  | 0x010 => some (w64 x.grpIdx)
  | 0x011 => some (w64 (members s a).length)
  | 0x012 => some (if x.kind = .chain then 1 else 0)
  | 0x013 => some (w64 a.val)
  | 0x014 => some (x.task.setWidth 64)
  | 0x015 => some (x.ctx.setWidth 64)
  | 0x020 => some (w64 x.acnt)
  | 0x021 => some (w64 x.fcnt)
  | 0x022 => some (w64 s.ptime)
  | 0x023 => some (s.power.melt.setWidth 64)
  | 0x024 => some (r.xpc.setWidth 64)
  | 0x025 => some (r.xnpc.setWidth 64)
  | 0x026 => some r.xsw
  | 0x028 => some (x.north.pos.setWidth 64)
  | 0x029 => some (x.west.pos.setWidth 64)
  | 0x02A => some (w64 (x.sorter.list.length % 256))
  | 0x02B => some ((edgePos x.edge).setWidth 64)
  | 0x030 => some (x.phNum.setWidth 64)
  | 0x031 => some (if x.phDirty then 1 else 0)
  | 0x032 => some (x.retIv.setWidth 64)
  | 0x033 => some (x.retLeft.setWidth 64)
  | 0x034 => some (x.clease.setWidth 64)
  | 0x035 => some (leavest x)
  | 0x036 => some (sprst s x)
  | 0x038 => some (w64 r.ret.length)
  | 0x040 => some ((vget r.l 0).count.setWidth 64)
  | 0x041 => some ((vget r.l 1).count.setWidth 64)
  | 0x042 => some ((vget r.l 2).count.setWidth 64)
  | 0x043 => some ((vget r.l 3).count.setWidth 64)
  | _ => none

/-- R127: whether a CSR may be written, in and outside handler mode. -/
def csrWritable (c : BitVec 12) (handler : Bool) : Bool :=
  decide (c.toNat ≤ 0x007) || (handler && decide (0x024 ≤ c.toNat ∧ c.toNat ≤ 0x026))

/-- R7, R76, R78, R127: write a CSR; reserved bits of `NFLG`, `NCTL` and `XSW` read as zero. -/
def SeqRegs.csrWrite (r : SeqRegs) (c : BitVec 12) (v : Word64) : SeqRegs :=
  match c.toNat with
  | 0x000 => { r with nflg := v.setWidth 32 &&& 0x7F#32 }
  | 0x001 => { r with nctl := v.setWidth 32 &&& 1#32 }
  | 0x002 => { r with dscl := v.setWidth 32 }
  | 0x003 => { r with dthr := v.setWidth 24 }
  | 0x004 => { r with nseed := v }
  | 0x005 => { r with nstep := v }
  | 0x006 => { r with orow := v.setWidth 32 }
  | 0x007 => { r with ocol := v.setWidth 32 }
  | 0x024 => { r with xpc := v.setWidth 48 }
  | 0x025 => { r with xnpc := v.setWidth 48 }
  | 0x026 => { r with xsw := v &&& 0xFFFFFFFFFFFFFF07#64 }
  | _ => r

/-- R127: a form that writes a CSR: the new value from the old one and `Sa`. -/
def csrUpdate (p : Fin 8) (a : Fin 32) (c : BitVec 12) (opcode : Nat) (f : Word64 → Word64 → Word64)
    (s : State) : State :=
  gated p s fun s => updCur s fun x =>
    if csrWritable c x.handler then
      let old := if c.toNat = 0 then x.regs.nflg.setWidth 64 else (csrRead s s.cur c).getD 0
      { x with regs := x.regs.csrWrite c (f old (x.rs a)) }
    else x.illegalFault 0 5 opcode

end Sys2Proof.Machine
end

