-- ==== Sys2Proof/Machine/Blocks.lean ====
section
/-! DEFINITION. What a sequencer's queues hold before an entry and what a read finds there (R253 to R255), where tongs
contexts and barrier objects stand (R154, R168, R291), and parameter blocks (R155, R158). -/

namespace Sys2Proof.Machine

/-! ### The entries before an entry (R254, R255) -/

/-- The entries that a sequencer committed before an entry. -/
def Arr.before' (x : Arr) (id : Nat) : List QEntry := x.queue.takeWhile fun e => e.id < id

/-- R298, R299: the bytes of the longest launch record. -/
def recordMax : Nat := 512 + 576 + 64 * 16 + 4 * 1024

/-- R255: the bytes of memory that an entry reads or writes: how many, and whether it writes. A `TLAUNCH` reads a record
whose length it carries itself; the longest one is counted. -/
def QOp.footprint : QOp → Option (Nat × Bool)
  | .strmDesc _ | .cpyBlock _ _ => some (64, false)
  | .launch => some (recordMax, false)
  | .load _ w => some (w.bytes, false)
  | .loadPair _ => some (16, false)
  | .store n _ => some (n, true)
  | .push _ full _ => if full then none else some (32, true)
  | .atomic _ _ four _ _ => some (if four then 4 else 8, true)
  | _ => none

/-- R255: where a byte of an object lies, as a number: its physical address, or its place on the package that homes
the object. -/
def placeOf (s : State) (ctx : BitVec 12) (obj : BitVec 24) (off : Nat) : Option Nat :=
  match objFind s ctx obj with
  | none => none
  | some e =>
    if e.homeKind = 1 then some (((e.homePkg + 1) * 2 ^ 24 + bits e.root 0 24) * 2 ^ 48 + off)
    else byteHome s ctx obj e off

/-- R255: whether `k` bytes at one offset of an object coincide with `n` bytes at another's, by object and offset or by
where they lie. Sixty-four aligned bytes lie together. -/
def bytesMeet (s : State) (ctx : BitVec 12) (o₁ : BitVec 24) (off₁ k : Nat) (o₂ : BitVec 24) (off₂ n : Nat) : Bool :=
  decide (o₁ = o₂ ∧ off₁ < off₂ + n ∧ off₂ < off₁ + k)
    || (decide (o₁ ≠ o₂) && (List.range (ceilDiv k 64)).any fun j =>
      match placeOf s ctx o₁ (off₁ + 64 * j), placeOf s ctx o₂ off₂ with
      | some p, some q => decide (p < q + n ∧ q < p + min 64 (k - 64 * j))
      | _, _ => false)

/-- R255: whether an entry of a sequencer's queues touches `n` bytes at an offset of an object. -/
def QEntry.meets (e : QEntry) (s : State) (a : Fin 32) (obj : BitVec 24) (off n : Nat) : Bool :=
  match e.op.footprint with
  | some (k, _) => bytesMeet s (getA s a).ctx e.cap.obj e.off k obj off n
  | none => false

/-- R255: whether an entry writes. -/
def QEntry.writes (e : QEntry) : Bool :=
  match e.op.footprint with
  | some (_, w) => w
  | none => false

/-- R254: what the store queue gives a load. -/
inductive Forward where
  /-- No store of the sequencer to the location is outstanding. -/
  | none
  | value (v : Nat) (poisoned : Bool)
  /-- The load waits for the store to be accepted. -/
  | wait
  deriving DecidableEq, Repr

/-- R254: what a read of `n` bytes at an object offset finds in a list of entries of the sequencer, none of its stores
among them accepted: the value of the latest store to the location. A read that the store does not hold whole, or through
another object, waits until the store is accepted. -/
def forwarded (s : State) (a : Fin 32) (l : List QEntry) (obj : BitVec 24) (off n : Nat) : Forward :=
  match (l.filter fun f => f.writes && f.meets s a obj off n).getLast? with
  | Option.none => .none
  | some f =>
    let cover (k v : Nat) (p : Bool) : Forward :=
      if f.cap.obj = obj ∧ f.off ≤ off ∧ off + n ≤ f.off + k then .value (bits v (8 * (off - f.off)) (8 * n)) p
      else .wait
    match f.op with
    | .store k d => cover k d.toNat false
    | .push _ _ (some b) => cover 32 b.bits.toNat b.poison
    | _ => .wait

/-- R254: what the store queue gives the read of an entry. -/
def forward (s : State) (a : Fin 32) (e : QEntry) (n : Nat) : Forward :=
  forwarded s a ((getA s a).before' e.id) e.cap.obj e.off n

/-- R161, R254: the kind of the block at an object offset as a read behind a list of entries of the sequencer would find
it now; none where that cannot be told yet: it lies under an atomic or a push to come, on a page that moves or in
poison. -/
def kindSeen (s : State) (a : Fin 32) (l : List QEntry) (obj : BitVec 24) (off : Nat) : Option Nat :=
  match forwarded s a l obj off 1 with
  | .value v p => if p then Option.none else some (bits v 0 4)
  | .wait => Option.none
  | .none =>
    match (readObj s (getA s a).ctx obj off 1 [Right.read]).2 with
    | .value v p => if p then Option.none else some (bits v 0 4)
    | .refused _ | .moved | .fail _ => Option.none

/-! ### Tongs contexts and barrier objects (R154, R168, R291) -/

/-- R154: the cluster and number within it of context `TCn` as array `a` names it; none where the task
owns no such context. -/
def tongsAt (s : State) (a : Fin 32) (n : Fin 16) : Option (Fin 8 × Nat) :=
  (memberAt s a (n.val % 4)).map fun b => (clusterOf b, 4 * (n.val / 4) + inCluster b)

/-- A tongs context by its place. -/
def tongsGet (s : State) (k : Fin 8 × Nat) : Tongs := vget s.clusters[k.1].tongs k.2

/-- R162: the commands committed to a context that have not been processed, in commit order. -/
def Tongs.pending (t : Tongs) (s : State) : List (Fin 32 × QEntry) :=
  t.order.filterMap fun p => ((getA s p.1).queue.find? fun e => e.id = p.2).map fun e => (p.1, e)

/-- R158, R162: whether each `CPY.GO` of a list of commands starts a copy, the context holding a block or not before them: a
RING block leaves what it holds, a malformed one clears it. A block whose kind cannot be told is taken for a copy's. -/
def goStarts (s : State) : Bool → List (Fin 32 × QEntry) → List Bool
  | _, [] => []
  | loaded, (a, e) :: l =>
    match e.op with
    | .cpyBlock _ _ =>
      match kindSeen s a ((getA s a).before' e.id) e.cap.obj e.off with
      | some k => goStarts s (if k = 4 then loaded else decide (1 ≤ k ∧ k ≤ 3)) l
      | none => goStarts s true l
    | .cpyGo _ => loaded :: goStarts s false l
    | _ => goStarts s loaded l

/-- R162: the `CPY.GO`s still to be processed, each with whether it starts a copy. -/
def Tongs.starts (t : Tongs) (s : State) : List Bool := goStarts s (t.block.isSome && !t.armed) (t.pending s)

/-- R162: a context is busy from the commit of the `CPY.GO` that starts a copy until that copy completes. -/
def Tongs.busy (t : Tongs) (s : State) : Bool := t.active.isSome || (t.starts s).any id

/-- R291: the cluster and physical number of logical barrier `b`; none where the placement does not map
it. -/
def barrierAt (s : State) (a : Fin 32) (b : BitVec 8) : Option (Fin 8 × Nat) :=
  if (getA s a).kind = .cluster then
    ((members s a)[b.toNat / 64]?).map fun m => (clusterOf m, 64 * inCluster m + b.toNat % 64)
  else if b.toNat < 64 then
    ((members s a).head?).map fun m => (clusterOf m, 64 * inCluster m + b.toNat)
  else none

/-! ### Parameter blocks (R155, R158) -/

/-- R155: a field of a parameter block. -/
def blockField (b : CopyBlock) (lo w : Nat) : Nat := bits b.bits.toNat lo w

/-- R155: the kind of a parameter block: 1 STRIDE2, 2 STRIDE3, 3 GATHER, 4 RING. -/
def CopyBlock.kind (b : CopyBlock) : Nat := blockField b 0 4
/-- R155: whether the byte count is posted to a barrier. -/
def CopyBlock.posts (b : CopyBlock) : Bool := b.bits.getLsbD 15
/-- R155. -/
def CopyBlock.barrier (b : CopyBlock) : BitVec 8 := BitVec.ofNat 8 (blockField b 16 8)
/-- R155: the source offset, or the ring offset. -/
def CopyBlock.fromOff (b : CopyBlock) : Nat := blockField b 64 48
/-- R155: the destination offset. -/
def CopyBlock.toOff (b : CopyBlock) : Nat := blockField b 128 48
/-- R155: the entries of a RING. -/
def CopyBlock.ringEntries (b : CopyBlock) : Nat := blockField b 128 13
/-- R155: the extent of dimension `k` of a STRIDE copy; dimension 0 in sectors. -/
def CopyBlock.extent (b : CopyBlock) (k : Nat) : Nat := blockField b (384 + 16 * k) 16 + 1
/-- R155: the source stride of dimension `k`. -/
def CopyBlock.fromStride (b : CopyBlock) (k : Nat) : Int := signed (b.bits.toNat / 2 ^ (192 + 64 * k)) 32
/-- R155: the destination stride of dimension `k`. -/
def CopyBlock.toStride (b : CopyBlock) (k : Nat) : Int := signed (b.bits.toNat / 2 ^ (224 + 64 * k)) 32
/-- R155: the bytes of a GATHER row. -/
def CopyBlock.rowBytes (b : CopyBlock) : Nat := blockField b 320 24
/-- R155: the offset of the GATHER index. -/
def CopyBlock.indexOff (b : CopyBlock) : Nat := blockField b 256 48
/-- R155: the rows of a GATHER. -/
def CopyBlock.rows (b : CopyBlock) : Nat := blockField b 192 24 + 1
/-- R155: GATHER goes on with zeros. -/
def CopyBlock.zeroes (b : CopyBlock) : Bool := b.bits.getLsbD 14

/-- R155: whether every field in a list of places (bit, width) of a block is zero. -/
def CopyBlock.clear (b : CopyBlock) (l : List (Nat × Nat)) : Bool :=
  l.all fun f => blockField b f.1 f.2 = 0

/-- R155: the strides of the dimensions below `n` are multiples of 32. -/
def CopyBlock.stridesOk (b : CopyBlock) (n : Nat) : Bool :=
  (List.range n).all fun k => decide (b.fromStride k % 32 = 0 ∧ b.toStride k % 32 = 0)

/-- R158: the ring of a RING block. -/
def CopyBlock.ringOk (b : CopyBlock) : Bool :=
  let e := b.ringEntries
  decide (e = 0) || ((List.range 13).any fun k => e = 2 ^ k)
    && b.src.valid && b.src.has Right.write && decide (b.fromOff + 64 * e ≤ b.src.len.toNat)

/-- R155, R158, R291: whether a block is well formed, on array `a` that owns the context. -/
def CopyBlock.ok (b : CopyBlock) (s : State) (a : Fin 32) : Bool :=
  b.clear [(176, 16), (112, 16), (28, 36)]
    && (!b.posts || (barrierAt s a b.barrier).isSome)
    && match b.kind with
      | 1 => b.clear [(24, 4), (14, 1), (320, 64), (416, 96)] && b.stridesOk 2
          && decide (b.fromOff % 32 = 0 ∧ b.toOff % 32 = 0)
      | 2 => b.clear [(24, 4), (14, 1), (432, 80)] && b.stridesOk 3
          && decide (b.fromOff % 32 = 0 ∧ b.toOff % 32 = 0)
      | 3 => b.clear [(344, 168), (304, 16), (216, 40)]
          && decide (b.rowBytes % 32 = 0 ∧ 32 ≤ b.rowBytes ∧ b.rowBytes ≤ 2 ^ 20)
          && decide (b.indexOff % 4 = 0 ∧ b.fromOff % 32 = 0 ∧ b.toOff % 32 = 0)
      | 4 => b.clear [(24, 4), (14, 1), (8, 4), (141, 35), (192, 320)]
          && decide (b.fromOff % 64 = 0) && b.ringOk
      | _ => false

/-- R155: a block with the capabilities that its register fields name. -/
def mkBlock (v : Nat) (cap : Nat → Cap) : CopyBlock :=
  ⟨BitVec.ofNat 512 v, cap (bits v 4 4), cap (bits v 8 4), cap (bits v 24 4)⟩

end Sys2Proof.Machine
end

