-- ==== Sys2Proof/Machine/Numbers.lean ====
section
/-! DEFINITION. Numbers (R70 to R103): exact values, the one rounding function, IEEE arithmetic on exact
values, the fixed approximations and the draw function. -/

namespace Sys2Proof.Machine

/-! ### Flags of `NFLG` (R76) -/

/-- R76. -/
def Flag.nv : BitVec 32 := 1#32
/-- R76. -/
def Flag.of : BitVec 32 := 2#32
/-- R76. -/
def Flag.uf : BitVec 32 := 4#32
/-- R76. -/
def Flag.nx : BitVec 32 := 8#32
/-- R76. -/
def Flag.sat : BitVec 32 := 16#32
/-- R76. -/
def Flag.aov : BitVec 32 := 32#32
/-- R76. -/
def Flag.dz : BitVec 32 := 64#32

/-! ### Exact values -/

/-- An exact value: NaN (signalling or not), an infinity, or (-1)^neg · m · 2^e. -/
inductive FVal where
  | nan (signalling : Bool)
  | inf (neg : Bool)
  | fin (neg : Bool) (m : Nat) (e : Int)
  deriving DecidableEq, Repr

/-- The parameters of a floating format (R71); `top` is the largest finite magnitude as its bits. -/
structure FloatFmt where
  man : Nat
  ebits : Nat
  bias : Nat
  top : Nat
  infs : Bool
  /-- R73: the canonical NaN, if the format has one. -/
  nan : Option Nat
  deriving DecidableEq, Repr

/-- R71, R73. -/
def fmtF32 : FloatFmt := ⟨23, 8, 127, 0x7F7FFFFF, true, some 0x7FC00000⟩
/-- R71, R73. -/
def fmtBf16 : FloatFmt := ⟨7, 8, 127, 0x7F7F, true, some 0x7FC0⟩
/-- R71, R73. -/
def fmtF16 : FloatFmt := ⟨10, 5, 15, 0x7BFF, true, some 0x7E00⟩
/-- R71, R73. -/
def fmtE4m3 : FloatFmt := ⟨3, 4, 7, 0x7E, false, some 0x7F⟩
/-- R71, R73. -/
def fmtE5m2 : FloatFmt := ⟨2, 5, 15, 0x7B, true, some 0x7E⟩
/-- R71. -/
def fmtE3m2 : FloatFmt := ⟨2, 3, 3, 0x1F, false, none⟩
/-- R71. -/
def fmtE2m3 : FloatFmt := ⟨3, 2, 1, 0x1F, false, none⟩
/-- R71. -/
def fmtE2m1 : FloatFmt := ⟨1, 2, 1, 0x7, false, none⟩
/-- R73, R84: binary128. -/
def fmtW128 : FloatFmt :=
  ⟨112, 15, 16383, 0x7FFEFFFFFFFFFFFFFFFFFFFFFFFFFFFF, true, some 0x7FFF8000000000000000000000000000⟩

/-- The exponent of the least significant bit of a subnormal. -/
def FloatFmt.emin (f : FloatFmt) : Int := 1 - (f.bias : Int) - (f.man : Int)

/-- The position of the sign bit. -/
def FloatFmt.sign (f : FloatFmt) : Nat := f.man + f.ebits

/-- R71, R73: the value of a bit pattern. -/
def FloatFmt.value (f : FloatFmt) (b : Nat) : FVal :=
  let neg := b / 2 ^ f.sign % 2 = 1
  let mag := b % 2 ^ f.sign
  let e := mag / 2 ^ f.man
  let m := mag % 2 ^ f.man
  if f.infs ∧ e = 2 ^ f.ebits - 1 then
    if m = 0 then .inf neg else .nan (decide (m / 2 ^ (f.man - 1) = 0))
  else if f.infs = false ∧ f.nan = some mag then .nan false
  else if e = 0 then .fin neg m f.emin
  else .fin neg (m + 2 ^ f.man) (f.emin + (e : Int) - 1)

/-- The exponent of the leading bit of m · 2^e. -/
def topExp (m : Nat) (e : Int) : Int := (Nat.log2 m : Int) + e

/-- R79, R80: round the magnitude m · 2^e to a multiple of 2^q: the multiple below, whether the value is
exact, and the multiple chosen. -/
def roundUnits (mode : Rnd) (neg : Bool) (u m : Nat) (e q : Int) : Nat × Bool :=
  if q ≤ e then (m * 2 ^ (e - q).toNat, true)
  else
    let sh := (q - e).toNat
    let lo := m / 2 ^ sh
    let rem := m % 2 ^ sh
    let up := match mode with
      | .rne => decide (2 ^ sh < 2 * rem) || (decide (2 * rem = 2 ^ sh) && decide (lo % 2 = 1))
      | .rtz => false
      | .rdn => neg
      | .rup => !neg
      | .sr => decide (u < rem * 2 ^ 24 / 2 ^ sh)
    if rem = 0 then (lo, true) else (if up then lo + 1 else lo, false)

/-- R81: what an overflow gives, as a magnitude and flags. -/
def overflowTo (f : FloatFmt) (mode : Rnd) (neg e4nan : Bool) : Nat × BitVec 32 :=
  let away := match mode with
    | .rne | .sr => true
    | .rtz => false
    | .rdn => neg
    | .rup => !neg
  if f.infs then
    (if away then (2 ^ f.ebits - 1) * 2 ^ f.man else f.top, Flag.of ||| Flag.nx)
  else match f.nan with
    | some n =>
      if e4nan then if away then (n, Flag.of ||| Flag.nx) else (f.top, Flag.nx)
      else (f.top, Flag.sat ||| Flag.nx)
    | none => (f.top, Flag.sat ||| Flag.nx)

/-- R79, R81, R83: round an exact value to a floating format; `u` is the draw of R80, `e4nan` the mode
of R78. -/
def FloatFmt.round (f : FloatFmt) (mode : Rnd) (u : Nat) (e4nan : Bool) (x : FVal) :
    Nat × BitVec 32 :=
  let sgn (neg : Bool) : Nat := if neg then 2 ^ f.sign else 0
  match x with
  | .nan s =>
    match f.nan with
    | some n => (n, if s then Flag.nv else 0)
    | none => (0, Flag.nv)
  | .inf neg =>
    if f.infs then (sgn neg + (2 ^ f.ebits - 1) * 2 ^ f.man, 0)
    else match f.nan with
      | some n => if e4nan then (sgn neg + n, Flag.of) else (sgn neg + f.top, Flag.sat)
      | none => (sgn neg + f.top, Flag.sat)
  | .fin neg m e =>
    if m = 0 then (sgn neg, 0)
    else
      let q := max f.emin (topExp m e - f.man)
      let r := roundUnits mode neg u m e q
      let mag := (q - f.emin).toNat * 2 ^ f.man + r.1
      if f.top < mag then
        let o := overflowTo f mode neg e4nan
        (sgn neg + o.1, o.2)
      else
        let tiny := decide (topExp m e < f.emin + f.man)
        (sgn neg + mag, if r.2 then 0 else if tiny then Flag.nx ||| Flag.uf else Flag.nx)

/-- R79, R83: round an exact value to an integer format of `w` bits. -/
def roundInt (w : Nat) (isSigned : Bool) (mode : Rnd) (u : Nat) (x : FVal) : Nat × BitVec 32 :=
  let lo : Int := if isSigned then -(2 ^ (w - 1) : Int) else 0
  let hi : Int := if isSigned then 2 ^ (w - 1) - 1 else 2 ^ w - 1
  match x with
  | .nan _ => (0, Flag.nv)
  | .inf neg => (wrap (if neg then lo else hi) w, Flag.nv)
  | .fin neg m e =>
    let r := roundUnits mode neg u m e 0
    let v : Int := if neg then -(r.1 : Int) else r.1
    let nx := if r.2 then 0 else Flag.nx
    if v < lo then (wrap lo w, Flag.sat ||| Flag.nx)
    else if hi < v then (wrap hi w, Flag.sat ||| Flag.nx)
    else (wrap v w, nx)

/-- R49, R71: the floating format of a format code. -/
def floatOf : Fmt → Option FloatFmt
  | .f32 => some fmtF32 | .bf16 => some fmtBf16 | .f16 => some fmtF16 | .e4m3 => some fmtE4m3
  | .e5m2 => some fmtE5m2 | .e3m2 => some fmtE3m2 | .e2m3 => some fmtE2m3 | .e2m1 => some fmtE2m1
  | .i8 | .z8 | .i4 | .i32 | .z32 => none

/-- R70, R74: the lane width of a format. -/
def fmtWidth : Fmt → Nat
  | .f32 => 32 | .bf16 => 16 | .f16 => 16 | .e4m3 => 8 | .e5m2 => 8 | .e3m2 => 8 | .e2m3 => 8
  | .e2m1 => 4 | .i8 => 8 | .z8 => 8 | .i4 => 4 | .i32 => 32 | .z32 => 32

/-- R74: whether an integer format is signed. -/
def fmtSigned : Fmt → Bool
  | .i8 | .i4 | .i32 => true
  | _ => false

/-- An integer as an exact value. -/
def ofInt (x : Int) : FVal := .fin (decide (x < 0)) x.natAbs 0

/-- R70, R71, R74: the value of a lane in a format; bits [7:6] of a 6-bit format are ignored. -/
def fmtValue (f : Fmt) (b : Nat) : FVal :=
  match floatOf f with
  | some g => g.value (b % 2 ^ (g.sign + 1))
  | none => ofInt (if fmtSigned f then signed b (fmtWidth f) else (b % 2 ^ fmtWidth f : Nat))

/-- R79, R83: round to a format code. -/
def roundTo (f : Fmt) (mode : Rnd) (u : Nat) (e4nan : Bool) (x : FVal) : Nat × BitVec 32 :=
  match floatOf f with
  | some g => g.round mode u e4nan x
  | none => roundInt (fmtWidth f) (fmtSigned f) mode u x

/-! ### Arithmetic on exact values (R82) -/

/-- m · 2^e with a sign, as an integer in units of 2^q. -/
def unitsOf (neg : Bool) (m : Nat) (e q : Int) : Int :=
  let v : Int := (m * 2 ^ (e - q).toNat : Nat)
  if neg then -v else v

/-- An exact sum; the flag is set for an invalid operation. -/
def FVal.add (x y : FVal) : FVal × Bool :=
  match x, y with
  | .nan a, .nan b => (.nan false, a || b)
  | .nan a, _ => (.nan false, a)
  | _, .nan b => (.nan false, b)
  | .inf a, .inf b => if a = b then (.inf a, false) else (.nan false, true)
  | .inf a, _ => (.inf a, false)
  | _, .inf b => (.inf b, false)
  | .fin a m e, .fin b n f =>
    let q := min e f
    let v := unitsOf a m e q + unitsOf b n f q
    if v = 0 then (.fin (a && b && decide (m = 0 ∧ n = 0)) 0 0, false)
    else (.fin (decide (v < 0)) v.natAbs q, false)

/-- An exact product; the flag is set for an invalid operation. -/
def FVal.mul (x y : FVal) : FVal × Bool :=
  match x, y with
  | .nan a, .nan b => (.nan false, a || b)
  | .nan a, _ => (.nan false, a)
  | _, .nan b => (.nan false, b)
  | .inf a, .inf b => (.inf (a != b), false)
  | .inf a, .fin b n _ => if n = 0 then (.nan false, true) else (.inf (a != b), false)
  | .fin a m _, .inf b => if m = 0 then (.nan false, true) else (.inf (a != b), false)
  | .fin a m e, .fin b n f => (.fin (a != b) (m * n) (e + f), false)

/-- The negated value. -/
def FVal.neg : FVal → FVal
  | .nan s => .nan s
  | .inf n => .inf (!n)
  | .fin n m e => .fin (!n) m e

/-- Whether a value is a NaN. -/
def FVal.isNan : FVal → Bool
  | .nan _ => true
  | _ => false

/-- Whether a value is a signalling NaN. -/
def FVal.isSnan : FVal → Bool
  | .nan s => s
  | _ => false

/-- A value's sign. -/
def FVal.negative : FVal → Bool
  | .nan _ => false
  | .inf n => n
  | .fin n _ _ => n

/-- x · y + z, exact. Zero times infinity plus a quiet NaN raises NV (log entry 81: the model's choice). -/
def FVal.fma (x y z : FVal) : FVal × Bool :=
  let p := x.mul y
  let r := p.1.add z
  (r.1, p.2 || r.2 || z.isSnan)

/-- Order of values that are no NaN, with -0 equal to +0: less than. -/
def FVal.lt (x y : FVal) : Bool :=
  match x, y with
  | .nan _, _ => false
  | _, .nan _ => false
  | .inf a, .inf b => a && !b
  | .inf a, .fin _ _ _ => a
  | .fin _ _ _, .inf b => !b
  | .fin a m e, .fin b n f =>
    let q := min e f
    decide (unitsOf a m e q < unitsOf b n f q)

/-- Equality of values that are no NaN, with -0 equal to +0. -/
def FVal.eqv (x y : FVal) : Bool := !x.isNan && !y.isNan && !x.lt y && !y.lt x

/-- R82: minimum or maximum of two patterns: the number when one is a NaN, and -0 below +0. -/
def pickMinMax (isMax : Bool) (x y : FVal) (bx by' nan : Nat) : Nat × BitVec 32 :=
  let nv := if x.isSnan || y.isSnan then Flag.nv else 0
  if x.isNan && y.isNan then (nan, nv)
  else if x.isNan then (by', nv)
  else if y.isNan then (bx, nv)
  else
    let less := x.lt y || (x.eqv y && x.negative && !y.negative)
    (if less != isMax then bx else by', nv)

/-- `rne32` on an exact value, as an exact value. -/
def rne32 (x : FVal) : FVal := fmtF32.value (fmtF32.round .rne 0 false x).1

/-- One FP32 `fma` of the sequences of R92. -/
def fma32 (a b c : FVal) : FVal := rne32 (a.fma b c).1

/-- One FP32 product. -/
def mul32 (a b : FVal) : FVal := rne32 (a.mul b).1

/-- One FP32 sum. -/
def add32 (a b : FVal) : FVal := rne32 (a.add b).1

/-- The value of an FP32 pattern. -/
def f32 (b : Nat) : FVal := fmtF32.value b

/-- n / d as an exact value for rounding: 80 bits of quotient with a sticky bit. -/
def divSticky (neg : Bool) (m : Nat) (e : Int) (n : Nat) (f : Int) : FVal :=
  let q := m * 2 ^ 80 / n
  let st := if m * 2 ^ 80 % n = 0 then 0 else 1
  .fin neg (2 * q + st) (e - f - 81)

/-- R94: IEEE FP32 division of finite values, the divisor not zero. -/
def div32 (x y : FVal) : FVal :=
  match x, y with
  | .fin a m e, .fin b n f => if n = 0 then .nan false else rne32 (divSticky (a != b) m e n f)
  | _, _ => .nan false

/-- ⌊√n⌋ by its bits, from bit `k - 1` down, given the part `r` found so far. -/
def isqrtFrom (n r : Nat) : Nat → Nat
  | 0 => r
  | k + 1 => isqrtFrom n (if (r + 2 ^ k) * (r + 2 ^ k) ≤ n then r + 2 ^ k else r) k

/-- R101: IEEE FP32 square root of a value that is not negative; a zero keeps its sign. -/
def sqrt32 (x : FVal) : FVal :=
  match x with
  | .fin g 0 _ => .fin g 0 0
  | .fin _ m e =>
    let sh : Nat := if e % 2 = 0 then 80 else 81
    let n := m * 2 ^ sh
    let r := isqrtFrom n 0 120
    let st := if r * r = n then 0 else 1
    rne32 (.fin false (2 * r + st) ((e - (sh : Int)) / 2 - 1))
  | v => v

/-- Scale by a power of two, exact. -/
def FVal.scale (x : FVal) (k : Int) : FVal :=
  match x with
  | .fin n m e => .fin n m (e + k)
  | v => v

/-- R92: the nearest integer, ties to even. -/
def rint (x : FVal) : Int :=
  match x with
  | .fin n m e => let r := (roundUnits .rne n 0 m e 0).1; if n then -(r : Int) else r
  | _ => 0

/-- R92: a polynomial by `fma`, the highest coefficient first. -/
def horner (cs : List Nat) (x : FVal) : FVal :=
  match cs with
  | [] => f32 0
  | c :: t => t.foldl (fun y k => fma32 y x (f32 k)) (f32 c)

/-- R92, R97: the final scaling, with its flags. -/
def finalScale (y : FVal) (k : Int) : Nat × BitVec 32 :=
  let r := fmtF32.round .rne 0 false (y.scale k)
  let mag := r.1 % 2 ^ 31
  (r.1, if 0x7F800000 ≤ mag then Flag.of else if mag < 0x00800000 then Flag.uf else 0)

/-- The normalised form of a positive magnitude: m in [1, 2) and its exponent. -/
def normalise (m : Nat) (e : Int) : FVal × Int :=
  (.fin false m (-(Nat.log2 m : Int)), topExp m e)

/-- R94, R97. -/
def exp2Lane (b : Nat) : Nat × BitVec 32 :=
  match f32 b with
  | .nan s => (0x7FC00000, if s then Flag.nv else 0)
  | .inf true => (0, 0)
  | .inf false => (0x7F800000, 0)
  | .fin n m e =>
    let x : FVal := .fin n m e
    if m = 0 then (0x3F800000, 0)
    else if !(x.lt (.fin false 128 0)) then (0x7F800000, Flag.of)
    else if x.lt (.fin true 150 0) then (0, Flag.uf)
    else
      let k := rint x
      let f := rne32 (x.add (ofInt (-k))).1
      finalScale (horner
        [0x39218462, 0x3AAEC3FF, 0x3C1D955B, 0x3D635847, 0x3E75FDF0, 0x3F317218, 0x3F800000] f) k

/-- R94: `log2f` of a finite positive value. -/
def log2f (x : FVal) : FVal :=
  match x with
  | .fin _ m e =>
    let mn := normalise m e
    let half := !(mn.1.lt (f32 0x3FB504F3))
    let mm := if half then mn.1.scale (-1) else mn.1
    let ee := if half then mn.2 + 1 else mn.2
    let one := f32 0x3F800000
    let t := div32 (rne32 (mm.add one.neg).1) (rne32 (mm.add one).1)
    let sq := mul32 t t
    let q := horner [0x3EA4259A, 0x3ED30BBB, 0x3F13BB5D, 0x3F76385F, 0x4038AA3B] sq
    fma32 t q (ofInt ee)
  | v => v

/-- The FP32 pattern of a value. -/
def pat32 (x : FVal) : Nat := (fmtF32.round .rne 0 false x).1

/-- R94, R97. -/
def log2Lane (b : Nat) : Nat × BitVec 32 :=
  match f32 b with
  | .nan s => (0x7FC00000, if s then Flag.nv else 0)
  | .inf true => (0x7FC00000, Flag.nv)
  | .inf false => (0x7F800000, 0)
  | .fin n m e =>
    if m = 0 then (0xFF800000, Flag.dz)
    else if n then (0x7FC00000, Flag.nv)
    else (pat32 (log2f (.fin n m e)), 0)

/-- Apply a step `n` times. -/
def iterate {α : Type} (f : α → α) (x : α) : Nat → α
  | 0 => x
  | n + 1 => iterate f (f x) n

/-- R95, R97. -/
def rcpLane (b : Nat) : Nat × BitVec 32 :=
  match f32 b with
  | .nan s => (0x7FC00000, if s then Flag.nv else 0)
  | .inf n => (if n then 0x80000000 else 0, 0)
  | .fin n m e =>
    if m = 0 then (if n then 0xFF800000 else 0x7F800000, Flag.dz)
    else
      let mn := normalise m e
      let one := f32 0x3F800000
      let y := fma32 (f32 0x3F000000).neg mn.1 (f32 0x3FC00000)
      let y := iterate (fun y => fma32 y (fma32 mn.1.neg y one) y) y 4
      finalScale (if n then y.neg else y) (-mn.2)

/-- R95, R97. -/
def rsqLane (b : Nat) : Nat × BitVec 32 :=
  match f32 b with
  | .nan s => (0x7FC00000, if s then Flag.nv else 0)
  | .inf n => if n then (0x7FC00000, Flag.nv) else (0, 0)
  | .fin n m e =>
    if m = 0 then (if n then 0xFF800000 else 0x7F800000, Flag.dz)
    else if n then (0x7FC00000, Flag.nv)
    else
      let mn := normalise m e
      let k := mn.2 / 2
      let mm := mn.1.scale (mn.2 - 2 * k)
      let y := fma32 (fma32 (f32 0x3D800000) mm (f32 0x3EF00000).neg) mm (f32 0x3FB40000)
      let h := mul32 (f32 0x3F000000) mm
      let y := iterate (fun y => mul32 y (fma32 h.neg (mul32 y y) (f32 0x3FC00000))) y 4
      (pat32 (y.scale (-k)), 0)

/-! ### Draws (R98 to R103) -/

/-- R98. -/
def draw (seed : Word64) (domain : Nat) (step : Word64) (ctr : Word64) : Word64 :=
  let m1 := 0x9C3A5F17E8D2B461#64
  let m2 := 0xE4B27A9D3C5F1183#64
  let m3 := 0x7D1F4E92A6C3B58F#64
  let key := seed ^^^ (w64 domain * m3) ^^^ (step * m2)
  let z := key + ctr * m1
  let z := (z ^^^ (z >>> 31)) * m2
  let z := (z ^^^ (z >>> 29)) * m3
  z ^^^ (z >>> 32)

/-- R80, R200, R201: an element counter from its row and column. -/
def counter (row col : Int) : Word64 := w64 (wrap row 32 * 2 ^ 32 + wrap col 32)

/-- R80: the 24-bit draw of a stochastic rounding. -/
def drawTop (z : Word64) : Nat := z.toNat / 2 ^ 40

/-- R100: the FP32 pattern of a uniform draw. -/
def uniformOf (z : Word64) : Nat := pat32 (.fin false (drawTop z) (-24))

/-- R96: a polynomial in w². -/
def cpoly (w : FVal) : FVal :=
  horner [0xB7D3692B, 0x3A70FA84, 0xBCAAE9E4, 0x3E81E0F8, 0xBF9DE9E6, 0x3F800000] (mul32 w w)

/-- R96. -/
def spoly (w : FVal) : FVal :=
  mul32 w (horner [0x39283C2A, 0xBB996966, 0x3DA335E3, 0xBF255DE7, 0x3FC90FDB] (mul32 w w))

/-- R96: for v = `k` · 2^-24. -/
def cos2pi (k : Nat) : FVal :=
  let qd := 4 * k / 2 ^ 24
  let wn := 4 * k % 2 ^ 24
  let w : FVal := .fin false wn (-24)
  let v : FVal := .fin false (2 ^ 24 - wn) (-24)
  let lowHalf := decide (2 * wn ≤ 2 ^ 24)
  let cw := if lowHalf then cpoly w else spoly v
  let sw := if lowHalf then spoly w else cpoly v
  match qd with
  | 0 => cw
  | 1 => sw.neg
  | 2 => cw.neg
  | _ => sw

/-- R101: the Gaussian value of a draw. -/
def gaussian (z : Word64) : FVal :=
  let ua : FVal := .fin false (drawTop z + 1) (-24)
  let lg := mul32 (log2f ua) (f32 0x3F317218)
  let t := (FVal.mul (.fin true 2 0) lg).1
  mul32 (sqrt32 t) (cos2pi (bits z.toNat 16 24))

/-- R101: a Gaussian pattern in FP32, BF16 or FP16. -/
def gaussianIn (f : FloatFmt) (z : Word64) : Nat := (f.round .rne 0 false (gaussian z)).1

/-- R103, R331: element `k` of the noise aperture. -/
def noiseElem (f : FloatFmt) (seed step : Word64) (k : Nat) : Nat :=
  gaussianIn f (draw seed 1 step (w64 k))

end Sys2Proof.Machine
end

