-- ==== Sys2Proof/Machine/Mem.lean ====
section
/-! DEFINITION. The meanings of the `MEM` forms (R135 to R178): the checks made at commit, and the entry
each leaves in its queue or engine. What the agents do later is in the event files. -/

namespace Sys2Proof.Machine

/-! ### Checks at commit (R135) -/

/-- R135: the first failing check of a capability: rights `need`, offset, size, alignment, and whether
the form may use a noise capability. -/
def capFail (c : Cap) (need : List Nat) (off : Word64) (size align : Nat) (noiseOk : Bool) :
    Option Nat :=
  if !c.valid then some 1
  else if !(need.all c.has) then some 2
  else if 2 ^ 48 ≤ off.toNat ∨ c.len.toNat < off.toNat + size then some 3
  else if (c.lower.toNat + off.toNat) % align ≠ 0 then some 4
  else if c.has Right.noise && !noiseOk then some 5
  else none

/-- The access a form makes through a capability register: the register, the offset, the rights, size,
alignment and whether a noise capability is permitted. -/
structure Access where
  h : Fin 16
  off : Word64
  need : List Nat
  size : Nat
  align : Nat
  noiseOk : Bool
  deriving DecidableEq, Repr

/-- R135: the object offset that an access names. -/
def Access.addr (m : Access) (x : Arr) : Nat := (x.rh m.h).lower.toNat + m.off.toNat

/-- R135: the subcause of the capability fault that an access raises, if any. -/
def Access.fail (m : Access) (x : Arr) : Option Nat :=
  capFail (x.rh m.h) m.need m.off m.size m.align m.noiseOk

/-- R135, R17: a `MEM` form through one capability: its checks, then its commit. -/
def memForm (p : Fin 8) (m : Arr → Access) (s : State) (commit : Access → State → State) : State :=
  gated p s fun s =>
    let a := m (curA s)
    match a.fail (curA s) with
    | some sub => updCur s fun x => x.capFault 2 sub a.h.val
    | none => commit a s

/-- R135: a granted number, or the `GRANT` fault. -/
def granted (ok : Bool) (s : State) (f : State → State) : State :=
  if ok then f s else updCur s fun x => x.capFault 2 6 0

/-- R44, R135: the offset of a form with an immediate. -/
def offset (x : Arr) (o : Fin 32) (imm : BitVec 5) (width : Nat) : Word64 :=
  x.rs o + w64 (imm.toNat * width)

/-- The entry of a form that goes through a capability. -/
def enqueueAt (a : Access) (op : Arr → QOp) (s : State) : State :=
  updCur s fun x => x.enqueue (op x) (x.rh a.h) (a.addr x)

/-! ### Loads and stores (R141 to R143) -/

/-- R143: the widths in which a noise load is permitted. -/
def Width.noiseOk : Width → Bool
  | .f16 | .i32 | .z32 => true
  | _ => false

/-- R143, R331: the value of a noise load at an object offset. -/
def noiseLoad (x : Arr) (w : Width) (addr : Nat) : Word64 :=
  let f := if w = .f16 then fmtBf16 else fmtF32
  w.extend (noiseElem f x.snap.nseed x.snap.nstep (addr / w.bytes))

/-- R141, R143. -/
def execLd (p : Fin 8) (d : Fin 32) (h : Fin 16) (o : Fin 32) (w : Width) (i : BitVec 5) (s : State) :
    Answer :=
  .next (memForm p (fun x => ⟨h, offset x o i w.bytes, [Right.read], w.bytes, w.bytes, Width.noiseOk w⟩) s
    fun a s => updCur (enqueueAt a (fun x =>
      if (x.rh h).has Right.noise then .noise d (noiseLoad x w (a.addr x)) else .load d w) s)
      fun x => x.setPending d)

/-- R141. -/
def execSt (p : Fin 8) (v : Fin 32) (h : Fin 16) (o : Fin 32) (w : Width) (i : BitVec 5) (s : State) :
    Answer :=
  .next (memForm p (fun x => ⟨h, offset x o i w.bytes, [Right.write], w.bytes, w.bytes, false⟩) s
    fun a => enqueueAt a fun x => .store w.bytes ((x.rs v).setWidth 128))

/-- R141: the register after an even one. -/
def pairOf (d : Fin 32) : Fin 32 := Fin.ofNat 32 (d.val + 1)

/-- R141. -/
def execLdp (p : Fin 8) (d : Fin 32) (h : Fin 16) (o : Fin 32) (i : BitVec 5) (s : State) : Answer :=
  .next (memForm p (fun x => ⟨h, offset x o i 16, [Right.read], 16, 16, false⟩) s
    fun a s => updCur (enqueueAt a (fun _ => .loadPair d) s)
      fun x => (x.setPending d).setPending (pairOf d))

/-- R141. -/
def execStp (p : Fin 8) (v : Fin 32) (h : Fin 16) (o : Fin 32) (i : BitVec 5) (s : State) : Answer :=
  .next (memForm p (fun x => ⟨h, offset x o i 16, [Right.write], 16, 16, false⟩) s
    fun a => enqueueAt a fun x => .store 16 (x.rs (pairOf v) ++ x.rs v))

/-- R147. -/
def execMark (p : Fin 8) (s : State) : Answer :=
  .next (gated p s fun s => updCur s fun x => x.enqueue .mark Cap.none 0)

/-- R112: the wider of two scopes. -/
def widerScope (a b : Scope) : Scope :=
  match a, b with
  | .dm, _ | _, .dm => .dm
  | .pk, _ | _, .pk => .pk
  | .cl, _ | _, .cl => .cl
  | .ar, .ar => .ar

/-- R112, R148. -/
def execFence (p : Fin 8) (sc : Scope) (s : State) : Answer :=
  .next (gated p s fun s => updCur s fun x => x.enqueue (.fence (widerScope sc x.scope)) Cap.none 0)

/-! ### Atomics and reductions (R144 to R146) -/

/-- R145: an `AMO` or `CAS`; `w` is the width bit, 8 bytes when it is set. -/
def amoForm (op : AtomOp) (p : Fin 8) (d : Fin 32) (h : Fin 16) (o v : Fin 32) (w : Bool) (s : State) :
    State :=
  let n := if w then 8 else 4
  memForm p (fun x => ⟨h, x.rs o, [Right.atomic], n, n, false⟩) s
    fun a s => updCur (enqueueAt a (fun x => .atomic (some d) op (!w) (x.rs v) (x.rs d)) s)
      fun x => (x.setPending d).dirty

/-- R146: a `RED`. -/
def redForm (op : AtomOp) (p : Fin 8) (h : Fin 16) (o v : Fin 32) (w : Bool) (s : State) : State :=
  let n := if w then 8 else 4
  memForm p (fun x => ⟨h, x.rs o, [Right.atomic], n, n, false⟩) s
    fun a s => updCur (enqueueAt a (fun x => .atomic none op (!w) (x.rs v) 0) s) Arr.dirty

/-- R145. -/
def execAmoAdd (p : Fin 8) (d : Fin 32) (h : Fin 16) (o v : Fin 32) (w : Bool) (s : State) : Answer :=
  .next (amoForm .add p d h o v w s)
/-- R145. -/
def execAmoAnd (p : Fin 8) (d : Fin 32) (h : Fin 16) (o v : Fin 32) (w : Bool) (s : State) : Answer :=
  .next (amoForm .and p d h o v w s)
/-- R145. -/
def execAmoOr (p : Fin 8) (d : Fin 32) (h : Fin 16) (o v : Fin 32) (w : Bool) (s : State) : Answer :=
  .next (amoForm .or p d h o v w s)
/-- R145. -/
def execAmoXor (p : Fin 8) (d : Fin 32) (h : Fin 16) (o v : Fin 32) (w : Bool) (s : State) : Answer :=
  .next (amoForm .xor p d h o v w s)
/-- R145. -/
def execAmoMin (p : Fin 8) (d : Fin 32) (h : Fin 16) (o v : Fin 32) (w : Bool) (s : State) : Answer :=
  .next (amoForm .min p d h o v w s)
/-- R145. -/
def execAmoMax (p : Fin 8) (d : Fin 32) (h : Fin 16) (o v : Fin 32) (w : Bool) (s : State) : Answer :=
  .next (amoForm .max p d h o v w s)
/-- R145. -/
def execAmoMinz (p : Fin 8) (d : Fin 32) (h : Fin 16) (o v : Fin 32) (w : Bool) (s : State) : Answer :=
  .next (amoForm .minz p d h o v w s)
/-- R145. -/
def execAmoMaxz (p : Fin 8) (d : Fin 32) (h : Fin 16) (o v : Fin 32) (w : Bool) (s : State) : Answer :=
  .next (amoForm .maxz p d h o v w s)
/-- R145. -/
def execAmoSwap (p : Fin 8) (d : Fin 32) (h : Fin 16) (o v : Fin 32) (w : Bool) (s : State) : Answer :=
  .next (amoForm .swap p d h o v w s)
/-- R145: compares with `Sd`, read at commit. -/
def execCas (p : Fin 8) (d : Fin 32) (h : Fin 16) (o v : Fin 32) (w : Bool) (s : State) : Answer :=
  .next (amoForm .cas p d h o v w s)
/-- R146. -/
def execRedAdd (p : Fin 8) (h : Fin 16) (o v : Fin 32) (w : Bool) (s : State) : Answer :=
  .next (redForm .add p h o v w s)
/-- R146. -/
def execRedAnd (p : Fin 8) (h : Fin 16) (o v : Fin 32) (w : Bool) (s : State) : Answer :=
  .next (redForm .and p h o v w s)
/-- R146. -/
def execRedOr (p : Fin 8) (h : Fin 16) (o v : Fin 32) (w : Bool) (s : State) : Answer :=
  .next (redForm .or p h o v w s)
/-- R146. -/
def execRedXor (p : Fin 8) (h : Fin 16) (o v : Fin 32) (w : Bool) (s : State) : Answer :=
  .next (redForm .xor p h o v w s)
/-- R146. -/
def execRedMin (p : Fin 8) (h : Fin 16) (o v : Fin 32) (w : Bool) (s : State) : Answer :=
  .next (redForm .min p h o v w s)
/-- R146. -/
def execRedMax (p : Fin 8) (h : Fin 16) (o v : Fin 32) (w : Bool) (s : State) : Answer :=
  .next (redForm .max p h o v w s)
/-- R146: FP32, 4 bytes. -/
def execRedFadd (p : Fin 8) (h : Fin 16) (o v : Fin 32) (s : State) : Answer :=
  .next (redForm .fadd p h o v false s)

/-! ### Streams (R149 to R152) -/

/-- Whether a form is a pop of stream `q` with beats left. -/
def FeederForm.popsFrom (m : FeederForm) (q : Fin 16) : Bool :=
  m.kind.pops && decide (m.q = q) && decide (0 < m.left)

/-- The pops of stream `q` with beats left on a feeder, those on their way included. -/
def Feeder.popsOf (f : Feeder) (q : Fin 16) : List FeederForm :=
  f.forms.filter fun m => m.popsFrom q

/-- The pops of stream `q` of an array with beats left. -/
def Arr.popsOf (x : Arr) (q : Fin 16) : List FeederForm := x.north.popsOf q ++ x.west.popsOf q

/-- R152, R237: enter a repositioning form; it takes effect once the pops before it have their blocks. -/
def Arr.repositionBy (x : Arr) (q : Fin 16) (r : Reposition) : Arr :=
  let holds := ((x.popsOf q).filter fun m => !m.stalled).map fun m => (m.owner, m.entry)
  { x with reposition := x.reposition ++ [⟨q, x.nextId, true, false, holds, r⟩] }

/-- R150: the capabilities' checks, in the order of R135 over both. -/
def bindFail (x : Arr) (h hd : Fin 16) (o : Word64) : Option (Nat × Nat) :=
  let c := capFail (x.rh h) [Right.read] o 64 64 false
  let d := x.rh hd
  let e : Option Nat :=
    if !d.valid then some 1
    else if !(d.has Right.stream && (d.has Right.read || d.has Right.noise)) then some 2
    else none
  match c, e with
  | some a, some b => if a ≤ b then some (a, h.val) else some (b, hd.val)
  | some a, none => some (a, h.val)
  | none, some b => some (b, hd.val)
  | none, none => none

/-- R150. Subcause 15 also where the pop that has beats to come is not stalled (log entry 87: the model's choice). -/
def execStrmBind (p : Fin 8) (q h : Fin 16) (o : Fin 32) (hd : Fin 16) (s : State) : Answer :=
  .next (gated p s fun s => updCur s fun x =>
    match bindFail x h hd (x.rs o) with
    | some (sub, reg) => x.capFault 2 sub reg
    | none =>
      if !(x.popsOf q).isEmpty then x.schedFault 2 15 q.val
      else
        let x := x.repositionBy q (.bind (x.rh hd) hd x.snap.nseed x.snap.nstep)
        x.enqueue (.strmDesc q) (x.rh h) ((x.rh h).lower.toNat + (x.rs o).toNat))

/-- R152: a repositioning form of a stream that is not unbound. -/
def repositionForm (p : Fin 8) (q : Fin 16) (f : Arr → HeldForm) (s : State) : State :=
  gated p s fun s => updCur s fun x =>
    if x.modeOf q = .unbound then x.schedFault 2 2 q.val else x.repositionBy q (.form (f x))

/-- R152. -/
def execStrmAdv (p : Fin 8) (q : Fin 16) (a : Fin 32) (s : State) : Answer :=
  .next (repositionForm p q (fun x => .adv (x.rs a).toNat) s)

/-- R152: the level at an instant between issue and landing, here issue; latency 2. -/
def execStrmLvl (p : Fin 8) (d : Fin 32) (q : Fin 16) (s : State) : Answer :=
  .next (gated p s fun s =>
    bump (updCur s fun x => x.pendWrite (.s d (w64 (x.level q))) (landingCycle s x 2)))

/-- R152. -/
def execStrmRew (p : Fin 8) (q : Fin 16) (s : State) : Answer :=
  .next (repositionForm p q (fun _ => .rew) s)

/-! ### Tongs (R154 to R164) -/

/-- R162: the shadow's move for a `CPY.SET`; none where it raises the schedule fault. -/
def Shadow.afterSet : Shadow → Option Shadow
  | .empty | .loaded => some .loaded
  | .armed => none

/-- R162: the shadow's move for a `CPY.GO`. -/
def Shadow.afterGo (busy : Bool) : Shadow → Option Shadow
  | .empty | .armed => none
  | .loaded => some (if busy then .armed else .empty)

/-- R162: the command that array `a` commits next joins the order of those to a context. -/
def Tongs.command (t : Tongs) (s : State) (a : Fin 32) : Tongs :=
  { t with order := (t.pending s).map (fun p => (p.1, p.2.id)) ++ [(a, (getA s a).nextId)] }

/-- R161, R162: a command to context `n`: `move` gives the shadow after it, none for a schedule fault. -/
def tongsForm (n : Fin 16) (s : State) (move : Tongs → Option Shadow) (commit : State → State) : State :=
  match tongsAt s s.cur n with
  | none => updCur s fun x => x.capFault 2 6 0
  | some k =>
    let t := tongsGet s k
    match move t with
    | none => updCur s fun x => x.schedFault 2 5 n.val
    | some sh => commit (putTongs s k.1 k.2 { t.command s s.cur with shadow := sh })

/-- R161: whether the block that a `CPY.SET` names is a copy block, so far as it can be told as the form commits (log entry
84). -/
def copyBlockSeen (s : State) (a : Access) : Bool :=
  let x := curA s
  match kindSeen s s.cur x.queue (x.rh a.h).obj (a.addr x) with
  | some k => decide (1 ≤ k ∧ k ≤ 3)
  | none => false

/-- R161, R162: on a scheduled context only a RING block may be set. -/
def execCpySet (p : Fin 8) (n h : Fin 16) (o : Fin 32) (s : State) : Answer :=
  .next (memForm p (fun x => ⟨h, x.rs o, [Right.read], 64, 64, false⟩) s fun a s =>
    tongsForm n s (fun t =>
      if t.schedule.isSome then if copyBlockSeen s a then none else some t.shadow else t.shadow.afterSet)
      (enqueueAt a fun x => .cpyBlock n x.snap.h))

/-- R162. -/
def execCpyGo (p : Fin 8) (n : Fin 16) (s : State) : Answer :=
  .next (gated p s fun s =>
    tongsForm n s
      (fun t => if t.schedule.isSome then none else t.shadow.afterGo (t.busy s))
      fun s => updCur s fun x => (x.enqueue (.cpyGo n) Cap.none 0).dirty)

/-- R161. -/
def execCpyStage (p : Fin 8) (n : Fin 16) (st : BitVec 6) (s : State) : Answer :=
  .next (gated p s fun s =>
    tongsForm n s (fun t => if t.schedule.isSome then some t.shadow else none)
      fun s => updCur s fun x => x.enqueue (.cpyStage n st.toNat) Cap.none 0)

/-- R164. -/
def execCpbinv (p : Fin 8) (i : BitVec 8) (s : State) : Answer :=
  .next (gated p s fun s => updCur s fun x => x.enqueue (.cpbinv i) Cap.none 0)

/-! ### Timelines (R165 to R167) -/

/-- R165: whether a timeline belongs to the task's group: `TC0` to `TC15`, then `SQ0` to `SQ3`. -/
def timelineOk (s : State) (a : Fin 32) (t : Fin 20) : Bool :=
  decide (t.val % 4 < (members s a).length)

/-- R166. -/
def execTlWait (p : Fin 8) (d : Fin 32) (t : Fin 20) (a : Fin 32) (s : State) : Answer :=
  .next (gated p s fun s => granted (timelineOk s s.cur t) s fun s =>
    updCur s fun x => (x.enqueue (.tlWait d t (x.rs a)) Cap.none 0).setPending d)

/-- R166. -/
def execTlRead (p : Fin 8) (d : Fin 32) (t : Fin 20) (s : State) : Answer :=
  .next (gated p s fun s => granted (timelineOk s s.cur t) s fun s =>
    updCur s fun x => (x.enqueue (.tlRead d t) Cap.none 0).setPending d)

/-- R167. -/
def execTlBump (p : Fin 8) (s : State) : Answer :=
  .next (gated p s fun s => updCur s fun x => (x.enqueue .tlBump Cap.none 0).dirty)

/-! ### Barriers (R168 to R173, R291) -/

/-- A barrier form that sets `PHDIRTY`. -/
def barForm (p : Fin 8) (b : BitVec 8) (f : BarForm) (v : Arr → Word64) (s : State) : State :=
  gated p s fun s => granted (barrierAt s s.cur b).isSome s fun s =>
    updCur s fun x =>
      if f = .init ∧ (v x = 0 ∨ 65536 < (v x).toNat) then x.schedFault 2 11 0
      else (x.enqueue (.bar f b (v x)) Cap.none 0).dirty

/-- R169: an expected count outside 1 to 65,536 raises the schedule fault. -/
def execBarInit (p : Fin 8) (a : Fin 32) (b : BitVec 8) (s : State) : Answer :=
  .next (barForm p b .init (fun x => x.rs a) s)

/-- R170. -/
def execBarArr (p : Fin 8) (b : BitVec 8) (s : State) : Answer := .next (barForm p b .arr (fun _ => 0) s)

/-- R170. -/
def execBarDrop (p : Fin 8) (b : BitVec 8) (s : State) : Answer :=
  .next (barForm p b .drop (fun _ => 0) s)

/-- R172. -/
def execBarXp (p : Fin 8) (a : Fin 32) (b : BitVec 8) (s : State) : Answer :=
  .next (barForm p b .xp (fun x => x.rs a) s)

/-- R173. -/
def execBarWait (p : Fin 8) (d : Fin 32) (b : BitVec 8) (s : State) : Answer :=
  .next (gated p s fun s => granted (barrierAt s s.cur b).isSome s fun s =>
    updCur s fun x => (x.enqueue (.barWait d b none) Cap.none 0).setPending d)

/-- R136, R173: `Pd` lands within 64 active cycles. -/
def execBarTest (p : Fin 8) (b : BitVec 8) (d : Fin 8) (s : State) : Answer :=
  .next (gated p s fun s => granted (barrierAt s s.cur b).isSome s fun s =>
    updCur s fun x => x.enqueue (.barTest b d (x.acnt + 64)) Cap.none 0)

/-! ### Events, launches, residency and roles (R174 to R178) -/

/-- R309, R311: whether the event table takes a signal of event `e`: it holds the name or has room. -/
def eventRoom (s : State) (ctx : BitVec 12) (e : BitVec 16) : Bool :=
  (s.events.any fun v => decide (v.ctx = ctx ∧ v.name = e)) || decide (s.events.length < 4096)

/-- R174, R311: with the table full the form raises resource exhaustion; the supervisor records the
signal and the task goes on. -/
def execEvSig (p : Fin 8) (e : BitVec 16) (s : State) : Answer :=
  .next (gated p s fun s => updCur s fun x =>
    if eventRoom s x.ctx e then (x.enqueue (.evSig e) Cap.none 0).dirty
    else
      { x with
        slotTrap := some ⟨.resource, e.setWidth 48, 3, 2, x.snap.pc, x.afterBundle.setWidth 48⟩
        run := .issuing 8 })

/-- R175. -/
def execTlaunch (p : Fin 8) (h : Fin 16) (o : Fin 32) (s : State) : Answer :=
  .next (memForm p (fun x => ⟨h, x.rs o, [Right.read], 64, 64, false⟩) s fun a s =>
    updCur (enqueueAt a (fun _ => .launch) s) Arr.dirty)

/-- R135, R136: `PROBE` needs the read or the write right. -/
def probeNeed (c : Cap) : List Nat := if c.has Right.write then [Right.write] else [Right.read]

/-- R136, R176: `Pd` lands within 2,048 active cycles. -/
def execProbe (p d : Fin 8) (h : Fin 16) (o l : Fin 32) (s : State) : Answer :=
  .next (memForm p (fun x => ⟨h, x.rs o, probeNeed (x.rh h), (x.rs l).toNat, 1, false⟩) s fun a s =>
    enqueueAt a (fun x => .probe d a.size (x.acnt + 2048)) s)

/-- R177. -/
def execUnpin (p : Fin 8) (h : Fin 16) (o l : Fin 32) (s : State) : Answer :=
  .next (memForm p (fun x => ⟨h, x.rs o, [Right.read], (x.rs l).toNat, 1, false⟩) s fun a =>
    enqueueAt a fun _ => .unpin a.size)

/-- R177. -/
def execPrefetch (p : Fin 8) (h : Fin 16) (o l : Fin 32) (s : State) : Answer :=
  .next (memForm p (fun x => ⟨h, x.rs o, [Right.read], (x.rs l).toNat, 1, false⟩) s fun a =>
    enqueueAt a fun _ => .prefetch a.size)

/-- R177. -/
def execEvict (p : Fin 8) (h : Fin 16) (o l : Fin 32) (s : State) : Answer :=
  .next (memForm p (fun x => ⟨h, x.rs o, [Right.read], (x.rs l).toNat, 1, false⟩) s fun a =>
    enqueueAt a fun _ => .evict a.size)

/-- R242: whether bank `n` of the cluster of array `a` is granted to its task. -/
def bankGranted (s : State) (a : Fin 32) (n : Fin 32) : Bool :=
  decide (16 ≤ n.val) && (members s a).any fun b =>
    decide (clusterOf b = clusterOf a ∧ inCluster b = n.val % 8 / 2)

/-- R178. -/
def execRole (p : Fin 8) (n : Fin 32) (r : Role) (v : View) (s : State) : Answer :=
  .next (gated p s fun s => granted (bankGranted s s.cur n) s fun s =>
    bump (updCur s fun x => (x.enqueue (.role n r v s.freeCtr) Cap.none 0).dirty))

end Sys2Proof.Machine
end

