-- ==== Sys2Proof/Machine/Feeder.lean ====
section
/-! DEFINITION. The meanings of the feeder forms (R206 to R212) and of the row selector's (R213). -/

namespace Sys2Proof.Machine

/-- R206: the rotation that stands for a form issued now, behind those on their way. -/
def Feeder.standing (f : Feeder) : BitVec 6 :=
  f.inbox.foldl (fun r e => match e.2 with | .skew k => k | .form _ | .tag _ => r) f.rot

/-- R206, R30: a form begins on cycle `now`. -/
def Feeder.begin (f : Feeder) (now base : Nat) (m : FeederForm) : Feeder :=
  { f.imply now base m with form := some m }

/-- R207, R206, R212: a form acts on a feeder on cycle `now`. -/
def Feeder.act (f : Feeder) (now base : Nat) : FeederCmd → Feeder
  | .form m => f.begin now base m
  | .tag n => { f with next := n, impliedNext := n }
  | .skew k => { f with rot := k }

/-- R34, R212: give a form to a feeder whose array is `d` cycles down the chain. -/
def Feeder.give (f : Feeder) (now d base : Nat) (c : FeederCmd) : Feeder :=
  if d = 0 then f.act now base c else { f with inbox := f.inbox ++ [(now + d, c)] }

/-- One of the two feeders of an array. -/
def Arr.feeder (x : Arr) (west : Bool) : Feeder := if west then x.west else x.north

/-- Put one of the two feeders of an array. -/
def Arr.setFeeder (x : Arr) (west : Bool) (f : Feeder) : Arr :=
  if west then { x with west := f } else { x with north := f }

/-- R212: the arrays whose feeder a slot's form acts on: the north feeder of the head only. -/
def feederTargets (s : State) (west : Bool) : List (Fin 32) := if west then tall s s.cur else [s.cur]

/-- The global row of row 0 of a feeder: rows count down a chain on the west side only. -/
def feederBase (x : Arr) (west : Bool) : Nat := if west then rowBase x else 0

/-- R212: a form acts on every feeder of its slot, each at its cycle. -/
def giveAll (s : State) (west : Bool) (c : FeederCmd) : State :=
  let now := (curA s).acnt
  updAll s (feederTargets s west) fun x =>
    x.setFeeder west ((x.feeder west).give now (linkDelay x) (feederBase x west) c)

/-- R210: the writes still pending of a feeder whose array is at base row `base`: those under way, those that the
schedule implies of the forms that have reached it, and those of the forms on their way. -/
def Feeder.pending (f : Feeder) (base : Nat) : List FeederWrite :=
  f.writes ++ f.impliedWrites ++ f.inbox.flatMap fun e => match e.2 with
    | .form m => impliedOf m base 0 e.1 m.left
    | .tag _ | .skew _ => []

/-- R210: whether the first beat of a form that acts on cycle `now` would write some register on or before the
cycle of a write still pending. -/
def Feeder.clash (f : Feeder) (now base : Nat) (m : FeederForm) : Bool :=
  (f.pending base).any fun w => decide (now + m.delay base w.x.val ≤ w.due)

/-- R209: the subcause of the schedule fault that a pop of stream `q` raises at issue. -/
def popFault (x : Arr) (q : Fin 16) : Option Nat :=
  match x.streams[q].mode with
  | .unbound => some 2
  | .output => some 15
  | .binding | .bound | .exhausted => none

/-- R210, R212: whether a form issued on cycle `now` clashes on the feeder of array `y`. -/
def Arr.clashes (y : Arr) (west : Bool) (now : Nat) (m : FeederForm) : Bool :=
  (y.feeder west).clash (now + linkDelay y) (feederBase y west) m

/-- R206 to R212, R236: a form that runs for beats. A pop enters the load queue, one entry for each
feeder. The rotation that stands at issue is bound to it. -/
def feederForm (west : Bool) (p : Fin 8) (kind : FeederKind) (q : Fin 16) (k : Skew) (beats : Nat)
    (s : State) : State :=
  gated p s fun s =>
    let slot := if west then 4 else 3
    let as := feederTargets s west
    let x := curA s
    let m : FeederForm := ⟨kind, q, k, 0, beats, false, s.cur, 0⟩
    match if kind.pops then (as.filterMap fun a => popFault (getA s a) q).head? else none with
    | some sub => updCur s fun x => x.schedFault slot sub q.val
    | none =>
      if as.any fun a => (getA s a).clashes west x.acnt m then
        updCur s fun x => x.schedFault slot 14 0
      else
        as.foldl (fun s a =>
          let e := (curA s).nextId
          let s := if kind.pops then updCur s fun x => x.enqueue (.pop a west) Cap.none 0 else s
          updA s a fun y => y.setFeeder west ((y.feeder west).give x.acnt (linkDelay y) (feederBase y west)
            (.form { m with entry := e, rot := (y.feeder west).standing }))) s

/-- R206. -/
def execFnPop (p : Fin 8) (q : Fin 16) (k : Skew) (n : Fin 16) (s : State) : Answer :=
  .next (feederForm false p .pop q k (n.val + 1) s)

/-- R208. -/
def execFnPopt (p : Fin 8) (q : Fin 16) (k : Skew) (l : LaneW) (n : Fin 16) (s : State) : Answer :=
  .next (feederForm false p (.popt l) q k (n.val + 1) s)

/-- R206. -/
def execFnZero (p : Fin 8) (n : Fin 16) (s : State) : Answer :=
  .next (feederForm false p .zero 0 .noskew (n.val + 1) s)

/-- R206, R207: one beat. -/
def execFnHold (p : Fin 8) (s : State) : Answer := .next (feederForm false p .hold 0 .noskew 1 s)

/-- R206. -/
def execFnBcast (p : Fin 8) (q n : Fin 16) (s : State) : Answer :=
  .next (feederForm false p .bcast q .noskew (n.val + 1) s)

/-- R207. -/
def execFnTag (p : Fin 8) (a : Fin 32) (s : State) : Answer :=
  .next (gated p s fun s => giveAll s false (.tag ((curA s).rs a |>.setWidth 16)))

/-- R206. -/
def execFnSkew (p : Fin 8) (k : BitVec 6) (s : State) : Answer :=
  .next (gated p s fun s => giveAll s false (.skew k))

/-- R206. -/
def execFwPop (p : Fin 8) (q : Fin 16) (k : Skew) (n : Fin 16) (s : State) : Answer :=
  .next (feederForm true p .pop q k (n.val + 1) s)

/-- R208. -/
def execFwPopt (p : Fin 8) (q : Fin 16) (k : Skew) (l : LaneW) (n : Fin 16) (s : State) : Answer :=
  .next (feederForm true p (.popt l) q k (n.val + 1) s)

/-- R206. -/
def execFwZero (p : Fin 8) (n : Fin 16) (s : State) : Answer :=
  .next (feederForm true p .zero 0 .noskew (n.val + 1) s)

/-- R206, R207: one beat. -/
def execFwHold (p : Fin 8) (s : State) : Answer := .next (feederForm true p .hold 0 .noskew 1 s)

/-- R206. -/
def execFwBcast (p : Fin 8) (q n : Fin 16) (s : State) : Answer :=
  .next (feederForm true p .bcast q .noskew (n.val + 1) s)

/-- R207. -/
def execFwTag (p : Fin 8) (a : Fin 32) (s : State) : Answer :=
  .next (gated p s fun s => giveAll s true (.tag ((curA s).rs a |>.setWidth 16)))

/-- R206. -/
def execFwSkew (p : Fin 8) (k : BitVec 6) (s : State) : Answer :=
  .next (gated p s fun s => giveAll s true (.skew k))

/-! ### The row selector (R213) -/

/-- R213: set the selector word, with its mode where the form gives one. -/
def selectorForm (p : Fin 8) (f : Arr → Word64 × Bool) (s : State) : State :=
  gated p s fun s => updCur s fun x =>
    { x with regs := { x.regs with rsw := (f x).1, travel := (f x).2 } }

/-- R213: `RS.SET` sets the mode too. -/
def execRsSet (p : Fin 8) (travel : Bool) (a : Fin 32) (s : State) : Answer :=
  .next (selectorForm p (fun x => (x.rs a, travel)) s)

/-- R213. -/
def execRsAll (p : Fin 8) (s : State) : Answer :=
  .next (selectorForm p (fun x => (0xFFFFFFFFFFFFFFFF#64, x.regs.travel)) s)

/-- R213. -/
def execRsNone (p : Fin 8) (s : State) : Answer := .next (selectorForm p (fun x => (0, x.regs.travel)) s)

/-- R213. -/
def execRsRow (p : Fin 8) (i : Fin 64) (s : State) : Answer :=
  .next (selectorForm p (fun x => (w64 (2 ^ i.val), x.regs.travel)) s)

/-- R213: rows `lo` to `hi`. -/
def execRsBand (p : Fin 8) (lo hi : Fin 64) (s : State) : Answer :=
  .next (selectorForm p (fun x => (w64 (2 ^ (hi.val + 1) - 2 ^ lo.val), x.regs.travel)) s)

end Sys2Proof.Machine
end

