-- ==== Sys2Proof/Machine/Lanes.lean ====
section
/-! DEFINITION. What the `WAVE` forms compute on the lanes of registers and on tiles (R70 to R91, R184 to
R205), each with the flags it raises. -/

namespace Sys2Proof.Machine

/-! ### Lanes -/

/-- R179: the lane width of an element code. -/
def elemWidth : Elem → Nat
  | .f32 | .i32 | .z32 => 32
  | .bf16 | .f16 => 16
  | .i8 | .z8 => 8
  | .i4 => 4

/-- R179: the number of lanes. -/
def elemLanes (e : Elem) : Nat := 256 / elemWidth e

/-- The floating format of an element code. -/
def elemFloat : Elem → Option FloatFmt
  | .f32 => some fmtF32 | .bf16 => some fmtBf16 | .f16 => some fmtF16
  | .i32 | .z32 | .i8 | .z8 | .i4 => none

/-- R185: whether an integer element code is signed. -/
def elemSigned : Elem → Bool
  | .i32 | .i8 | .i4 => true
  | .f32 | .bf16 | .f16 | .z32 | .z8 => false

/-- The integer of a lane of an integer element code. -/
def elemInt (e : Elem) (b : Nat) : Int :=
  if elemSigned e then signed b (elemWidth e) else (b % 2 ^ elemWidth e : Nat)

/-- The exact value of a lane. -/
def elemValue (e : Elem) (b : Nat) : FVal :=
  match elemFloat e with
  | some f => f.value b
  | none => ofInt (elemInt e b)

/-- Lane results and the flags they raise, as a register and the flags of all. -/
def mapLanes (w n : Nat) (f : Nat → Nat × BitVec 32) : Reg256 × BitVec 32 :=
  let rs := (List.range n).map f
  (BitVec.ofNat 256 (packLanes w (rs.map (·.1))), rs.foldl (fun a r => a ||| r.2) 0)

/-- An exact result with its invalid flag, rounded once, RNE (R82). -/
def roundLane (f : FloatFmt) (x : FVal × Bool) : Nat × BitVec 32 :=
  let r := f.round .rne 0 false x.1
  (r.1, r.2 ||| (if x.2 then Flag.nv else 0))

/-! ### Element arithmetic (R184 to R188) -/

/-- R184: a lane of `MOVI`. -/
def moviLane (e : Elem) (i : BitVec 10) : Nat :=
  match elemFloat e with
  | some f => i.toNat * 2 ^ (f.sign + 1 - 10)
  | none => wrap i.toInt (elemWidth e)

/-- R185: the operations of element arithmetic. -/
inductive Arith where
  | add | sub | mul | fma | min | max
  deriving DecidableEq, Repr

/-- R82, R185: one lane; `z` is the addend of `FMA`. -/
def arithLane (op : Arith) (e : Elem) (x y z : Nat) : Nat × BitVec 32 :=
  match elemFloat e with
  | some f =>
    let a := f.value x
    let b := f.value y
    match op with
    | .add => roundLane f (a.add b)
    | .sub => roundLane f (a.add b.neg)
    | .mul => roundLane f (a.mul b)
    | .fma => roundLane f (a.fma b (f.value z))
    | .min => pickMinMax false a b x y (f.nan.getD 0)
    | .max => pickMinMax true a b x y (f.nan.getD 0)
  | none =>
    let a := elemInt e x
    let b := elemInt e y
    let r : Int := match op with
      | .add => a + b
      | .sub => a - b
      | .mul => a * b
      | .fma => a * b + elemInt e z
      | .min => if b < a then b else a
      | .max => if a < b then b else a
    (wrap r (elemWidth e), 0)

/-- R185: all lanes. -/
def arith (op : Arith) (e : Elem) (a b z : Reg256) : Reg256 × BitVec 32 :=
  let w := elemWidth e
  mapLanes w (elemLanes e) fun l => arithLane op e (lane a w l) (lane b w l) (lane z w l)

/-- R186: `ABS` or `NEG` of one lane. -/
def signLane (neg : Bool) (e : Elem) (x : Nat) : Nat × BitVec 32 :=
  match elemFloat e with
  | some f =>
    match f.value x with
    | .nan s => (f.nan.getD 0, if s then Flag.nv else 0)
    | _ =>
      let mag := x % 2 ^ f.sign
      (if neg ∧ x / 2 ^ f.sign % 2 = 0 then mag + 2 ^ f.sign else mag, 0)
  | none =>
    let a := elemInt e x
    (wrap (if neg then -a else if a < 0 then -a else a) (elemWidth e), 0)

/-- R187: the shifts. -/
inductive ShiftOp where
  | shl | shr | sar
  deriving DecidableEq, Repr

/-- R187: one lane of a shift. -/
def shiftLane (op : ShiftOp) (w x n : Nat) : Nat :=
  match op with
  | .shl => if w ≤ n then 0 else x * 2 ^ n % 2 ^ w
  | .shr => if w ≤ n then 0 else x / 2 ^ n
  | .sar => wrap (signed x w / 2 ^ (if w ≤ n then w else n)) w

/-- R51, R188: a comparison of two lanes, with `NV`. -/
def cmpLane (cc : CellCc) (e : Elem) (x y : Nat) : Bool × BitVec 32 :=
  let a := elemValue e x
  let b := elemValue e y
  let ordered := match cc with
    | .eq | .ne => false
    | .lt | .le | .gt | .ge => true
  let nan := a.isNan || b.isNan
  let nv := a.isSnan || b.isSnan || (nan && ordered)
  let r := if nan then decide (cc = .ne) else match cc with
    | .eq => a.eqv b
    | .ne => !a.eqv b
    | .lt => a.lt b
    | .le => !b.lt a
    | .gt => b.lt a
    | .ge => !a.lt b
  (r, if nv then Flag.nv else 0)

/-- R188: the comparisons of all lanes. -/
def cmpLanes (cc : CellCc) (e : Elem) (a b : Reg256) : List (Bool × BitVec 32) :=
  let w := elemWidth e
  (List.range (elemLanes e)).map fun l => cmpLane cc e (lane a w l) (lane b w l)

/-- The flags of a list of lane results. -/
def orFlags {α : Type} (l : List (α × BitVec 32)) : BitVec 32 := l.foldl (fun a r => a ||| r.2) 0

/-! ### Conversion and rearrangement (R189, R190, R198) -/

/-- R189: `CVT`; `u` gives the draw of element `e`. -/
def convert (dst src : Fmt) (r : Rnd) (e4nan : Bool) (u : Nat → Nat) (a : Reg256) :
    Reg256 × BitVec 32 :=
  let ws := fmtWidth src
  let wd := fmtWidth dst
  mapLanes wd (256 / max ws wd) fun e => roundTo dst r (u e) e4nan (fmtValue src (lane a ws e))

/-- R190. -/
def packRegs (w : Nat) (a b : Reg256) : Reg256 :=
  let m := 128 / w
  lanesOf w (2 * m) fun l => if l < m then lane a (2 * w) l else lane b (2 * w) (l - m)

/-- R190. -/
def unpack (w : Nat) (hi : Bool) (a : Reg256) : Reg256 :=
  let m := 128 / w
  lanesOf (2 * w) m fun l => lane a w (if hi then m + l else l)

/-- R198. -/
def permute (w : Nat) (a b : Reg256) : Reg256 :=
  lanesOf w (256 / w) fun l => lane a w (lane b w l % (256 / w))

/-- R198: lane 4 c + r takes lane r · (L/4) + c. -/
def transpose4 (w : Nat) (a : Reg256) : Reg256 :=
  let q := 256 / w / 4
  lanesOf w (256 / w) fun l => lane a w (l % 4 * q + l / 4)

/-- R198: the patterns of `SHUF`. -/
def shuffle (pat : Fin 8) (a b : Reg256) : Reg256 :=
  let pick (w n : Nat) (f : Nat → Nat) : Reg256 := lanesOf w n f
  match pat.val with
  | 0 => pick 128 2 fun l => if l = 0 then lane a 128 0 else lane b 128 0
  | 1 => pick 128 2 fun l => if l = 0 then lane a 128 1 else lane b 128 1
  | 2 => pick 64 4 fun l => if l % 2 = 0 then lane a 64 (l / 2) else lane b 64 (l / 2)
  | 3 => pick 64 4 fun l => if l % 2 = 0 then lane a 64 (2 + l / 2) else lane b 64 (2 + l / 2)
  | 4 => pick 32 8 fun l => if l % 2 = 0 then lane a 32 (l / 2) else lane b 32 (l / 2)
  | 5 => pick 32 8 fun l => if l % 2 = 0 then lane a 32 (4 + l / 2) else lane b 32 (4 + l / 2)
  | 6 => pick 128 2 fun l => lane a 128 (1 - l)
  | _ => pick 32 8 fun l => lane a 32 (7 - l)

/-- R199: an approximation on the 8 FP32 lanes. -/
def approx (f : Nat → Nat × BitVec 32) (a : Reg256) : Reg256 × BitVec 32 :=
  mapLanes 32 8 fun l => f (lane a 32 l)

/-! ### Reductions and touchmarks (R202 to R205) -/

/-- An exact sum of values with an invalid flag; the first value alone is itself. -/
def sumValues : List FVal → FVal × Bool
  | [] => (.fin false 0 0, false)
  | v :: t => t.foldl (fun a x => let r := a.1.add x; (r.1, a.2 || r.2)) (v, v.isSnan)

/-- R202, R203: a sum rounded into 32 bits. -/
def sum32 (e : Elem) (vs : List (FVal × Bool)) : Nat × BitVec 32 :=
  match elemFloat e with
  | some _ =>
    let r := sumValues (vs.map (·.1))
    roundLane fmtF32 (r.1, r.2 || vs.any (·.2))
  | none =>
    match (sumValues (vs.map (·.1))).1 with
    | .fin n m x => (wrap (unitsOf n m x 0) 32, 0)
    | _ => (0, 0)

/-- R202: lanes 1 to 7 of `d` are kept. -/
def dotReg (e : Elem) (d a b : Reg256) : Reg256 × BitVec 32 :=
  let w := elemWidth e
  let r := sum32 e ((List.range (elemLanes e)).map fun l =>
    (elemValue e (lane a w l)).mul (elemValue e (lane b w l)))
  (lanesOf 32 8 fun l => if l = 0 then r.1 else lane d 32 l, r.2)

/-- R203. -/
def sumReg (e : Elem) (a : Reg256) : Reg256 × BitVec 32 :=
  let w := elemWidth e
  let r := sum32 e ((List.range (elemLanes e)).map fun l => (elemValue e (lane a w l), false))
  (BitVec.ofNat 256 r.1, r.2)

/-- R204. -/
def prefixReg (e : Elem) (a b : Reg256) : Reg256 × BitVec 32 :=
  let w := elemWidth e
  let n := elemLanes e
  let v (r : Reg256) (l : Nat) : FVal := elemValue e (lane r w l)
  mapLanes w n fun l =>
    let s := sumValues (v b (n - 1) :: (List.range (l + 1)).map (v a))
    match elemFloat e with
    | some f => roundLane f s
    | none => match s.1 with
      | .fin g m x => (wrap (unitsOf g m x 0) w, 0)
      | _ => (0, 0)

/-- R205: lane width and signedness of a class. -/
def tmkLane : TmkClass → Nat × Bool
  | .i4 => (4, true) | .i8 => (8, true) | .z8 => (8, false) | .i32 => (32, true)
  | .z32 => (32, false) | .h16 => (16, false) | .fp8 => (8, false) | .e2m1 => (4, false)

/-- R205. -/
def tmkReg (k : TmkClass) (a b : Reg256) : Reg256 :=
  let w := (tmkLane k).1
  let n := 256 / w
  let v (l : Nat) : Nat :=
    let x : Int := if (tmkLane k).2 then signed (lane a w l) w else (lane a w l : Nat)
    (x % (markPrime : Int)).toNat
  let j0 := lane b 32 2
  let s0 := ((List.range n).map v).foldl (fun x y => x + y) (lane b 32 0)
  let s1 := ((List.range n).map fun l => (j0 + l + 1) * v l).foldl (fun x y => x + y) (lane b 32 1)
  BitVec.ofNat 256 (packLanes 32 [s0 % markPrime, s1 % markPrime, (j0 + n) % 2 ^ 32])

/-! ### Tiles (R84 to R91, R191 to R195) -/

/-- R85: whether a format's `MMA` needs a W128 tile. -/
def fmtW128Tile : Fmt → Bool
  | .f32 | .bf16 | .f16 => true
  | .e4m3 | .e5m2 | .e3m2 | .e2m3 | .e2m1 | .i8 | .z8 | .i4 | .i32 | .z32 => false

/-- R84: the value of an entry; X128 zero is +0. -/
def entryValue (w128 : Bool) (b : Word128) : FVal :=
  if w128 then fmtW128.value b.toNat
  else .fin (decide (b.toInt < 0)) b.toInt.natAbs (-48)

/-- R86, R90: an entry converted to W128. -/
def toW128 (b : Word128) : Word128 × Bool × BitVec 32 :=
  let r := fmtW128.round .rne 0 false (entryValue false b)
  (BitVec.ofNat 128 r.1, false, r.2 &&& Flag.nx)

/-- R76, R90: an entry converted to X128, whether it was clamped, NaN or infinite, and `NX`, which a clamped entry sets
too: its result differs from its exact value. -/
def toX128 (b : Word128) : Word128 × Bool × BitVec 32 :=
  match entryValue true b with
  | .nan _ => (0, true, 0)
  | .inf _ => (0, true, 0)
  | .fin n m e =>
    let r := roundUnits .rne n 0 m e (-48)
    let v : Int := if n then -(r.1 : Int) else r.1
    if v < -(2 ^ 127) then (BitVec.ofInt 128 (-(2 ^ 127)), true, Flag.nx)
    else if 2 ^ 127 - 1 < v then (BitVec.ofInt 128 (2 ^ 127 - 1), true, Flag.nx)
    else (BitVec.ofInt 128 v, false, if r.2 then 0 else Flag.nx)

/-- R90: a tile in the mode an operation needs. -/
def Tile.inMode (t : Tile) (w128 : Bool) : Tile × BitVec 32 :=
  if t.w128 = w128 then (t, 0)
  else
    let rs := t.entries.toList.map (if w128 then toW128 else toX128)
    let entries : Vector Word128 16 := Vector.ofFn fun k => ((rs[k.val]?).map (·.1)).getD 0
    ({ t with entries := entries, w128 := w128, overflow := t.overflow || rs.any (·.2.1) },
      rs.foldl (fun a r => a ||| r.2.2) 0)

/-- R191: elements of a fragment for each row or column. -/
def fragK (f : Fmt) : Nat := 64 / fmtWidth f

/-- R191: element `kk` of row (column) `r` of a fragment. -/
def fragAt (f : Fmt) (x : Reg256) (r kk : Nat) : FVal := fmtValue f (lane x (fmtWidth f) (r * fragK f + kk))

/-- R87: entry (r, c) of an X128 tile after a beat: the entry, whether it overflows, and flags. -/
def macX (f : Fmt) (a b : Reg256) (r c : Nat) (old : Word128) : Word128 × Bool × BitVec 32 :=
  let ks := List.range (fragK f)
  let bad := ks.any fun kk => match fragAt f a r kk, fragAt f b c kk with
    | .fin _ _ _, .fin _ _ _ => false
    | _, _ => true
  if bad then (old, true, Flag.nv)
  else
    match (sumValues (ks.map fun kk => ((fragAt f a r kk).mul (fragAt f b c kk)).1)).1 with
    | .fin n m e =>
      let t := old.toInt + unitsOf n m e (-48)
      (BitVec.ofInt 128 t, decide (t < -(2 ^ 127) ∨ 2 ^ 127 - 1 < t), 0)
    | _ => (old, true, Flag.nv)

/-- R86: `rne128` of an exact value with its invalid flag. -/
def round128 (x : FVal × Bool) : Word128 × BitVec 32 :=
  let r := roundLane fmtW128 x
  (BitVec.ofNat 128 r.1, r.2)

/-- R87: entry (r, c) of a W128 tile after a beat. -/
def macW (f : Fmt) (a b : Reg256) (r c : Nat) (old : Word128) : Word128 × Bool × BitVec 32 :=
  let z := (List.range (fragK f)).foldl (fun (acc : Word128 × BitVec 32) kk =>
    let q := round128 ((fragAt f a r kk).fma (fragAt f b c kk) (entryValue true acc.1))
    (q.1, acc.2 ||| q.2)) (old, 0)
  (z.1, false, z.2)

/-- Change every entry of a tile by a function of its row, its column and itself. -/
def Tile.mapEntries (t : Tile) (f : Nat → Nat → Word128 → Word128 × Bool × BitVec 32) :
    Tile × BitVec 32 :=
  let rs := (List.finRange 16).map fun k => f (k.val / 4) (k.val % 4) t.entries[k]
  let entries : Vector Word128 16 := Vector.ofFn fun k => ((rs[k.val]?).map (·.1)).getD 0
  ({ t with entries := entries, overflow := t.overflow || rs.any (·.2.1) },
    rs.foldl (fun a r => a ||| r.2.2) 0)

/-- R87: one beat of `MMA` on a tile in the mode its format needs. -/
def Tile.mac (t : Tile) (f : Fmt) (a b : Reg256) : Tile × BitVec 32 :=
  t.mapEntries (if fmtW128Tile f then macW f a b else macX f a b)

/-- R88: the products of one entry over the fragments of a block. -/
def blockProducts (f : Fmt) (frags : List (Reg256 × Reg256)) (r c : Nat) : List (FVal × Bool) :=
  frags.flatMap fun p =>
    (List.range (fragK f)).map fun kk => (fragAt f p.1 r kk).mul (fragAt f p.2 c kk)

/-- R75: the exponent of an E8M0 product, none when a scale is NaN. -/
def scaleExp (xa xb : Nat) : Option Int :=
  if xa = 255 ∨ xb = 255 then none else some ((xa : Int) + xb - 254)

/-- R88, R193: add a block with its scales to a W128 tile. -/
def Tile.addBlock (t : Tile) (f : Fmt) (blk : Nat) (scales : Reg256) (frags : List (Reg256 × Reg256)) :
    Tile × BitVec 32 :=
  t.mapEntries fun r c old =>
    let ps := blockProducts f frags r c
    let s := sumValues (ps.map (·.1))
    let bad := s.2 || ps.any (·.2)
    let k := scaleExp (lane scales 8 (8 * (blk % 4) + r)) (lane scales 8 (8 * (blk % 4) + 4 + c))
    let term : FVal × Bool := match k with
      | none => (.nan false, true)
      | some e => (s.1.scale e, bad)
    let q := (entryValue true old).add term.1
    let z := round128 (q.1, q.2 || term.2)
    (z.1, false, z.2)

/-- R194: the format of a residual lane. -/
def residualFmt : Fmt → Fmt
  | .f32 => .f32 | .i32 => .i32 | .z32 => .z32 | .f16 => .f16
  | .bf16 | .e4m3 | .e5m2 | .e3m2 | .e2m3 | .e2m1 | .i8 | .z8 | .i4 => .bf16

/-- R89: what an entry of an overflowed tile drains as, by the sign of the stored entry. -/
def overflowed (f : Fmt) (neg : Bool) : Nat :=
  match floatOf f with
  | some g =>
    match g.nan with
    | some n => n
    | none => g.top + (if neg then 2 ^ g.sign else 0)
  | none =>
    let w := fmtWidth f
    if fmtSigned f then (if neg then 2 ^ (w - 1) else 2 ^ (w - 1) - 1)
    else if neg then 0 else 2 ^ w - 1

/-- R91: what a drain applies to an entry. -/
structure DrainOpts where
  fmt : Fmt
  rnd : Rnd
  scale : Option (BitVec 32)
  drop : Bool
  residual : Option Reg256
  e4nan : Bool
  deriving DecidableEq, Repr

/-- R91: drain one entry into lane `l`; `z2` and `z4` are its dropout and rounding draws, `dthr` the
threshold. A dropped entry that holds a signalling NaN, with no SCALE, is replaced before any operation and still sets NV, as
R76 has it of what is consumed (DESIGN CHOICE, log entry 114). -/
def drainEntry (o : DrainOpts) (t : Tile) (e l : Nat) (z2 z4 : Word64) (dthr : BitVec 24) :
    Nat × BitVec 32 :=
  let raw := (t.entries.toList[e]?).getD 0
  if t.overflow then (overflowed o.fmt (raw.toInt < 0), Flag.aov)
  else
    let v := entryValue t.w128 raw
    let v : FVal × Bool := match o.scale with
      | some k => v.mul (f32 k.toNat)
      | none => (v, v.isSnan)
    let v : FVal × Bool := if o.drop ∧ drawTop z2 < dthr.toNat then (.fin false 0 0, v.2) else v
    let v : FVal × Bool := match o.residual with
      | some r =>
        let rf := residualFmt o.fmt
        let q := v.1.add (fmtValue rf (lane r (fmtWidth rf) l))
        (q.1, v.2 || q.2)
      | none => v
    let x : FVal := match v.1 with
      | .fin n m k => if m = 0 then .fin false 0 0 else .fin n m k
      | y => y
    let r := roundTo o.fmt o.rnd (drawTop z4) o.e4nan x
    (r.1, r.2 ||| (if v.2 then Flag.nv else 0))

end Sys2Proof.Machine
end

