-- ==== Sys2Proof/Machine/Wave.lean ====
section
/-! DEFINITION. The `WAVE` forms (R179 to R205): how a form enters row 0, and what its step does in a
cell that executes it. -/

namespace Sys2Proof.Machine

/-! ### Entering row 0 -/

/-- R16, R78, R127, R194: what a step samples. -/
def samplesOf (r : SeqRegs) : Samples :=
  ⟨r.orow, r.ocol, r.nseed, r.nstep, r.dthr, r.nctl, r.dscl⟩

/-- R15, R20, R23: the form becomes the wave instruction in progress, with its column mask. -/
def inject (n : Fin 16) (m : Fin 8) (form : Instr) (s : State) : State :=
  updCur s fun x =>
    { x with wave := some ⟨form, n.val + 1, 0, x.snap.m[m], samplesOf x.snap⟩ }

/-! ### What a step does in a cell -/

/-- A write of an executing step. `tile` carries the tile as it stood, for a poisoned result. -/
inductive Effect where
  | reg (d : Dst) (v : Reg256)
  | tile (t : Fin 4) (base v : Tile)
  | words (first : Nat) (vs : List Reg256)
  | flag (g : Fin 4) (v : Bool)
  /-- A `K` write, which depends on no data (R197). -/
  | index (k : Fin 4) (v : BitVec 9)
  /-- The pass bit of a matrix form (R192). -/
  | pass (h v : Reg256)
  /-- The block of an `MMAS` in progress (R193). -/
  | run (r : Option MmasRun)
  deriving DecidableEq, Repr

/-- R179: a step's sources by operand code, the poison of the other things it reads, its writes and the
flags it raises. -/
structure Plan where
  srcs : List Src
  poison : Bool
  out : List Effect
  flags : BitVec 32
  deriving DecidableEq, Repr

/-- A step that does nothing. -/
def Plan.nothing : Plan := ⟨[], false, [], 0⟩

/-- What a cell sees as it executes a step: itself, its operands, its old destination, its place, the
instruction, and whether this is the first beat of it that the cell executes. -/
structure CellView where
  c : Cell
  rd : Src → PReg
  old : Dst → PReg
  i : Nat
  j : Nat
  w : WaveForm
  first : Bool

/-- R13, R196: a word of the cell store. -/
def Cell.word (c : Cell) (n : Nat) : PReg :=
  tableGet c.store (n % 512) (match c.lost with
    | none => ⟨0, false⟩
    | some (k, cell) => ⟨Config.lostWord k cell (n % 512), Config.lostPoison k cell (n % 512)⟩)

/-- R18: a fragment register with every write issued so far. -/
def Cell.lastF (c : Cell) (k : Fin 16) : PReg :=
  c.pend.foldl (fun v e => match e.write with
    | .f k' w => if k' = k then w else v
    | .word _ _ | .tile _ _ => v) c.f[k]

/-- R18: a cell-store word with every write issued so far. -/
def Cell.lastWord (c : Cell) (n : Nat) : PReg :=
  c.pend.foldl (fun v e => match e.write with
    | .word n' w => if n'.val = n % 512 then w else v
    | .f _ _ | .tile _ _ => v) (c.word n)

/-- R18, R87: a tile with every write issued so far. -/
def Cell.lastTile (c : Cell) (t : Fin 4) : Tile :=
  c.pend.foldl (fun v e => match e.write with
    | .tile t' w => if t' = t then w else v
    | .f _ _ | .word _ _ => v) c.a[t]

/-- A plan that reads operands and writes one register. -/
def regPlan (srcs : List Src) (d : Dst) (r : Reg256 × BitVec 32) : Plan := ⟨srcs, false, [.reg d r.1], r.2⟩

/-- A plan that raises no flag. -/
def quietPlan (srcs : List Src) (d : Dst) (r : Reg256) : Plan := ⟨srcs, false, [.reg d r], 0⟩

/-- The bits of an operand. -/
def CellView.val (v : CellView) (a : Src) : Reg256 := (v.rd a).bits

/-- R80: row and column of the element counter of a conversion. -/
def CellView.draw4 (v : CellView) (e : Nat) : Nat :=
  let p := v.w.samples
  drawTop (draw p.nseed 4 p.nstep
    (counter (p.orow.toInt + v.i) (64 * (p.ocol.toInt + v.j) + e)))

/-- R78. -/
def CellView.e4nan (v : CellView) : Bool := v.w.samples.nctl.getLsbD 0

/-- R184. -/
def planWaveMov (v : CellView) (d : Dst) (a : Src) (_ : Elem) : Plan := quietPlan [a] d (v.val a)

/-- R184. -/
def planMovi (_ : CellView) (d : Dst) (i : BitVec 10) (e : Elem) : Plan :=
  quietPlan [] d (lanesOf (elemWidth e) (elemLanes e) fun _ => moviLane e i)

/-- R185: the element forms of two operands. -/
def arithPlan (op : Arith) (v : CellView) (d : Dst) (a b : Src) (e : Elem) : Plan :=
  regPlan [a, b] d (arith op e (v.val a) (v.val b) 0)

/-- R185. -/
def planWaveAdd (v : CellView) (d : Dst) (a b : Src) (e : Elem) : Plan := arithPlan .add v d a b e
/-- R185. -/
def planWaveSub (v : CellView) (d : Dst) (a b : Src) (e : Elem) : Plan := arithPlan .sub v d a b e
/-- R185. -/
def planWaveMul (v : CellView) (d : Dst) (a b : Src) (e : Elem) : Plan := arithPlan .mul v d a b e
/-- R185: the destination is also the addend, read again on each beat (R179). -/
def planFma (v : CellView) (d : Dst) (a b : Src) (e : Elem) : Plan :=
  { regPlan [a, b] d (arith .fma e (v.val a) (v.val b) (v.old d).bits) with poison := (v.old d).poison }
/-- R185. -/
def planWaveMin (v : CellView) (d : Dst) (a b : Src) (e : Elem) : Plan := arithPlan .min v d a b e
/-- R185. -/
def planWaveMax (v : CellView) (d : Dst) (a b : Src) (e : Elem) : Plan := arithPlan .max v d a b e

/-- R186: the forms that act on a sign. -/
def signPlan (neg : Bool) (v : CellView) (d : Dst) (a : Src) (e : Elem) : Plan :=
  regPlan [a] d (mapLanes (elemWidth e) (elemLanes e) fun l =>
    signLane neg e (lane (v.val a) (elemWidth e) l))

/-- R186. -/
def planAbs (v : CellView) (d : Dst) (a : Src) (e : Elem) : Plan := signPlan false v d a e
/-- R186. -/
def planNeg (v : CellView) (d : Dst) (a : Src) (e : Elem) : Plan := signPlan true v d a e

/-- R188: any lane. -/
def planWaveCmp (v : CellView) (cc : CellCc) (g : Fin 4) (a b : Src) (e : Elem) : Plan :=
  let r := cmpLanes cc e (v.val a) (v.val b)
  ⟨[a, b], false, [.flag g (r.any (·.1))], orFlags r⟩

/-- R188: reads only the operand it selects. -/
def planSelg (v : CellView) (d : Dst) (a b : Src) (g : Fin 4) : Plan :=
  let x := if v.c.g.getLsbD g.val then a else b
  quietPlan [x] d (v.val x)

/-- R187. -/
def planWaveAnd (v : CellView) (d : Dst) (a b : Src) (_ : Elem) : Plan :=
  quietPlan [a, b] d (v.val a &&& v.val b)
/-- R187. -/
def planWaveOr (v : CellView) (d : Dst) (a b : Src) (_ : Elem) : Plan :=
  quietPlan [a, b] d (v.val a ||| v.val b)
/-- R187. -/
def planWaveXor (v : CellView) (d : Dst) (a b : Src) (_ : Elem) : Plan :=
  quietPlan [a, b] d (v.val a ^^^ v.val b)

/-- R187: the shifts. -/
def shiftPlan (op : ShiftOp) (v : CellView) (d : Dst) (a b : Src) (e : Elem) : Plan :=
  let w := elemWidth e
  quietPlan [a, b] d (lanesOf w (elemLanes e) fun l =>
    shiftLane op w (lane (v.val a) w l) (lane (v.val b) w l))

/-- R187. -/
def planWaveShl (v : CellView) (d : Dst) (a b : Src) (e : Elem) : Plan := shiftPlan .shl v d a b e
/-- R187. -/
def planWaveShr (v : CellView) (d : Dst) (a b : Src) (e : Elem) : Plan := shiftPlan .shr v d a b e
/-- R187. -/
def planWaveSar (v : CellView) (d : Dst) (a b : Src) (e : Elem) : Plan := shiftPlan .sar v d a b e

/-- R190. -/
def planPack (v : CellView) (d : Dst) (a b : Src) (l : LaneW) : Plan :=
  quietPlan [a, b] d (packRegs l.width (v.val a) (v.val b))
/-- R190. -/
def planUnpk (v : CellView) (d : Dst) (a : Src) (hi : Bool) (l : LaneW) : Plan :=
  quietPlan [a] d (unpack l.width hi (v.val a))

/-- R87, R90, R192: the tile a matrix form acts on: `MMAZ` zeroes it before the first beat the cell
executes, and a wrong mode is converted before that beat. -/
def startTile (v : CellView) (t : Fin 4) (f : Fmt) (zero : Bool) : Tile × BitVec 32 :=
  if zero && v.first then (⟨Vector.replicate 16 0, fmtW128Tile f, false, false⟩, 0)
  else (v.c.lastTile t).inMode (fmtW128Tile f)

/-- R192: the pass bit. -/
def passEffect (v : CellView) (pass : Bool) (a b : Src) : List Effect :=
  if pass then [.pass (v.val a) (v.val b)] else []

/-- R192: one beat of `MMA` or `MMAZ`. -/
def mmaPlan (zero : Bool) (v : CellView) (pass : Bool) (t : Fin 4) (a b : Src) (f : Fmt) : Plan :=
  let base := startTile v t f zero
  let r := base.1.mac f (v.val a) (v.val b)
  ⟨[a, b], base.1.poison, .tile t base.1 r.1 :: passEffect v pass a b, base.2 ||| r.2⟩

/-- R192. -/
def planMma (v : CellView) (pass : Bool) (t : Fin 4) (a b : Src) (f : Fmt) : Plan :=
  mmaPlan false v pass t a b f
/-- R192. -/
def planMmaz (v : CellView) (pass : Bool) (t : Fin 4) (a b : Src) (f : Fmt) : Plan :=
  mmaPlan true v pass t a b f

/-- R88: beats of one block. -/
def blockBeats (f : Fmt) : Nat := 32 / fragK f

/-- R88, R193: a block is added on its last beat, or on the last beat of the instruction, with the products of its own
beats that the cell has executed. A cell that does not execute that beat adds nothing for the block, and one that does not
execute beat 0 reads the scales on the first beat it executes (DEDUCED, log entry 82). -/
def planMmas (v : CellView) (pass : Bool) (t : Fin 4) (a b : Src) (f : Fmt) : Plan :=
  let f15 := v.c.f[(15 : Fin 16)]
  let base : Tile × BitVec 32 := (v.c.lastTile t).inMode true
  let run : MmasRun := match v.first, v.c.mmas with
    | false, some r => r
    | _, _ => ⟨f15, 0, []⟩
  let blk := v.w.beat / blockBeats f
  let frags := (if run.block = blk then run.frags else []) ++ [(v.val a, v.val b)]
  let ends := (v.w.beat + 1) % blockBeats f = 0 ∨ v.w.beat + 1 = v.w.beats
  let r := if ends then base.1.addBlock f blk run.scales.bits frags else (base.1, 0)
  ⟨[a, b], base.1.poison || (v.first && f15.poison),
    .run (some { run with block := blk, frags := if ends then [] else frags }) :: .tile t base.1 r.1
      :: passEffect v pass a b,
    base.2 ||| r.2⟩

/-- R195. -/
def planAccz (_ : CellView) (t : Fin 4) (w128 : Bool) : Plan :=
  let z : Tile := ⟨Vector.replicate 16 0, w128, false, false⟩
  ⟨[], false, [.tile t z z], 0⟩

/-- R195: entry e is in half e mod 2 of word e div 2. -/
def planAccld (v : CellView) (t k : Fin 4) : Plan :=
  let base := v.c.lastTile t
  let n := v.c.k[k].toNat
  let entries : Vector Word128 16 := Vector.ofFn fun e =>
    BitVec.ofNat 128 (lane (v.c.word (n + e.val / 2)).bits 128 (e.val % 2))
  let p := (List.range 8).any fun m => (v.c.word (n + m)).poison
  ⟨[], p, [.tile t base { base with entries := entries, poison := p }], 0⟩

/-- R195: reads the tile in its current mode. -/
def planAccst (v : CellView) (t k : Fin 4) : Plan :=
  let x := v.c.a[t]
  ⟨[], x.poison, [.words v.c.k[k].toNat ((List.range 8).map fun m =>
    lanesOf 128 2 fun l => ((x.entries.toList[2 * m + l]?).getD 0).toNat)], 0⟩

/-- R197: the post-increment applies in every case. -/
def planLds (v : CellView) (d : Dst) (k : Fin 4) (i : BitVec 5) : Plan :=
  ⟨[.word k], false, [.reg d (v.val (.word k)), .index k (v.c.k[k] + i.signExtend 9)], 0⟩
/-- R197. -/
def planSts (v : CellView) (k : Fin 4) (a : Src) (i : BitVec 5) : Plan :=
  ⟨[a], false, [.reg (.word k) (v.val a), .index k (v.c.k[k] + i.signExtend 9)], 0⟩
/-- R197. -/
def planKset (_ : CellView) (k : Fin 4) (i : BitVec 9) : Plan := ⟨[], false, [.index k i], 0⟩
/-- R197. -/
def planKadd (v : CellView) (k : Fin 4) (i : BitVec 10) : Plan :=
  ⟨[], false, [.index k (v.c.k[k] + i.setWidth 9)], 0⟩

/-- R198. -/
def planPerm (v : CellView) (d : Dst) (a b : Src) (l : LaneW) : Plan :=
  quietPlan [a, b] d (permute l.width (v.val a) (v.val b))
/-- R198. -/
def planXpose (v : CellView) (d : Dst) (a : Src) (l : LaneW) : Plan :=
  quietPlan [a] d (transpose4 l.width (v.val a))
/-- R198: patterns 6 and 7 do not read `b`. -/
def planShuf (v : CellView) (d : Dst) (a b : Src) (pat : Fin 8) : Plan :=
  quietPlan (if 6 ≤ pat.val then [a] else [a, b]) d (shuffle pat (v.val a) (v.val b))

/-- R199. -/
def planExp2 (v : CellView) (d : Dst) (a : Src) : Plan := regPlan [a] d (approx exp2Lane (v.val a))
/-- R199. -/
def planLog2 (v : CellView) (d : Dst) (a : Src) : Plan := regPlan [a] d (approx log2Lane (v.val a))
/-- R199. -/
def planRcp (v : CellView) (d : Dst) (a : Src) : Plan := regPlan [a] d (approx rcpLane (v.val a))
/-- R199. -/
def planRsq (v : CellView) (d : Dst) (a : Src) : Plan := regPlan [a] d (approx rsqLane (v.val a))

/-- R200: draw `l` of a beat. -/
def rngDraw (v : CellView) (dom l : Nat) : Word64 :=
  let p := v.w.samples
  draw p.nseed dom p.nstep
    (counter (p.orow.toInt + v.i) (128 * (p.ocol.toInt + v.j) + 8 * v.w.beat + l))

/-- R200. -/
def planRng (v : CellView) (d : Dst) (kind : RngKind) (dom : Fin 8) : Plan :=
  quietPlan [] d (match kind with
    | .raw => lanesOf 64 4 fun l => (rngDraw v dom.val l).toNat
    | .uniform => lanesOf 32 8 fun l => uniformOf (rngDraw v dom.val l)
    | .gaussian => lanesOf 32 8 fun l => gaussianIn fmtF32 (rngDraw v dom.val l))

/-- R201. -/
def planNoise (v : CellView) (d : Dst) (e : Elem) : Plan :=
  let p := v.w.samples
  let f := (elemFloat e).getD fmtF32
  quietPlan [] d (lanesOf (elemWidth e) (elemLanes e) fun l =>
    gaussianIn f (draw p.nseed 1 p.nstep
      (counter (p.orow.toInt + v.i) (16 * (p.ocol.toInt + v.j) + l))))

/-- R183, R202: `d` is a source. No flag is named for the form, so it raises none; the same of `SUMR` and `PREFIX`. -/
def planDot (v : CellView) (d : Dst) (a b : Src) (e : Elem) : Plan :=
  { quietPlan [a, b] d (dotReg e (v.old d).bits (v.val a) (v.val b)).1 with poison := (v.old d).poison }
/-- R183, R203. -/
def planSumr (v : CellView) (d : Dst) (a : Src) (e : Elem) : Plan := quietPlan [a] d (sumReg e (v.val a)).1
/-- R183, R204. -/
def planPrefixSum (v : CellView) (d : Dst) (a b : Src) (e : Elem) : Plan :=
  quietPlan [a, b] d (prefixReg e (v.val a) (v.val b)).1

/-- R188: every lane against zero. -/
def planFlag (v : CellView) (cc : CellCc) (g : Fin 4) (a : Src) (e : Elem) : Plan :=
  let r := cmpLanes cc e (v.val a) 0
  ⟨[a], false, [.flag g (r.all (·.1))], orFlags r⟩
/-- R188. -/
def planGset (_ : CellView) (g : Fin 4) (x : Bool) : Plan := ⟨[], false, [.flag g x], 0⟩

/-- R205. -/
def planTmk (v : CellView) (d : Dst) (a b : Src) (k : TmkClass) : Plan :=
  quietPlan [a, b] d (tmkReg k (v.val a) (v.val b))

/-- R189. -/
def planCvt (f : Fmt) (v : CellView) (d : Dst) (a : Src) (src : Fmt) (r : Rnd) : Plan :=
  regPlan [a] d (convert f src r v.e4nan (fun e => if r = .sr then v.draw4 e else 0) (v.val a))

/-- R194: the entry that lane `l` of a drain takes. -/
def drainIndex (f : Fmt) (beat l : Nat) : Nat := if fmtWidth f = 32 then 8 * (beat % 2) + l else l

/-- R91, R194. -/
def planDrain (f : Fmt) (v : CellView) (sc x dr : Bool) (t : Fin 4) (a : Dst) (b : Fin 16) (r : Rnd) :
    Plan :=
  let p := v.w.samples
  let tile := v.c.a[t]
  let res := v.c.f[b]
  let o : DrainOpts := ⟨f, r, if sc then some p.dscl else none, dr, if x then some res.bits else none,
    v.e4nan⟩
  let w := fmtWidth f
  let q := mapLanes w (if w = 32 then 8 else 16) fun l =>
    let e := drainIndex f v.w.beat l
    let ctr := counter (4 * (p.orow.toInt + v.i) + (e / 4 : Nat)) (4 * (p.ocol.toInt + v.j) + (e % 4 : Nat))
    drainEntry o tile e l (draw p.nseed 2 p.nstep ctr) (draw p.nseed 4 p.nstep ctr) p.dthr
  ⟨if x then [.f b] else [], tile.poison, [.reg a q.1], q.2⟩

/-- R179: what a step does in a cell, by its form; other words make no wave step. -/
def planOf (v : CellView) : Instr → Plan
  | .waveMov _ _ d a e => planWaveMov v d a e
  | .movi _ _ d i e => planMovi v d i e
  | .waveAdd _ _ d a b e => planWaveAdd v d a b e
  | .waveSub _ _ d a b e => planWaveSub v d a b e
  | .waveMul _ _ d a b e => planWaveMul v d a b e
  | .fma _ _ d a b e => planFma v d a b e
  | .waveMin _ _ d a b e => planWaveMin v d a b e
  | .waveMax _ _ d a b e => planWaveMax v d a b e
  | .abs _ _ d a e => planAbs v d a e
  | .neg _ _ d a e => planNeg v d a e
  | .waveCmp _ _ cc g a b e => planWaveCmp v cc g a b e
  | .selg _ _ d a b g => planSelg v d a b g
  | .waveAnd _ _ d a b e => planWaveAnd v d a b e
  | .waveOr _ _ d a b e => planWaveOr v d a b e
  | .waveXor _ _ d a b e => planWaveXor v d a b e
  | .waveShl _ _ d a b e => planWaveShl v d a b e
  | .waveShr _ _ d a b e => planWaveShr v d a b e
  | .waveSar _ _ d a b e => planWaveSar v d a b e
  | .pack _ _ d a b l => planPack v d a b l
  | .unpk _ _ d a hi l => planUnpk v d a hi l
  | .mma _ _ pass t a b f => planMma v pass t a b f
  | .mmaz _ _ pass t a b f => planMmaz v pass t a b f
  | .mmas _ _ pass t a b f => planMmas v pass t a b f
  | .accz _ _ t w128 => planAccz v t w128
  | .accld _ _ t k => planAccld v t k
  | .accst _ _ t k => planAccst v t k
  | .lds _ _ d k i => planLds v d k i
  | .sts _ _ k a i => planSts v k a i
  | .kset _ _ k i => planKset v k i
  | .kadd _ _ k i => planKadd v k i
  | .perm _ _ d a b l => planPerm v d a b l
  | .xpose _ _ d a l => planXpose v d a l
  | .shuf _ _ d a b pat => planShuf v d a b pat
  | .exp2 _ _ d a => planExp2 v d a
  | .log2 _ _ d a => planLog2 v d a
  | .rcp _ _ d a => planRcp v d a
  | .rsq _ _ d a => planRsq v d a
  | .rng _ _ d kind dom => planRng v d kind dom
  | .noise _ _ d e => planNoise v d e
  | .dot _ _ d a b e => planDot v d a b e
  | .sumr _ _ d a e => planSumr v d a e
  | .prefixSum _ _ d a b e => planPrefixSum v d a b e
  | .flag _ _ cc g a e => planFlag v cc g a e
  | .gset _ _ g y => planGset v g y
  | .tmk _ _ d a b cls => planTmk v d a b cls
  | .cvt f _ _ d a src r => planCvt f v d a src r
  | .drain f _ _ s x dr t a b r => planDrain f v s x dr t a b r
  | _ => Plan.nothing

/-! ### The slot forms: each enters row 0 as a wave step (R15, R20) -/

/-- R184, R20. -/
def execWaveMov (n : Fin 16) (m : Fin 8) (d : Dst) (a : Src) (e : Elem) (s : State) : Answer :=
  .next (inject n m (.waveMov n m d a e) s)

/-- R184, R20. -/
def execMovi (n : Fin 16) (m : Fin 8) (d : Dst) (i : BitVec 10) (e : Elem) (s : State) : Answer :=
  .next (inject n m (.movi n m d i e) s)

/-- R185, R20. -/
def execWaveAdd (n : Fin 16) (m : Fin 8) (d : Dst) (a b : Src) (e : Elem) (s : State) : Answer :=
  .next (inject n m (.waveAdd n m d a b e) s)

/-- R185, R20. -/
def execWaveSub (n : Fin 16) (m : Fin 8) (d : Dst) (a b : Src) (e : Elem) (s : State) : Answer :=
  .next (inject n m (.waveSub n m d a b e) s)

/-- R185, R20. -/
def execWaveMul (n : Fin 16) (m : Fin 8) (d : Dst) (a b : Src) (e : Elem) (s : State) : Answer :=
  .next (inject n m (.waveMul n m d a b e) s)

/-- R185, R20. -/
def execFma (n : Fin 16) (m : Fin 8) (d : Dst) (a b : Src) (e : Elem) (s : State) : Answer :=
  .next (inject n m (.fma n m d a b e) s)

/-- R185, R20. -/
def execWaveMin (n : Fin 16) (m : Fin 8) (d : Dst) (a b : Src) (e : Elem) (s : State) : Answer :=
  .next (inject n m (.waveMin n m d a b e) s)

/-- R185, R20. -/
def execWaveMax (n : Fin 16) (m : Fin 8) (d : Dst) (a b : Src) (e : Elem) (s : State) : Answer :=
  .next (inject n m (.waveMax n m d a b e) s)

/-- R186, R20. -/
def execAbs (n : Fin 16) (m : Fin 8) (d : Dst) (a : Src) (e : Elem) (s : State) : Answer :=
  .next (inject n m (.abs n m d a e) s)

/-- R186, R20. -/
def execNeg (n : Fin 16) (m : Fin 8) (d : Dst) (a : Src) (e : Elem) (s : State) : Answer :=
  .next (inject n m (.neg n m d a e) s)

/-- R188, R20. -/
def execWaveCmp (n : Fin 16) (m : Fin 8) (cc : CellCc) (g : Fin 4) (a b : Src) (e : Elem)
    (s : State) : Answer :=
  .next (inject n m (.waveCmp n m cc g a b e) s)

/-- R188, R20. -/
def execSelg (n : Fin 16) (m : Fin 8) (d : Dst) (a b : Src) (g : Fin 4) (s : State) : Answer :=
  .next (inject n m (.selg n m d a b g) s)

/-- R187, R20. -/
def execWaveAnd (n : Fin 16) (m : Fin 8) (d : Dst) (a b : Src) (e : Elem) (s : State) : Answer :=
  .next (inject n m (.waveAnd n m d a b e) s)

/-- R187, R20. -/
def execWaveOr (n : Fin 16) (m : Fin 8) (d : Dst) (a b : Src) (e : Elem) (s : State) : Answer :=
  .next (inject n m (.waveOr n m d a b e) s)

/-- R187, R20. -/
def execWaveXor (n : Fin 16) (m : Fin 8) (d : Dst) (a b : Src) (e : Elem) (s : State) : Answer :=
  .next (inject n m (.waveXor n m d a b e) s)

/-- R187, R20. -/
def execWaveShl (n : Fin 16) (m : Fin 8) (d : Dst) (a b : Src) (e : Elem) (s : State) : Answer :=
  .next (inject n m (.waveShl n m d a b e) s)

/-- R187, R20. -/
def execWaveShr (n : Fin 16) (m : Fin 8) (d : Dst) (a b : Src) (e : Elem) (s : State) : Answer :=
  .next (inject n m (.waveShr n m d a b e) s)

/-- R187, R20. -/
def execWaveSar (n : Fin 16) (m : Fin 8) (d : Dst) (a b : Src) (e : Elem) (s : State) : Answer :=
  .next (inject n m (.waveSar n m d a b e) s)

/-- R190, R20. -/
def execPack (n : Fin 16) (m : Fin 8) (d : Dst) (a b : Src) (l : LaneW) (s : State) : Answer :=
  .next (inject n m (.pack n m d a b l) s)

/-- R190, R20. -/
def execUnpk (n : Fin 16) (m : Fin 8) (d : Dst) (a : Src) (hi : Bool) (l : LaneW) (s : State) : Answer :=
  .next (inject n m (.unpk n m d a hi l) s)

/-- R192, R20. -/
def execMma (n : Fin 16) (m : Fin 8) (pass : Bool) (t : Fin 4) (a b : Src) (f : Fmt) (s : State) : Answer :=
  .next (inject n m (.mma n m pass t a b f) s)

/-- R192, R20. -/
def execMmaz (n : Fin 16) (m : Fin 8) (pass : Bool) (t : Fin 4) (a b : Src) (f : Fmt)
    (s : State) : Answer :=
  .next (inject n m (.mmaz n m pass t a b f) s)

/-- R193, R20. -/
def execMmas (n : Fin 16) (m : Fin 8) (pass : Bool) (t : Fin 4) (a b : Src) (f : Fmt)
    (s : State) : Answer :=
  .next (inject n m (.mmas n m pass t a b f) s)

/-- R195, R20. -/
def execAccz (n : Fin 16) (m : Fin 8) (t : Fin 4) (w128 : Bool) (s : State) : Answer :=
  .next (inject n m (.accz n m t w128) s)

/-- R195, R20. -/
def execAccld (n : Fin 16) (m : Fin 8) (t k : Fin 4) (s : State) : Answer :=
  .next (inject n m (.accld n m t k) s)

/-- R195, R20. -/
def execAccst (n : Fin 16) (m : Fin 8) (t k : Fin 4) (s : State) : Answer :=
  .next (inject n m (.accst n m t k) s)

/-- R197, R20. -/
def execLds (n : Fin 16) (m : Fin 8) (d : Dst) (k : Fin 4) (i : BitVec 5) (s : State) : Answer :=
  .next (inject n m (.lds n m d k i) s)

/-- R197, R20. -/
def execSts (n : Fin 16) (m : Fin 8) (k : Fin 4) (a : Src) (i : BitVec 5) (s : State) : Answer :=
  .next (inject n m (.sts n m k a i) s)

/-- R197, R20. -/
def execKset (n : Fin 16) (m : Fin 8) (k : Fin 4) (i : BitVec 9) (s : State) : Answer :=
  .next (inject n m (.kset n m k i) s)

/-- R197, R20. -/
def execKadd (n : Fin 16) (m : Fin 8) (k : Fin 4) (i : BitVec 10) (s : State) : Answer :=
  .next (inject n m (.kadd n m k i) s)

/-- R198, R20. -/
def execPerm (n : Fin 16) (m : Fin 8) (d : Dst) (a b : Src) (l : LaneW) (s : State) : Answer :=
  .next (inject n m (.perm n m d a b l) s)

/-- R198, R20. -/
def execXpose (n : Fin 16) (m : Fin 8) (d : Dst) (a : Src) (l : LaneW) (s : State) : Answer :=
  .next (inject n m (.xpose n m d a l) s)

/-- R198, R20. -/
def execShuf (n : Fin 16) (m : Fin 8) (d : Dst) (a b : Src) (pat : Fin 8) (s : State) : Answer :=
  .next (inject n m (.shuf n m d a b pat) s)

/-- R199, R20. -/
def execExp2 (n : Fin 16) (m : Fin 8) (d : Dst) (a : Src) (s : State) : Answer :=
  .next (inject n m (.exp2 n m d a) s)

/-- R199, R20. -/
def execLog2 (n : Fin 16) (m : Fin 8) (d : Dst) (a : Src) (s : State) : Answer :=
  .next (inject n m (.log2 n m d a) s)

/-- R199, R20. -/
def execRcp (n : Fin 16) (m : Fin 8) (d : Dst) (a : Src) (s : State) : Answer :=
  .next (inject n m (.rcp n m d a) s)

/-- R199, R20. -/
def execRsq (n : Fin 16) (m : Fin 8) (d : Dst) (a : Src) (s : State) : Answer :=
  .next (inject n m (.rsq n m d a) s)

/-- R200, R20. -/
def execRng (n : Fin 16) (m : Fin 8) (d : Dst) (kind : RngKind) (dom : Fin 8) (s : State) : Answer :=
  .next (inject n m (.rng n m d kind dom) s)

/-- R201, R20. -/
def execNoise (n : Fin 16) (m : Fin 8) (d : Dst) (e : Elem) (s : State) : Answer :=
  .next (inject n m (.noise n m d e) s)

/-- R202, R20. -/
def execDot (n : Fin 16) (m : Fin 8) (d : Dst) (a b : Src) (e : Elem) (s : State) : Answer :=
  .next (inject n m (.dot n m d a b e) s)

/-- R203, R20. -/
def execSumr (n : Fin 16) (m : Fin 8) (d : Dst) (a : Src) (e : Elem) (s : State) : Answer :=
  .next (inject n m (.sumr n m d a e) s)

/-- R204, R20. -/
def execPrefixSum (n : Fin 16) (m : Fin 8) (d : Dst) (a b : Src) (e : Elem) (s : State) : Answer :=
  .next (inject n m (.prefixSum n m d a b e) s)

/-- R188, R20. -/
def execFlag (n : Fin 16) (m : Fin 8) (cc : CellCc) (g : Fin 4) (a : Src) (e : Elem) (s : State) : Answer :=
  .next (inject n m (.flag n m cc g a e) s)

/-- R188, R20. -/
def execGset (n : Fin 16) (m : Fin 8) (g : Fin 4) (v : Bool) (s : State) : Answer :=
  .next (inject n m (.gset n m g v) s)

/-- R205, R20. -/
def execTmk (n : Fin 16) (m : Fin 8) (d : Dst) (a b : Src) (cls : TmkClass) (s : State) : Answer :=
  .next (inject n m (.tmk n m d a b cls) s)

/-- R189, R20. -/
def execCvt (f : Fmt) (n : Fin 16) (m : Fin 8) (d : Dst) (a : Src) (src : Fmt) (r : Rnd)
    (s : State) : Answer :=
  .next (inject n m (.cvt f n m d a src r) s)

/-- R194, R20. -/
def execDrain (f : Fmt) (n : Fin 16) (m : Fin 8) (sc x dr : Bool) (t : Fin 4) (a : Dst) (b : Fin 16) (r : Rnd)
    (s : State) : Answer :=
  .next (inject n m (.drain f n m sc x dr t a b r) s)

end Sys2Proof.Machine
end

