-- ==== Sys2Proof/Machine/Cells.lean ====
section
/-! DEFINITION. How cells execute wave steps: which step a cell is offered, whether it executes it, what
it reads of its neighbours and the edge, and when its results land (R18, R21 to R34, R179 to R183). -/

namespace Sys2Proof.Machine

/-! ### Bounds and leave (R182) -/

/-- R182: the latency bound of element arithmetic. -/
def arithLatency (e : Elem) : Nat := if (elemFloat e).isSome then 4 else 2

/-- R182: the latency bound of a form, from the cycle of its beat; a matrix form's counts from its last
beat. -/
def latencyOf (w : WaveForm) : Nat :=
  match w.form with
  | .waveAdd _ _ _ _ _ e | .waveSub _ _ _ _ _ e | .waveMul _ _ _ _ _ e | .fma _ _ _ _ _ e
  | .waveMin _ _ _ _ _ e | .waveMax _ _ _ _ _ e | .abs _ _ _ _ e | .neg _ _ _ _ e => arithLatency e
  | .cvt _ _ _ _ _ _ _ | .sumr _ _ _ _ _ | .prefixSum _ _ _ _ _ _ | .tmk _ _ _ _ _ _ => 3
  | .lds _ _ _ _ _ | .sts _ _ _ _ _ | .accld _ _ _ _ | .accst _ _ _ _ | .accz _ _ _ _ => 2
  | .rng _ _ _ _ _ => 6
  | .mma _ _ _ _ _ _ _ | .mmaz _ _ _ _ _ _ _ | .mmas _ _ _ _ _ _ _ => 4 + (w.beats - 1 - w.beat)
  | .dot _ _ _ _ _ _ => 4
  | .drain _ _ _ _ _ _ _ _ _ _ => 6
  | .exp2 _ _ _ _ | .log2 _ _ _ _ | .rcp _ _ _ _ | .rsq _ _ _ _ | .noise _ _ _ _ => 12
  | _ => 1

/-- R50, R182: the leave class of a heavy form. -/
def leaveClassOf : Instr → Option Nat
  | .mma _ _ _ _ _ _ f | .mmaz _ _ _ _ _ _ f => some (if fmtW128Tile f then 1 else 2)
  | .mmas _ _ _ _ _ _ _ => some 2
  | .dot _ _ _ _ _ _ | .drain _ _ _ _ _ _ _ _ _ _ => some 1
  | .exp2 _ _ _ _ | .log2 _ _ _ _ | .rcp _ _ _ _ | .rsq _ _ _ _ | .noise _ _ _ _ => some 0
  | _ => none

/-! ### Landing (R18) -/

/-- Whether two writes go to the same register. -/
def CellWrite.same : CellWrite → CellWrite → Bool
  | .f k _, .f k' _ => decide (k = k')
  | .word n _, .word n' _ => decide (n = n')
  | .tile t _, .tile t' _ => decide (t = t')
  | _, _ => false

/-- R18: enter a write that lands at the end of cycle `due`; earlier writes to its register land no
later. -/
def Cell.pendWrite (c : Cell) (w : CellWrite) (due : Nat) (flags : BitVec 32) (chained : Bool) : Cell :=
  { c with pend :=
      (c.pend.map fun e => if e.write.same w then { e with due := min e.due due } else e)
        ++ [⟨due, w, flags, chained⟩] }

/-- Put a word of the cell store. -/
def Cell.putWord (c : Cell) (n : Nat) (v : PReg) : Cell :=
  { c with store := if v = ⟨0, false⟩ ∧ c.lost.isNone = true then tableErase c.store n
      else tableSet c.store n v }

/-- Apply a landed write. -/
def Cell.landOne (c : Cell) : CellWrite → Cell
  | .f k v => { c with f := c.f.set k v }
  | .word n v => c.putWord n.val v
  | .tile t v => { c with a := c.a.set t v }

/-- R18: land the writes due by the end of cycle `now`. -/
def Cell.land (c : Cell) (now : Nat) : Cell :=
  (c.pend.filter fun e => decide (e.due ≤ now)).foldl (fun c e => c.landOne e.write)
    { c with pend := c.pend.filter fun e => decide (now < e.due) }

/-- R76: the numeric flags that come with the results landing by the end of cycle `now`. -/
def Cell.landingFlags (c : Cell) (now : Nat) : BitVec 32 :=
  (c.pend.filter fun e => decide (e.due ≤ now)).foldl (fun n e => n ||| e.flags) 0

/-! ### Writes of a step -/

/-- What becomes of a step's writes. -/
inductive Fate where
  | clean
  /-- R77, R181: a source is poisoned. -/
  | poisoned
  /-- R31: an edge register's tag differs from the implied one. -/
  | mismatch
  deriving DecidableEq, Repr

/-- The place of a step's execution: the free counter, the cell, the cycle and the form's latency; the numeric
flags it raises (R76), and the first cycle whose samples certainly show its flag writes (R109). -/
structure StepAt where
  free : Nat
  key : Nat
  now : Nat
  lat : Nat
  flags : BitVec 32
  sure : Nat
  /-- R235: the step passes down a chain. -/
  chained : Bool
  deriving DecidableEq, Repr

/-- R8: the cycle at whose end write `n` of a step lands: free within the bound. -/
def StepAt.due (p : StepAt) (n : Nat) : Nat :=
  p.now + Config.cellLanding p.free (4096 * n + p.key) % p.lat

/-- R31, R77, R181: the value a register destination takes. -/
def fateReg (f : Fate) (p : StepAt) (n : Nat) (v : Reg256) (old : PReg) : PReg :=
  match f with
  | .clean => ⟨v, false⟩
  | .poisoned => ⟨Config.poisonedReg p.free p.key n, true⟩
  | .mismatch => { old with poison := true }

/-- A register destination as it stands with every write issued. -/
def Cell.lastDst (c : Cell) : Dst → PReg
  | .f k => c.lastF k
  | .h => c.h
  | .v => c.v
  | .word k => c.lastWord c.k[k].toNat

/-- R26, R182: write a register destination; `H` and `V` at the end of the cycle exactly. -/
def Cell.writeDst (c : Cell) (p : StepAt) (n : Nat) (d : Dst) (v : PReg) : Cell :=
  match d with
  | .f k => c.pendWrite (.f k v) (p.due n) p.flags p.chained
  | .h => { c with h := v }
  | .v => { c with v := v }
  | .word k => c.pendWrite (.word (finOf 511 c.k[k].toNat) v) (p.due n) p.flags p.chained

/-- R181: a tile whose value is undefined keeps its mode and overflow. -/
def poisonTile (p : StepAt) (base : Tile) : Tile :=
  { base with entries := Vector.ofFn fun e => Config.poisonedEntry p.free p.key e.val, poison := true }

/-- R109: write a flag; the flag before the write is kept for the samples that need not show it. -/
def Cell.writeFlag (c : Cell) (p : StepAt) (g : Fin 4) (v : Bool) : Cell :=
  let bit := BitVec.ofNat 4 (2 ^ g.val)
  { c with
    gLog := (p.sure, g, c.g.getLsbD g.val) ::
      ((c.gLog.filter fun e => e.2.1 = g).takeWhile fun e => decide (p.now < e.1)) ++ c.gLog.filter fun e => e.2.1 ≠ g
    g := if v then c.g ||| bit else c.g &&& ~~~bit }

/-- One write of a step, number `n`. A step with a poisoned source that passes leaves both `H` and `V` poisoned
(log entry 88: the model's choice). -/
def Cell.effect (c : Cell) (f : Fate) (p : StepAt) (n : Nat) : Effect → Cell
  | .reg d v => c.writeDst p n d (fateReg f p n v (c.lastDst d))
  | .tile t base v =>
    let w : Tile := match f with
      | .clean => v
      | .poisoned => poisonTile p base
      | .mismatch => { c.lastTile t with poison := true }
    c.pendWrite (.tile t w) (p.due n) p.flags p.chained
  | .words first vs =>
    (List.zip (List.range vs.length) vs).foldl (fun c e =>
      let w := fateReg f p (n + e.1) e.2 (c.lastWord (first + e.1))
      c.pendWrite (.word (finOf 511 (first + e.1)) w) (p.due (n + e.1)) p.flags p.chained) c
  | .flag g v => if f = .clean then c.writeFlag p g v else c
  | .index k v => { c with k := c.k.set k v }
  | .pass h v => { c with h := fateReg f p (n + 1) h c.h, v := fateReg f p (n + 2) v c.v }
  | .run r => { c with mmas := r }

/-- R26: whether a write lands later than at the end of its cycle. -/
def Effect.pends : Effect → Bool
  | .reg (.f _) _ | .reg (.word _) _ | .tile _ _ _ => true
  | .words _ vs => !vs.isEmpty
  | .reg .h _ | .reg .v _ | .flag _ _ | .index _ _ | .pass _ _ | .run _ => false

/-- All the writes of a step. -/
def Cell.effects (c : Cell) (f : Fate) (p : StepAt) (es : List Effect) : Cell :=
  (List.zip (List.range es.length) es).foldl (fun c e => c.effect f p (16 * e.1) e.2) c

/-! ### Which step a cell executes (R22 to R25, R34) -/

/-- The sequencer that issues an array's wave steps. -/
def issuer (s : State) (a : Fin 32) : Fin 32 :=
  if (getA s a).kind = .cluster then a else (members s a).headD a

/-- The wave step of a number. -/
def stepNum (steps : List WaveStep) (n : Nat) : Option WaveStep := steps.find? fun w => w.num = n

/-- R22, R34, R235: the step that row `i` of an array is offered on its cycle `t`. -/
def offered (s : State) (a : Fin 32) (t i : Nat) : Option WaveStep :=
  let x := getA s a
  let back := linkDelay x + rowBase x + i
  if t < back then none
  else match stepNum (getA s (issuer s a)).steps (t - back) with
    | some w => if isTail x && !w.chained then none else some w
    | none => none

/-- R24: the selector bit of cell (i, j) for the step it is offered. -/
def selector (s : State) (a : Fin 32) (t : Nat) (w : WaveStep) (i j : Nat) : Bool :=
  if w.travel then
    let back := linkDelay (getA s a) + j
    if t < back then true
    else match stepNum (getA s (issuer s a)).steps (t - back) with
      | some u => u.word.getLsbD i
      | none => true
  else w.word.getLsbD i

/-- R24: whether cell (i, j) executes the step it is offered. -/
def executes (s : State) (a : Fin 32) (t : Nat) (w : WaveStep) (i j : Nat) : Bool :=
  match w.op with
  | some f => f.mask.getLsbD j && selector s a t w i j
  | none => false

/-! ### Operands (R26 to R31, R48) -/

/-- R34: the row-63 `V` that a tail's row 0 reads on cycle `t`. -/
def linkValue (s : State) (a : Fin 32) (t j : Nat) : PReg :=
  match (members s a)[(getA s a).grpIdx - 1]? with
  | none => ⟨0, false⟩
  | some b => match (getA s b).link.find? fun e => e.1 + 5 = t with
    | some e => vget e.2 j
    | none => ⟨0, false⟩

/-- A neighbour as it stood at the end of the last cycle. -/
def Arr.before (x : Arr) (i j : Nat) : Cell := tableGet x.prev (64 * i + j) Cell.start

/-- R28: the north-edge source of column `j`. -/
def northEdge (s : State) (a : Fin 32) (t j : Nat) : PReg :=
  let x := getA s a
  if x.kind = .cluster ∨ x.grpIdx = 0 then vget x.north.regs j else linkValue s a t j

/-- R48: `COORD`. -/
def coordOf (p : Samples) (i j : Nat) : Reg256 :=
  BitVec.ofNat 256 (packLanes 32 [i, j, wrap (p.orow.toInt + i) 32, wrap (p.ocol.toInt + j) 32])

/-- R27, R28, R48: an operand of cell (i, j) of an array on its cycle `t`. -/
def readSrc (s : State) (a : Fin 32) (t : Nat) (c : Cell) (i j : Nat) (p : Samples) : Src → PReg
  | .f k => c.f[k]
  | .h => c.h
  | .v => c.v
  | .nh => if i = 0 then northEdge s a t j else ((getA s a).before (i - 1) j).h
  | .nv => if i = 0 then northEdge s a t j else ((getA s a).before (i - 1) j).v
  | .sh => if i = 63 then ⟨0, false⟩ else ((getA s a).before (i + 1) j).h
  | .sv => if i = 63 then ⟨0, false⟩ else ((getA s a).before (i + 1) j).v
  | .eh => if j = 63 then ⟨0, false⟩ else ((getA s a).before i (j + 1)).h
  | .ev => if j = 63 then ⟨0, false⟩ else ((getA s a).before i (j + 1)).v
  | .wh => if j = 0 then vget (getA s a).west.regs i else ((getA s a).before i (j - 1)).h
  | .wv => if j = 0 then vget (getA s a).west.regs i else ((getA s a).before i (j - 1)).v
  | .zero => ⟨0, false⟩
  | .word k => c.word c.k[k].toNat
  | .coord => ⟨coordOf p i j, false⟩

/-- R30, R31: the feeder whose register's tag differs from the implied one, if a read of the operand
meets it: 0 north, 1 west. -/
def staleFeeder (x : Arr) (i j : Nat) (a : Src) : Option Nat :=
  match a with
  | .nh | .nv =>
    if i = 0 ∧ (x.kind = .cluster ∨ x.grpIdx = 0) ∧ vget x.north.tags j ≠ vget x.north.implied j then
      some 0
    else none
  | .wh | .wv => if j = 0 ∧ vget x.west.tags i ≠ vget x.west.implied i then some 1 else none
  | _ => none

/-! ### Traps of a step -/

/-- R31, R338: the detail of a tag mismatch. -/
def mismatchDetail (num i j feeder : Nat) : Nat :=
  schedDetail 6 (num % 2 ^ 16 * 2 ^ 24 + i * 2 ^ 18 + j * 2 ^ 12 + feeder * 2 ^ 11)

/-- Whether a pending trap is a tag mismatch met on active cycle `now`. -/
def Trap.sameCycle (t : Trap) (now : Nat) : Bool :=
  t.cause = .schedule && decide (t.detail.toNat % 256 = 6) && decide (t.cycle = now)

/-- R31, R34: a mismatch met on cycle `now` by cell (i, j) of an array whose row 0 is global row `base`. Of the
mismatches of one cycle in any array of a chain, the trap names the lowest row and column. -/
def Arr.raiseMismatch (x : Arr) (now base num i j feeder : Nat) : Arr :=
  let new : Trap := ⟨.schedule, BitVec.ofNat 48 (mismatchDetail num i j feeder), now, 64 * (base + i) + j⟩
  match x.traps.find? fun t => t.sameCycle now with
  | none => { x with traps := x.traps ++ [new] }
  | some t =>
    if new.place < t.place then { x with traps := x.traps.map fun u => if u = t then new else u }
    else x

/-- R181: poison consumption is raised once until it is taken. -/
def Arr.consumePoison (x : Arr) : Arr :=
  if x.traps.any fun t => decide (t.cause = .poison) then x else x.raise .poison 0

/-! ### Execution -/

/-- R117: the checkpoint takes every write of the steps before. -/
def Cell.checkpoint (c : Cell) : Cell := { c with ckpt := Vector.ofFn fun t => c.lastTile t }

/-- R109: how many cycles after its issue a step reaches the last row of its array or chain. -/
def travelOf (s : State) (a : Fin 32) (w : WaveStep) : Nat :=
  if w.chained then 64 * (members s a).length - 1 + 4 * ((members s a).length - 1) else 63

/-- R179 to R183: cell (i, j) executes wave step `w` on cycle `t`. The numeric flags of a step (R76) come with its
results; with none to wait for, at the end of the cycle. Where a north and a west read meet mismatches in one step, the
trap names the feeder of the first source operand (DESIGN CHOICE, log entry 80). -/
def execCell (s : State) (a : Fin 32) (t i j : Nat) (w : WaveStep) (f : WaveForm) : State :=
  let x := getA s a
  let key := 64 * i + j
  let c := tableGet x.cells key Cell.start
  let first := decide (c.lastStep ≤ w.num - f.beat)
  let old (d : Dst) : PReg :=
    if first then readSrc s a t c i j f.samples (match d with
      | .f k => .f k | .h => .h | .v => .v | .word k => .word k)
    else c.lastDst d
  let v : CellView := ⟨c, readSrc s a t c i j f.samples, old, i, j, f, first⟩
  let p := planOf v f.form
  let poison := p.poison || p.srcs.any fun a => (v.rd a).poison
  let stale := (p.srcs.filterMap (staleFeeder x i j)).head?
  let fate : Fate := if stale.isSome then .mismatch else if poison then .poisoned else .clean
  let flags := if fate = .clean then p.flags else 0
  let q : StepAt := ⟨s.freeCtr, key, t, latencyOf f, flags, w.num + travelOf s a w + latencyOf f + 2, w.chained⟩
  let c := { c.effects fate q p.out with lastStep := w.num + 1 }
  let base := rowBase x
  let s := updA s a fun x => { x with cells := tableSet x.cells key c, done := key :: x.done }
  let s := updA s (issuer s a) fun x =>
    let x := if flags ≠ 0 ∧ (p.out.any Effect.pends) = false then
      { x with flagPend := x.flagPend ++ [(t, flags)] } else x
    let x := match stale with
      | some n => x.raiseMismatch t base w.num i j n
      | none => x
    if poison then x.consumePoison else x
  bump s

/-- R196, R383: an error that cannot be corrected is found in a part of a cell: its poison bit is set. -/
def Cell.spoil (c : Cell) : CellPart → Cell
  | .word w => c.putWord w.val ⟨(c.word w.val).bits, true⟩
  | .f k => { c with f := c.f.set k ⟨c.f[k].bits, true⟩ }
  | .h => { c with h := ⟨c.h.bits, true⟩ }
  | .v => { c with v := ⟨c.v.bits, true⟩ }
  | .tile t => { c with a := c.a.set t { c.a[t] with poison := true } }
  | .ckpt t => { c with ckpt := c.ckpt.set t { c.ckpt[t] with poison := true } }

/-- R383: errors are found in parts of a cell, by itself or by a neighbour that reads it. -/
def Arr.spoilCell (x : Arr) (key : Nat) (bad : List CellPart) : Arr :=
  let hit (t : List (Nat × Cell)) : List (Nat × Cell) :=
    tableSet t key (bad.foldl Cell.spoil (tableGet t key Cell.start))
  if bad.isEmpty then x else { x with cells := hit x.cells, prev := hit x.prev }

end Sys2Proof.Machine
end

