-- ==== Sys2Proof/Machine/Streams.lean ====
section
/-! DEFINITION. Stream patterns, positions and descriptors (R149 to R152, R239, R240). -/

namespace Sys2Proof.Machine

/-- R151: the number of blocks of a pattern. -/
def StreamDesc.blocks (d : StreamDesc) : Nat :=
  d.extent[0] * d.extent[1] * d.extent[2] * d.extent[3]

/-- R151: the byte of block `n` of a pattern, from the capability's lower bound. -/
def StreamDesc.byteOf (d : StreamDesc) (n : Nat) : Int :=
  let e0 := d.extent[0]
  let e1 := d.extent[1]
  let e2 := d.extent[2]
  (d.base.toNat : Int) + (n % e0 : Nat) * d.stride[0] + (n / e0 % e1 : Nat) * d.stride[1]
    + (n / (e0 * e1) % e2 : Nat) * d.stride[2] + (n / (e0 * e1 * e2) : Nat) * d.stride[3]

/-- R151: the pattern index at a position; a wrap-1 stream goes round. -/
def StreamDesc.index (d : StreamDesc) (pos : Nat) : Nat := if d.wrap then pos % d.blocks else pos

/-- R151: whether a position lies past the end of a wrap-0 stream. -/
def StreamDesc.past (d : StreamDesc) (pos : Nat) : Bool := !d.wrap && decide (d.blocks ≤ pos)

/-- The object offset of the block at a position. -/
def Stream.offsetOf (q : Stream) (pos : Nat) : Nat :=
  ((q.cap.lower.toNat : Int) + q.desc.byteOf (q.desc.index pos)).toNat

/-- R239: a bound stream at a position, exhausted at its end. -/
def Stream.moveTo (q : Stream) (pos : Nat) (buf : List PReg) : Stream :=
  if q.desc.past pos then { q with mode := .exhausted, pos := q.desc.blocks, buf := [] }
  else { q with mode := .bound, pos := q.desc.index pos, buf := buf }

/-- R152: apply a repositioning form; `gate` is the entry number its fetches wait for (R237). An `ADV` past the end of an
OUTPUT stream without wrap leaves it EXHAUSTED, as R239's row of that state and R152 have it, where the row of OUTPUT says
BOUND (DEDUCED, log entry 117). -/
def Stream.reposition (q : Stream) (gate : Nat) (f : HeldForm) : Stream :=
  match q.mode, f with
  | .unbound, _ => q
  | .binding, f => { q with held := q.held ++ [f], gate := gate }
  | .exhausted, .adv _ => { q with gate := gate }
  | .bound, .adv n => { q.moveTo (q.pos + n) (q.buf.drop n) with gate := gate }
  | .output, .adv n => { q.moveTo (q.pos + n) [] with gate := gate }
  | _, .rew => { q.moveTo 0 [] with gate := gate }

/-- R150, R152: apply what a pending reposition does to its stream. -/
def Stream.apply (q : Stream) (e : PendingReposition) : Stream :=
  match e.act with
  | .form f => q.reposition e.gate f
  | .bind cap reg seed step =>
    { mode := .binding, desc := StreamDesc.zero, cap := cap, reg := reg, seed := seed, step := step
      pos := 0, buf := [], held := [], gate := e.gate }

/-- R345: what the commit point keeps of a stream. -/
def Stream.point (q : Stream) : StreamPoint := ⟨q.mode, q.desc, q.cap, q.reg, q.seed, q.step, q.pos, q.held⟩

/-- R346: a stream goes back to the commit point and fetches anew. -/
def StreamPoint.restore (p : StreamPoint) (gate : Nat) : Stream :=
  { mode := p.mode, desc := p.desc, cap := p.cap, reg := p.reg, seed := p.seed, step := p.step
    pos := p.pos, buf := [], held := p.held, gate := gate }

/-- Put a stream register. -/
def Arr.setStream (x : Arr) (q : Fin 16) (st : Stream) : Arr := { x with streams := x.streams.set q st }

/-- R152, R215: apply every pending reposition of a stream at once. -/
def Arr.settle (x : Arr) (q : Fin 16) : Arr :=
  let st := (x.reposition.filter fun e => decide (e.q = q)).foldl Stream.apply x.streams[q]
  { x.setStream q st with reposition := x.reposition.filter fun e => decide (e.q ≠ q) }

/-- Whether a pop (its sequencer and entry) has no beats left on an array. -/
def Arr.popDone (x : Arr) (e : Fin 32 × Nat) : Bool :=
  !((x.north.forms ++ x.west.forms).any fun m =>
    m.kind.pops && decide (m.owner = e.1) && decide (m.entry = e.2) && decide (0 < m.left))

/-- R152: apply, in order, the repositions whose pops are done; a reposition of a stream waits for the
earlier ones of that stream. -/
def applyReady (x : Arr) : List PendingReposition → List (Fin 16) → Arr
  | [], _ => x
  | e :: t, held =>
    if held.contains e.q || e.fresh || !(e.holds.all x.popDone) then
      applyReady { x with reposition := x.reposition ++ [e] } t (e.q :: held)
    else applyReady (x.setStream e.q (x.streams[e.q].apply e)) t held

/-- R152: apply the repositions that no pop holds back. -/
def Arr.repositions (x : Arr) : Arr := applyReady { x with reposition := [] } x.reposition []

/-- Whether a merge of stream `q` that is not stalled has blocks left. -/
def Arr.merging (x : Arr) (q : Fin 16) : Bool :=
  match x.edge with
  | some (.merge r _ stalled) => decide (r = q) && !stalled
  | _ => false

/-- R152, R153: the repositions of the bundle that has issued now wait for its own pops too. A merge that is issued with one,
or has blocks left and is not stalled, takes its first block from the old position and later ones from the new one, unless a
pop holds the form back (DESIGN CHOICE, log entry 115). -/
def Arr.freshen (x : Arr) (a : Fin 32) : Arr :=
  { x with reposition := x.reposition.map fun e =>
      if e.fresh then
        let own := (x.north.forms ++ x.west.forms).filter fun m =>
          m.kind.pops && decide (m.q = e.q) && decide (m.owner = a) && decide (e.gate ≤ m.entry)
            && decide (0 < m.left)
        { e with fresh := false, merge := x.merging e.q, holds := e.holds ++ own.map fun m => (m.owner, m.entry) }
      else e }

/-- R149: the extent field of a dimension. -/
def descExtent (b k : Nat) : Nat := bits b (224 + 64 * k) 16 + 1

/-- R149: the stride field of a dimension. -/
def descStride (b k : Nat) : Int := signed (b / 2 ^ (192 + 64 * k)) 32

/-- R149: a descriptor's fields. -/
def readDesc (b : Nat) : StreamDesc where
  base := BitVec.ofNat 48 b
  extent := Vector.ofFn fun k => descExtent b k.val
  stride := Vector.ofFn fun k => descStride b k.val
  noise := BitVec.ofNat 3 (bits b 100 3)
  wrap := b.testBit 103
  depth := 64 * (bits b 104 4 + 1)
  bank := Fin.ofNat 32 (bits b 108 5)
  bufBase := bits b 128 17
  dims := bits b 98 2 + 1

/-- R149: whether the reserved fields are zero and the fields hold legal values. -/
def descFieldsOk (b : Nat) : Bool :=
  bits b 48 50 = 0 && bits b 113 15 = 0 && bits b 145 47 = 0 && bits b 240 16 = 0 && bits b 304 16 = 0
    && bits b 368 16 = 0 && bits b 432 80 = 0 && bits b 0 5 = 0
    && ((List.range 4).all fun k =>
      if k ≤ bits b 98 2 then descStride b k % 32 = 0 else bits b (192 + 64 * k) 48 = 0)
    && decide (bits b 128 17 + 64 * (bits b 104 4 + 1) ≤ 98304)

/-- R150: the lowest and highest byte that the corners of a pattern reach. -/
def StreamDesc.reach (d : StreamDesc) : Int × Int :=
  (List.finRange 4).foldl (fun (r : Int × Int) k =>
    let span := (((d.extent[k] : Nat) : Int) - 1) * d.stride[k]
    (r.1 + min span 0, r.2 + max span 0)) ((d.base.toNat : Int), (d.base.toNat : Int))

/-- R150: whether every block of a pattern lies within a capability. -/
def StreamDesc.within (d : StreamDesc) (c : Cap) : Bool :=
  decide (0 ≤ d.reach.1) && decide (d.reach.2 + 32 ≤ (c.len.toNat : Int))

/-- R215: enter `n` pushed blocks for stream `q` of array `b` into the queue of the issuing sequencer;
the stream becomes, or stays, an output stream. -/
def enterPushes (s : State) (a b : Fin 32) (q : Fin 16) (n : Nat) : State :=
  let s := updA s b fun x => x.settle q
  let st := (getA s b).streams[q]
  let s := updA s a fun x =>
    { x with
      queue := x.queue ++ (List.range n).map fun j =>
        let past := st.desc.past (st.pos + j)
        ⟨x.nextId + j, .push q past none, st.cap, if past then 0 else st.offsetOf (st.pos + j), .ar, false⟩
      nextId := x.nextId + n }
  let pos := if st.desc.past (st.pos + n) then st.desc.blocks else st.desc.index (st.pos + n)
  updA s b fun x => x.setStream q { st with mode := .output, pos := pos, buf := [] }

/-- R178: whether a stream's buffer lies in a bank. -/
def Stream.inBank (q : Stream) (n : Fin 32) : Bool :=
  match q.mode with
  | .unbound | .binding => false
  | .bound | .exhausted | .output => decide (q.desc.bank = n)

/-- R149: whether two buffers have a block in common. -/
def StreamDesc.meets (d e : StreamDesc) : Bool :=
  decide (d.bank = e.bank ∧ d.bufBase < e.bufBase + e.depth ∧ e.bufBase < d.bufBase + d.depth)

/-- R149, R178: whether another stream of the cluster has its buffer in blocks of the buffer of stream `q` of array
`a`. What is popped from either is then undefined (R2, R3). -/
def sharesBuffer (s : State) (a : Fin 32) (q : Fin 16) : Bool :=
  let d := (getA s a).streams[q].desc
  (List.finRange 32).any fun b => decide (clusterOf b = clusterOf a ∧ (getA s b).run ≠ .off) &&
    (List.finRange 16).any fun r =>
      let u := (getA s b).streams[r]
      decide ((b, r) ≠ (a, q)) && u.inBank d.bank && u.desc.meets d

/-- R2, R3: the blocks of stream `q` of array `a` as a pop or a merge finds them: free values where another stream shares the
buffer. -/
def buffered (s : State) (a : Fin 32) (q : Fin 16) : State :=
  if sharesBuffer s a q then
    bump (updA s a fun x =>
      let st := x.streams[q]
      let free (n : Nat) (b : PReg) : PReg := ⟨Config.sharedBlock s.freeCtr (16 * a.val + q.val) n, b.poison⟩
      x.setStream q { st with buf := st.buf.mapIdx free })
  else s

end Sys2Proof.Machine
end

