-- ==== Sys2Proof/Machine/Arbiter.lean ====
section
/-! DEFINITION. The arrays that are free (R11, R235, R305), and the tasks that the command
processor asks to give theirs up (R234, R306, R308). -/

namespace Sys2Proof.Machine

/-! ### Free arrays (R11, R235, R305) -/

/-- R22, R118: whether every wave step issued has completed in every cell of an array. -/
def stepsDone (s : State) (a : Fin 32) : Bool :=
  let x := getA s a
  let back := linkDelay x + rowBase x + 63
  x.wave.isNone
    && ((getA s (issuer s a)).steps.all fun w =>
      (w.op.isNone && !w.phase) || (isTail x && !w.chained) || decide (w.num + back < x.acnt))
    && x.cells.all fun e => e.2.pend.isEmpty

/-- R126: whether the copies of an array's contexts that have an operation number, or are armed, are
complete. -/
def copiesDone (s : State) (a : Fin 32) : Bool :=
  (tongsOf a).all fun k =>
    let t := vget s.clusters[clusterOf a].tongs k
    t.active.isNone && !t.armed

/-- R126, R346: whether member `a` has nothing left to do: its `TEND` is committed, its steps and forms are
done, no cancel is pending, and `RETLEFT` has not run out. -/
def memberDone (s : State) (a : Fin 32) : Bool :=
  let x := getA s a
  decide (x.run = .ended) && stepsDone s a && !x.outstanding && x.captures.isEmpty && copiesDone s a
    && x.slotTrap.isNone && (!x.traps.any fun t => decide (t.cause.cls ≠ .inTask)) && decide (x.retLeft ≠ 0 ∨ x.retIv = 0)

/-- R344: whether nothing of a task that is gone is under way on an array. -/
def quiet (s : State) (a : Fin 32) : Bool :=
  let x := getA s a
  decide (x.run = .off) && x.queue.isEmpty && x.captures.isEmpty && stepsDone s a

/-- R235: whether a tail of a chain that has been freed is back with the command processor: its sequencer has reached
`TEND` and has nothing left to do. -/
def tailReturned (s : State) (a : Fin 32) : Bool :=
  decide ((getA s a).kind = .freed ∧ (getA s a).grpIdx ≠ 0) && memberDone s a

/-- R235, R291: whether an array is free: no task holds it, and nothing of an earlier one is under way on it or on another
array of that task. -/
def freeArr (s : State) (a : Fin 32) : Bool :=
  inService s (16 + (clusterOf a).val) && (tailReturned s a
    || (s.tasks.all (fun t => !t.arrs.contains a) && (members s a).all fun b =>
      decide ((getA s b).task ≠ (getA s a).task ∨ (getA s b).group ≠ (getA s a).group) || quiet s b))

/-- The free arrays of the part. -/
def freeArrs (s : State) : List (Fin 32) := (List.finRange 32).filter (freeArr s)

/-- R11: whether the arrays of a list hold a placement of a record's shape. -/
def holdsPlacement (r : Record) (l : List (Fin 32)) : Bool :=
  if r.chain then
    decide (r.arrays ≤ ((List.range 4).filter fun d => l.any fun a => (dieOf a).val = d).length)
  else (List.range 8).any fun c => decide (r.arrays ≤ (l.filter fun a => (clusterOf a).val = c).length)

/-- R311, R313: whether the sync lines that a task needs are there or free. -/
def linesFree (s : State) (t : Task) : Bool :=
  let new := t.record.syncs.filter fun e => !s.lines.any fun l => l.ctx = t.ctx && l.group = e.1
  decide (s.lines.length + new.length ≤ 255)

/-- R305: whether some free placement fits a task. -/
def fits (s : State) (t : Task) : Bool := holdsPlacement t.record (freeArrs s) && linesFree s t

/-- R306, R308: whether a task waits for arrays alone. -/
def noRoom (s : State) (t : Task) : Bool := !holdsPlacement t.record (freeArrs s) && linesFree s t

/-- R305: the tasks that may be placed next: of each queue the first that has left WAIT_EVENTS, if it is
READY, and every SAVED task. -/
def candidates (s : State) : List Task :=
  s.tasks.filter fun t => match t.state with
    | .saved => true
    | .ready => s.tasks.all fun u => !(u.queue = t.queue && decide (u.seqNo < t.seqNo)
        && (decide (u.state = .staging) || decide (u.state = .ready)))
    | .waitEvents | .staging | .running => false


/-- Whether a task of lower rank is to be asked before another: lower priorities first and, among equals,
the most recently placed. -/
def Task.softer (t u : Task) : Bool :=
  if t.prio ≠ u.prio then decide (t.prio < u.prio) else decide (u.placed < t.placed)

/-- Insert a task into a list sorted by `softer`. -/
def insertSoft (t : Task) : List Task → List Task
  | [] => [t]
  | u :: l => if t.softer u then t :: u :: l else u :: insertSoft t l

/-- The sublists of `k` elements, in the order of their positions. -/
def choose {α : Type} : Nat → List α → List (List α)
  | 0, _ => [[]]
  | _ + 1, [] => []
  | k + 1, x :: l => (choose k l).map (fun t => x :: t) ++ choose (k + 1) l

/-- R306: the fewest RUNNING tasks of lower priority whose arrays, with the free ones, give a waiting task a
placement. -/
def victims (s : State) (t : Task) : List Task :=
  let l := ((s.tasks.filter fun u => decide (u.state = .running ∧ u.prio < t.prio)
    && (decide (u.preempt = none) || decide (u.preempt = some t.tid))).foldl (fun l u => insertSoft u l) [])
  let free := freeArrs s
  ((List.range l.length).findSome? fun k =>
    (choose (k + 1) l).find? fun v => holdsPlacement t.record (free ++ v.flatMap fun u => u.arrs)).getD []

/-- R234: a waiting task of higher priority that fits no free placement and would take arrays of task `t`. -/
def waitsFor (s : State) (t : Task) : Option Task :=
  (candidates s).find? fun u => decide (t.prio < u.prio) && noRoom s u
    && ((victims s u).any (fun v => v.tid = t.tid) || holdsPlacement u.record (freeArrs s ++ t.arrs))

/-- R234: an arbitration point of a chain: if a task of higher priority waits for any array of it, a request is posted,
unless one stands. -/
def arbitrate (s : State) (tid : BitVec 32) : State :=
  match taskFind s tid with
  | none => s
  | some t =>
    match t.preempt, waitsFor s t with
    | none, some u => updT s tid fun t => { t with preempt := some u.tid }
    | _, _ => s

end Sys2Proof.Machine
end

