-- ==== Sys2Proof/Machine/Edge.lean ====
section
/-! DEFINITION. The meanings of the EDGE forms (R214 to R223). -/

namespace Sys2Proof.Machine

/-- R34, R231: how many cycles after the head's beat row 0 of an array is captured. -/
def captureLag (x : Arr) : Nat := linkDelay x + rowBase x

/-- R223: the arrays whose south collector captures. -/
def southTargets (s : State) : List (Fin 32) :=
  let as := tall s s.cur
  if (curA s).scChain then (as.getLast?).toList else as

/-- R215: the fault that a push to stream `q` raises as it commits: unbound, or a capability without the
write right (with its register). -/
def pushFault (x : Arr) (q : Fin 16) : Option (Nat ⊕ Nat) :=
  match x.modeOf q with
  | .unbound | .binding => some (.inl q.val)
  | .bound | .exhausted | .output =>
    if x.streams[q].cap.has Right.write then none else some (.inr x.streams[q].reg.val)

/-- R215: the checks of a pushing form over the arrays it pushes on. -/
def pushForm (p : Fin 8) (as : State → List (Fin 32)) (q : Fin 16) (s : State) (f : State → State) :
    State :=
  gated p s fun s =>
    match ((as s).filterMap fun a => pushFault (getA s a) q).head? with
    | some (.inl n) => updCur s fun x => x.schedFault 7 2 n
    | some (.inr r) => updCur s fun x => x.capFault 7 2 r
    | none => f s

/-- R20: the EDGE slot is busy for `n` beats. -/
def busyEdge (n : Nat) (s : State) : State := updCur s fun x => { x with edge := some (.plain n) }

/-- R214: the captures of `n` beats on one array, each with what it does. -/
def capturesOf (south : Bool) (now lag n : Nat) (owner : Fin 32) (use : Nat → CaptureUse) :
    List Capture :=
  (List.range n).map fun k =>
    ⟨south, now + k, now + k + lag + (if south then 63 else 0), owner, use k, 0, 0, false, 0⟩

/-- R214, R215: `n` beats of pushes on each array, 64 blocks a beat. -/
def collect (south : Bool) (as : List (Fin 32)) (q : Fin 16) (n : Nat) (s : State) : State :=
  let now := (curA s).acnt
  busyEdge n (as.foldl (fun s b =>
    let first := (curA s).nextId
    let s := enterPushes s s.cur b q (64 * n)
    updA s b fun y => { y with
      captures := y.captures ++
        (capturesOf south now (captureLag y) n s.cur fun k => .push (first + 64 * k)) }) s)

/-- R214, R223. -/
def execEcPush (p : Fin 8) (q n : Fin 16) (s : State) : Answer :=
  .next (pushForm p (fun s => tall s s.cur) q s fun s => collect false (tall s s.cur) q (n.val + 1) s)

/-- R214, R223. -/
def execScPush (p : Fin 8) (q n : Fin 16) (s : State) : Answer :=
  .next (pushForm p southTargets q s fun s => collect true (southTargets s) q (n.val + 1) s)

/-- R216. -/
def execEcDisc (p : Fin 8) (n : Fin 16) (s : State) : Answer := .next (gated p s (busyEdge (n.val + 1)))

/-- R218, R223. -/
def execEcTopk (p : Fin 8) (n : Fin 16) (s : State) : Answer :=
  .next (gated p s fun s =>
    let now := (curA s).acnt
    busyEdge (n.val + 1) (updAll s (tall s s.cur) fun y => { y with
      captures := y.captures ++
        (capturesOf false now (captureLag y) (n.val + 1) s.cur fun _ => .offer) }))

/-- R223: an EDGE form reaches the sorter of each array at its cycle. -/
def edgeCmd (c : EdgeCmd) (s : State) : State :=
  let now := (curA s).acnt
  updAll s (tall s s.cur) fun y => { y with edgeCmds := y.edgeCmds ++ [(now + linkDelay y, c)] }

/-- R217, R324: takes effect at the end of the cycle. -/
def execTkInit (p : Fin 8) (k : BitVec 8) (f : Fmt) (low : Bool) (s : State) : Answer :=
  .next (gated p s (edgeCmd (.init (k.toNat + 1) f low)))

/-- R219, R237: the merge runs for as many beats as the sorter's list takes blocks, or `most`; it sees what the forms of
earlier bundles did to its stream. -/
def Arr.startMerge (x : Arr) (q : Fin 16) (most : Nat) : Arr :=
  { x with
    edge := some (.merge q (min x.sorter.blocks most) false)
    reposition := x.reposition.map fun e => if e.q = q then { e with merge := false } else e }

/-- R209, R219: a stream without a binding, or an output stream, is refused at issue. -/
def execTkMerge (p : Fin 8) (q : Fin 16) (s : State) : Answer :=
  .next (gated p s fun s =>
    match ((tall s s.cur).filterMap fun a => popFault (getA s a) q).head? with
    | some sub => updCur s fun x => x.schedFault 7 sub q.val
    | none =>
      let now := (curA s).acnt
      updAll s (tall s s.cur) fun y =>
        if linkDelay y = 0 then y.startMerge q y.sorter.blocks
        else { y with edgeCmds := y.edgeCmds ++ [(now + linkDelay y, .merge q 64)] })

/-- R219: the bytes of a pair; an empty slot is all ones. -/
def pairBits (p : Option (BitVec 32 × BitVec 32)) : Nat :=
  match p with
  | some (k, v) => v.toNat * 2 ^ 32 + k.toNat
  | none => 2 ^ 64 - 1

/-- R220: the blocks of the list, in rank order. -/
def Sorter.listBlocks (x : Sorter) : List PReg :=
  (List.range x.blocks).map fun b => ⟨lanesOf 64 4 fun l => pairBits x.list[4 * b + l]?, x.poison⟩

/-- R220: the blocks that a `TK.READ` issued now pushes on an array: a `TK.INIT` on its way has set k. -/
def Arr.readBlocks (x : Arr) : Nat :=
  ceilDiv (x.edgeCmds.foldl (fun k e => match e.2 with
    | .init n _ _ => n
    | .merge _ _ | .read _ _ _ => k) x.sorter.k) 4

/-- R220: the blocks are the first `n` of those of the list as the form issues. -/
def Arr.startRead (x : Arr) (owner : Fin 32) (entry n : Nat) : Arr :=
  { x with edge := some (.read (x.sorter.listBlocks.take n) owner entry) }

/-- R220. -/
def execTkRead (p : Fin 8) (q : Fin 16) (s : State) : Answer :=
  .next (pushForm p (fun s => tall s s.cur) q s fun s =>
    let now := (curA s).acnt
    (tall s s.cur).foldl (fun s b =>
      let first := (curA s).nextId
      let n := (getA s b).readBlocks
      let s := enterPushes s s.cur b q n
      updA s b fun y =>
        if linkDelay y = 0 then y.startRead s.cur first n
        else { y with edgeCmds := y.edgeCmds ++ [(now + linkDelay y, .read s.cur first n)] }) s)

/-- R220: latency 1. -/
def execTkCnt (p : Fin 8) (d : Fin 32) (s : State) : Answer :=
  .next (gated p s fun s => updCur s fun x => x.ws d (w64 x.sorter.list.length))

/-- R221: latency 1. -/
def execAggRd (p : Fin 8) (d : Fin 32) (g : Fin 4) (k : AggKind) (s : State) : Answer :=
  .next (gated p s fun s => bump (updCur s fun x => x.ws d (aggValue s s.cur g k)))

/-- R222: one beat, one block on each array. -/
def execEcTmk (p : Fin 8) (q : Fin 16) (s : State) : Answer :=
  .next (pushForm p (fun s => tall s s.cur) q s fun s =>
    let now := (curA s).acnt
    busyEdge 1 ((tall s s.cur).foldl (fun s b =>
      let first := (curA s).nextId
      let s := enterPushes s s.cur b q 1
      updA s b fun y => { y with
        captures := y.captures ++
          (capturesOf false now (captureLag y) 1 s.cur fun _ => .mark first) }) s))

/-- R223: outside a chain it has no effect. -/
def execScChain (p : Fin 8) (on : Bool) (s : State) : Answer :=
  .next (gated p s fun s => updCur s fun x => if x.kind = .chain then { x with scChain := on } else x)

end Sys2Proof.Machine
end

