-- ==== Sys2Proof/Machine/Queues.lean ====
section
/-! DEFINITION. The load and store queues of a sequencer (R253 to R257) and what the agents behind them do
with a committed form: loads, stores, atomics, timelines and barriers (R137 to R148, R165 to R173). -/

namespace Sys2Proof.Machine

/-! ### Order (R137, R147, R148, R252 to R257) -/

/-- What stands before an entry of a sequencer's queues. -/
structure Ahead where
  /-- A load has not been performed. -/
  loads : Bool
  /-- An entry of the store queue cannot leave it. -/
  stuck : Bool
  /-- A form that enters neither queue has not been performed. -/
  other : Bool
  /-- Stores that have left the store queue and that no home has accepted. -/
  far : List QEntry
  deriving DecidableEq, Repr

/-- R165, R168, R250: the cluster scope of a chain task is its package scope. -/
def taskScope (s : State) (a : Fin 32) (sc : Scope) : Scope :=
  if sc = .cl ∧ (getA s a).kind ≠ .cluster then .pk else sc

/-- R252: whether a scope covers the home of an entry's access. -/
def QEntry.covered (e : QEntry) (s : State) (a : Fin 32) (sc : Scope) : Bool :=
  covers s (taskScope s a sc) (clusterOf a).val (getA s a).ctx e.cap.obj e.off

/-- A store that can or cannot leave. -/
def Ahead.store (h : Ahead) (leaves : Bool) (e : QEntry) : Ahead :=
  if leaves then { h with far := h.far ++ [e] } else { h with stuck := true }

/-- A marker that is not yet performed holds both queues. -/
def Ahead.marker (h : Ahead) (waits : Bool) : Ahead :=
  if waits then { h with loads := true, stuck := true } else h

/-- R257: an access whose bundle carries a scope. -/
def QEntry.scoped (e : QEntry) : Bool := decide (e.scope ≠ .ar)

/-- R253, R257: what stands before the entry after `e`. -/
def Ahead.pass (s : State) (a : Fin 32) (h : Ahead) (e : QEntry) : Ahead :=
  match e.op with
  | .mark => h.marker (h.loads || h.stuck)
  | .fence sc => h.marker (h.loads || h.stuck || h.far.any fun f => f.covered s a sc)
  | .store _ _ => h.store (!h.stuck) e
  | .push _ _ block => h.store (!h.stuck && block.isSome) e
  | .atomic none _ _ _ _ => h.store (!h.stuck) e
  | .atomic (some _) _ _ _ _ =>
    { h.store (!h.stuck && !h.loads && !e.scoped) e with loads := true }
  | .load _ _ | .loadPair _ | .noise _ _ => { h with loads := true, stuck := h.stuck || e.scoped }
  | .tlWait _ _ _ | .tlRead _ _ | .barWait _ _ _ | .strmDesc _ | .cpyBlock _ _ | .pop _ _ =>
    { h with loads := true }
  | .launch => { h with loads := true, other := true }
  | .tlBump | .bar _ _ _ | .barTest _ _ _ | .evSig _ | .cpyGo _ | .cpyStage _ _ | .cpbinv _ | .probe _ _ _
  | .unpin _ | .prefetch _ | .evict _ | .role _ _ _ _ => { h with other := true }

/-- What stands before an entry. -/
def ahead (s : State) (a : Fin 32) (id : Nat) : Ahead :=
  ((getA s a).before' id).foldl (Ahead.pass s a) ⟨false, false, false, []⟩

/-- R137, R257: every form committed before is performed at a scope. -/
def Ahead.performed (h : Ahead) (s : State) (a : Fin 32) (sc : Scope) : Bool :=
  !h.loads && !h.stuck && !h.other && !(h.far.any fun f => f.covered s a sc)

/-- An entry of a sequencer's queues. -/
def Arr.entry (x : Arr) (id : Nat) : Option QEntry := x.queue.find? fun e => e.id = id

/-- R286: whether an earlier access of the sequencer to the same page was answered moved and has not been sent again. -/
def movedBefore (s : State) (a : Fin 32) (e : QEntry) : Bool :=
  match objFind s (getA s a).ctx e.cap.obj with
  | none => false
  | some o => ((getA s a).before' e.id).any fun f =>
    f.moved && decide (f.cap.obj = e.cap.obj ∧ f.off / 2 ^ o.pageShift = e.off / 2 ^ o.pageShift)

/-- R249: whether the slices serve an entry's access now. -/
def QEntry.served (e : QEntry) (s : State) (a : Fin 32) (n : Nat) : Bool :=
  bytesServed s (getA s a).ctx e.cap.obj e.off n

/-- R251, R255, R257: whether the home may accept a store, atomic or reduction now. -/
def acceptable (s : State) (a : Fin 32) (e : QEntry) (n : Nat) : Bool :=
  let h := ahead s a e.id
  !e.moved && !movedBefore s a e && e.served s a n && !h.stuck && (!e.scoped || h.performed s a e.scope)
    && !((getA s a).before' e.id).any fun f => f.meets s a e.cap.obj e.off n

/-- Mark an entry as answered moved (R286). -/
def markMoved (s : State) (a : Fin 32) (id : Nat) : State :=
  updA s a fun x => { x with queue := x.queue.map fun e =>
    if e.id = id then { e with moved := true } else e }

/-- R273, R280, R344: an access that fails at the target is dropped, and the context of a task that
still runs takes the fatal error; that of a sequencer which stops or has stopped has taken its own. -/
def failAccess (s : State) (a : Fin 32) (agent sub : Nat) (obj : BitVec 24) (off : Nat) : State :=
  if (getA s a).run = .off ∨ (getA s a).halt = true then s else accessFatal s a agent sub obj off

/-! ### Loads (R140, R141, R254) -/

/-- R140: a load lands: its registers with their values, or poison. -/
def Arr.landLoad (x : Arr) (ds : List (Fin 32 × Word64)) (poisoned : Bool) : Arr :=
  if poisoned then
    Arr.consumePoison (ds.foldl (fun x d => { x with pendS := x.pendS.set d.1 false }) x)
  else ds.foldl (fun x d => x.landS d.1 d.2) x

/-- A landed form leaves the queues. -/
def landEntry (s : State) (a : Fin 32) (id : Nat) (f : Arr → Arr) : State :=
  updA (dropEntries s a [id]) a f

/-- R383: the bank or slice that holds a sector finds an error in it that it cannot correct. -/
def spoilSector (s : State) (ctx : BitVec 12) (obj : BitVec 24) (off : Nat) (bad : ReadError) : State :=
  match bad, objFind s ctx obj with
  | .stored, some e =>
    match byteHome s ctx obj e off with
    | some p => poisonSector s p
    | none => s
  | _, _ => s

/-- R383: read up to 32 bytes of one sector of an object, and meet an error. -/
def readBad (s : State) (ctx : BitVec 12) (obj : BitVec 24) (off n : Nat) (need : List Nat) (bad : ReadError) :
    State × Got :=
  match readObj (spoilSector s ctx obj off bad) ctx obj off n need with
  | (s, .value v p) => (s, .value v (p || decide (bad = .flit)))
  | r => r

/-- R244, R273, R286, R383: the answer to a read of a sequencer's entry. -/
def landRead (s : State) (a : Fin 32) (e : QEntry) (n agent : Nat) (need : List Nat) (bad : ReadError)
    (use : State → Nat → Bool → State) : State :=
  let ctx := (getA s a).ctx
  match readBad s ctx e.cap.obj e.off n need bad with
  | (s, .value v p) => use s v p
  | (s, .refused _) => use s 0 true
  | (s, .moved) => markMoved s a e.id
  | (s, .fail sub) => failAccess (dropEntries s a [e.id]) a agent sub e.cap.obj e.off

/-- R141, R254: a plain load. -/
def loadBytes (s : State) (a : Fin 32) (e : QEntry) (n : Nat) (bad : ReadError)
    (regs : Nat → List (Fin 32 × Word64)) : State :=
  match forward s a e n with
  | .wait => s
  | .value v p => landEntry s a e.id fun x => x.landLoad (regs v) p
  | .none => landRead s a e n 0 [Right.read] bad fun s v p =>
      landEntry s a e.id fun x => x.landLoad (regs v) p

/-- R253: whether an entry of the load queue may be performed. -/
def loadTurn (s : State) (a : Fin 32) (e : QEntry) : Bool :=
  !(ahead s a e.id).loads && !e.moved && !movedBefore s a e

/-- R254, R255: whether a block read has no earlier store of its sequencer to its bytes to wait for. -/
def blockTurn (s : State) (a : Fin 32) (e : QEntry) (n : Nat) : Bool :=
  loadTurn s a e && e.served s a n
    && !((getA s a).before' e.id).any fun f => f.writes && f.meets s a e.cap.obj e.off n

/-- Read `n` sectors of an object, the first sector lowest, with the poison of any; the answer is that of the first that
gives no value. -/
def readSectors (s : State) (ctx : BitVec 12) (obj : BitVec 24) (off : Nat) (need : List Nat) : Nat → State × Got
  | 0 => (s, .value 0 false)
  | n + 1 =>
    match readSectors s ctx obj off need n with
    | (s, .value lo p) =>
      match readObj s ctx obj (off + 32 * n) 32 need with
      | (s, .value v q) => (s, .value (lo + 2 ^ (256 * n) * v) (p || q))
      | r => r
    | r => r

/-- R175, R312: a `TLAUNCH` reads its record through `Hc` and submits it to the device-side queue: its header and
scalars, and the rest where the counts are within their limits. A record that runs past the capability is not whole. -/
def launchRead (s : State) (a : Fin 32) (e : QEntry) (bad : ReadError) : State :=
  let ctx := (getA s a).ctx
  let s := spoilSector s ctx e.cap.obj e.off bad
  let stop (s : State) (g : Got) : State :=
    match g with
    | .value _ _ | .refused _ => put s 0 false
    | .moved => markMoved s a e.id
    | .fail sub => failAccess (dropEntries s a [e.id]) a 0 sub e.cap.obj e.off
  let room := (e.cap.lower.toNat + e.cap.len.toNat - e.off) / 32
  match readSectors s ctx e.cap.obj e.off [Right.read] (min 16 room) with
  | (s, .value v p) =>
    let n := recordBytes (bytesOf v) / 32
    match readSectors s ctx e.cap.obj e.off [Right.read] (min n room) with
    | (s, .value v q) => put s v (!p && !q && decide (n ≤ room ∧ bad ≠ .flit))
    | (s, g) => stop s g
  | (s, g) => stop s g
where
  /-- The record goes to the queue. -/
  put (s : State) (v : Nat) (whole : Bool) : State :=
    let x := getA s a
    let prio := match taskFind s x.task with | some t => t.prio | none => 0
    let r := readRecord (bytesOf v)
    let sound := whole && paddingOk (bytesOf v) r
    { dropEntries s a [e.id] with
      deviceQueue := s.deviceQueue ++ [⟨.object x.ctx e.cap.obj e.off, x.ctx, prio, r, sound⟩] }

/-- Whether a load-queue form that `LOAD_LANDS` performs may land. -/
def loadReady (s : State) (a : Fin 32) (e : QEntry) : Bool :=
  match e.op with
  | .load _ w => loadTurn s a e && e.served s a w.bytes && decide (forward s a e w.bytes ≠ .wait)
  | .loadPair _ => loadTurn s a e && e.served s a 16 && decide (forward s a e 16 ≠ .wait)
  | .noise _ _ => loadTurn s a e
  | .launch => blockTurn s a e recordMax && (ahead s a e.id).performed s a .pk
  | _ => false

/-- R19, R138, R140, R175, R383: a load is performed and its value lands; `bad` is the error that its read meets. -/
def execLoadLands (a : Fin 32) : Nat × ReadError → State → Answer
  | (id, bad), s =>
    match (getA s a).entry id with
    | none => .next s
    | some e =>
      if loadReady s a e then
        match e.op with
        | .load d w => .next (loadBytes s a e w.bytes bad fun v => [(d, w.extend v)])
        | .loadPair d => .next (loadBytes s a e 16 bad fun v =>
            [(d, w64 v), (pairOf d, w64 (v / 2 ^ 64))])
        | .noise d v => .next (landEntry s a id fun x => x.landLoad [(d, v)] false)
        | .launch => .next (launchRead s a e bad)
        | _ => .next s
      else .next s

/-! ### Stores (R141, R215, R251) -/

/-- R379: the hop ID of the unit that holds a byte of an object. -/
def unitHop (s : State) (e : ObjEntry) (a : Nat) : BitVec 16 :=
  if a / 2 ^ 44 = 2 then
    BitVec.ofNat 16 (2 ^ 15 + ((homeCluster a).getD 0) * 2 ^ 8 + bits a 22 5)
  else if e.memside then BitVec.ofNat 16 (2 ^ 15 + 2 ^ 11 + stackOf a * 2 ^ 4)
  else match sliceOf s a with
    | some (cl, b) => BitVec.ofNat 16 (2 ^ 15 + cl * 2 ^ 8 + b)
    | none => BitVec.ofNat 16 (2 ^ 15 + 4 * 2 ^ 11 + stackOf a * 2 ^ 4)

/-- R379, R382: a report of kind 5 by the unit that serves an access of a context's task; the fields of a chunk
come from its header where the object is marked. -/
def unitReport (s : State) (ctx : BitVec 12) (tid : BitVec 32) (obj : BitVec 24) (off : Nat) : Report :=
  let blank : Header := ⟨0, 0, 0, 0, 0, 0, 0, false⟩
  let (hop, h) : BitVec 16 × Header := match objFind s ctx obj with
    | none => (0, blank)
    | some e =>
      let hop := match byteHome s ctx obj e off with
        | some p => unitHop s e p
        | none => 0
      let key := if e.marked then chunkHome s ctx obj e (off / 4096) else none
      (hop, match key with | some k => tableGet s.headers k blank | none => blank)
  { kind := 5, ctx := ctx, producer := tid, chunkId := h.chunkId, detector := hop
    lastHop := h.lastHop, hops := h.hops, format := h.format, expected := 0, observed := 0, copy := none }

/-- R379, R382: a report of kind 5 by the unit that serves an access of array `a`. -/
def agentReport (s : State) (a : Fin 32) (obj : BitVec 24) (off : Nat) : Report :=
  unitReport s (getA s a).ctx (getA s a).task obj off

/-- R382: the report of a unit, after its second mismatch. -/
def reportTwice (s : State) (twice : Bool) (r : Report) : State :=
  if twice then { s with reports := s.reports ++ [r] } else s

/-- R244, R251, R273, R286: a store is accepted at its home. `mismatches` counts the bank unit's (R382): after the second
the sector is written poisoned and a report made. -/
def storeBytes (s : State) (a : Fin 32) (e : QEntry) (n v : Nat) (poisoned : Bool) (agent : Nat) (need : List Nat)
    (mismatches : Fin 3) : State :=
  let bad := decide (mismatches.val = 2)
  match writeObj s (getA s a).ctx e.cap.obj e.off n need v (poisoned || bad) (getA s a).task with
  | (s, .done) => dropEntries (reportTwice s bad (agentReport s a e.cap.obj e.off)) a [e.id]
  | (s, .refused bank) => landEntry s a e.id fun x => x.schedTrap 12 bank
  | (s, .moved) => markMoved s a e.id
  | (s, .fail sub) => failAccess (dropEntries s a [e.id]) a agent sub e.cap.obj e.off

/-! ### Atomics (R144 to R146) -/

/-- R145, R146: the new value of an atomic operation on `w` bits. -/
def AtomOp.apply (op : AtomOp) (w old v cmp : Nat) : Nat :=
  let v := v % 2 ^ w
  match op with
  | .add => (old + v) % 2 ^ w
  | .and => old &&& v
  | .or => old ||| v
  | .xor => old ^^^ v
  | .min => if signed v w < signed old w then v else old
  | .max => if signed old w < signed v w then v else old
  | .minz => Nat.min old v
  | .maxz => Nat.max old v
  | .swap => v
  | .cas => if old = cmp % 2 ^ w then v else old
  | .fadd => (fmtF32.round .rne 0 false ((f32 old).add (f32 v)).1).1

/-- R145: the value that the destination takes. -/
def AtomOp.returned (op : AtomOp) (w old : Nat) : Word64 :=
  match op with
  | .minz | .maxz => w64 old
  | _ => if w = 32 then (BitVec.ofNat 32 old).signExtend 64 else w64 old

/-- R144 to R146, R288: the agent applies an operation. `mismatches` counts the unit checker's mismatches
on the first try and the second (R382): after the second the sector is poisoned and a report made. An error of the sector
poisons the old value, one of the answer's flit what it returns (R383). -/
def atomicBytes (s : State) (a : Fin 32) (e : QEntry) (d : Option (Fin 32)) (op : AtomOp) (four : Bool)
    (v cmp : Word64) (mismatches : Fin 3) (err : ReadError) : State :=
  let n := if four then 4 else 8
  let ctx := (getA s a).ctx
  let land (s : State) (v : Word64) (p : Bool) : State :=
    landEntry s a e.id fun x => match d with | some d => x.landLoad [(d, v)] p | none => x
  match readObj (spoilSector s ctx e.cap.obj e.off err) ctx e.cap.obj e.off n [Right.atomic] with
  | (s, .value old p) =>
    if p then land s 0 true
    else
      let new := op.apply (8 * n) old v.toNat cmp.toNat
      let bad := decide (mismatches.val = 2)
      match writeObj s ctx e.cap.obj e.off n [Right.atomic] new bad (getA s a).task with
      | (s, .done) =>
        land (sendAtomic (reportTwice s bad (agentReport s a e.cap.obj e.off)) ctx)
          (op.returned (8 * n) old) (bad || decide (err = .flit))
      | (s, _) => s
  | (s, .refused bank) =>
    match d with
    | some _ => land s 0 true
    | none => landEntry s a e.id fun x => x.schedTrap 12 bank
  | (s, .moved) => markMoved s a e.id
  | (s, .fail sub) => failAccess (dropEntries s a [e.id]) a 0 sub e.cap.obj e.off
where
  /-- R320: an operation on memory of another package goes there in a packet of class RED. -/
  sendAtomic (s : State) (ctx : BitVec 12) : State :=
    match (objFind s ctx e.cap.obj).bind fun o => remoteHome s ctx e.cap.obj o e.off with
    | some pkg =>
      sendPacket s ⟨BitVec.ofNat 10 pkg, .red, e.cap.obj, BitVec.ofNat 48 e.off, none, [(v ++ cmp).setWidth 512], []⟩
    | none => s

/-- R253: an `AMO` or `CAS` leaves both queues together. -/
def atomicReady (s : State) (a : Fin 32) (e : QEntry) : Bool :=
  match e.op with
  | .atomic d _ four _ _ =>
    acceptable s a e (if four then 4 else 8) && (d.isNone || loadTurn s a e)
  | _ => false

/-- R144: an atomic operation reaches its agent and is applied. -/
def execAtomicApplied (a : Fin 32) (id : Nat) : Fin 3 × ReadError → State → Answer
  | (mismatches, err), s =>
    match (getA s a).entry id with
    | none => .next s
    | some e =>
      if atomicReady s a e then
        match e.op with
        | .atomic d op four v cmp => .next (atomicBytes s a e d op four v cmp mismatches err)
        | _ => .next s
      else .next s

/-! ### Timelines (R165 to R167) -/

/-- R165: the value of a timeline as array `a` names it. -/
def timelineValue (s : State) (a : Fin 32) (t : Fin 20) : Word64 :=
  if t.val < 16 then
    match tongsAt s a (Fin.ofNat 16 t.val) with
    | some k => (tongsGet s k).timeline
    | none => 0
  else
    match memberAt s a (t.val - 16) with
    | some b => (getA s b).sq
    | none => 0

/-- R166: whether a wait or read of a timeline may land. -/
def tlReady (s : State) (a : Fin 32) (e : QEntry) : Bool :=
  match e.op with
  | .tlWait _ t v => loadTurn s a e && decide (v.toNat ≤ (timelineValue s a t).toNat)
  | .tlRead _ _ => loadTurn s a e
  | _ => false

/-- R166: a wait lands once the counter has reached its value; a read lands with the counter's value. -/
def execTlWaitLands (a : Fin 32) (id : Nat) (s : State) : Answer :=
  match (getA s a).entry id with
  | none => .next s
  | some e =>
    if tlReady s a e then
      match e.op with
      | .tlWait d t _ | .tlRead d t =>
        .next (landEntry s a id fun x => x.landLoad [(d, timelineValue s a t)] false)
      | _ => .next s
    else .next s

/-! ### Barriers (R168 to R173, R291 to R295, R314) -/

/-- The object of logical barrier `b`. -/
def barrierGet (s : State) (k : Fin 8 × Nat) : Barrier := vget s.clusters[k.1].barriers k.2

/-- Put a barrier object. -/
def barrierPut (s : State) (k : Fin 8 × Nat) (o : Barrier) : State :=
  updC s k.1 fun c => { c with barriers := vset c.barriers k.2 o }

/-- R314: the domain barrier that logical object `b` of the task on array `a` takes part in. -/
def domainOf (s : State) (a : Fin 32) (b : BitVec 8) : Option DomainBarrier :=
  s.domain.find? fun d => d.tid = (getA s a).task && d.localObj = b

/-- R170: whether a phase is full, with every byte posted. -/
def Barrier.full (o : Barrier) : Bool := decide (o.exp ≠ 0 ∧ o.arr = o.exp ∧ o.tx = 0)

/-- R170: the phase completes. -/
def Barrier.advance (o : Barrier) : Barrier :=
  { o with ph := o.ph + 1, arr := 0, exp := o.next, tx := 0, sent := false }

/-- R170, R314: after a change of the object: its phase completes, or the package's arrival goes to the
home of the domain barrier. -/
def Barrier.complete (o : Barrier) (domain : Bool) : Barrier :=
  if o.full then if domain then { o with sent := true } else o.advance else o

/-- R170, R171: an arrival or drop of member `g`: the object after it, or the reason of its refusal. -/
def Barrier.arrive (o : Barrier) (g : Nat) (drop domain : Bool) : Nat ⊕ Barrier :=
  if o.dropped.getLsbD (g % 4) then .inl 0
  else if o.exp = 0 then .inl 1
  else if o.arr = o.exp ∧ o.tx ≠ 0 then .inl 2
  else if drop ∧ o.next = 0 then .inl 3
  else
    let o := { o with arr := o.arr + 1, lastPh := vset o.lastPh g (some o.ph) }
    let o := if drop then { o with next := o.next - 1, dropped := o.dropped ||| BitVec.ofNat 4 (2 ^ (g % 4)) }
      else o
    .inr (o.complete domain)

/-- R172: whether a byte count fits its 41-bit field. -/
def txOk (t : Int) : Bool := decide (-(2 ^ 40) ≤ t ∧ t ≤ 2 ^ 40 - 1)

/-- R172: a change of the bytes outstanding: the object after it, or the reason of its refusal. -/
def Barrier.addTx (o : Barrier) (d : Int) (domain : Bool) : Nat ⊕ Barrier :=
  if o.exp = 0 then .inl 1
  else if txOk (o.tx + d) then .inr ({ o with tx := o.tx + d }.complete domain)
  else .inl 4

/-- R295: the detail of an over-arrival trap. -/
def overDetail (ph : BitVec 32) (b : BitVec 8) (form reason g : Nat) : Nat :=
  ph.toNat * 2 ^ 16 + b.toNat * 2 ^ 8 + form * 2 ^ 6 + reason * 2 ^ 3 + g % 4 * 2

/-- R169, R296: every wait that has reached object `b` lands: one whose phase has completed with its number, another with
2^63 OR the old phase. -/
def landWaits (s : State) (as : List (Fin 32)) (b : BitVec 8) (old : BitVec 32) : State :=
  as.foldl (fun s m =>
    (getA s m).queue.foldl (fun s e => match e.op with
      | .barWait d b' (some p) =>
        let v : Word64 := if p.toNat < old.toNat then p.setWidth 64 else w64 (2 ^ 63 + old.toNat)
        if b' = b then landEntry s m e.id fun x => x.landLoad [(d, v)] false else s
      | _ => s) s) s

/-- R169 to R172, R291 to R295: a barrier form takes effect at its object. -/
def applyBar (s : State) (a : Fin 32) (f : BarForm) (b : BitVec 8) (v : Word64) : State :=
  match barrierAt s a b with
  | none => s
  | some k =>
    let o := barrierGet s k
    let dom := (domainOf s a b).isSome
    let g := (getA s a).grpIdx
    let put (form : Nat) (r : Nat ⊕ Barrier) : State :=
      match r with
      | .inl reason => updA s a fun x => x.raise .overArrival (overDetail o.ph b form reason g)
      | .inr o' => barrierPut s k o'
    match f with
    | .init =>
      let s := barrierPut s k { Barrier.retired with exp := v.toNat, next := v.toNat }
      landWaits s (members s a) b o.ph
    | .arr => enterDomain (put 0 (o.arrive g false dom))
    | .drop => enterDomain (put 1 (o.arrive g true dom))
    | .xp => put 2 (o.addTx v.toInt dom)
where
  /-- R311: the first arrival of a domain barrier takes an entry of the table of 256; with the table full it raises resource
  exhaustion, and the supervisor carries the barrier. -/
  enterDomain (s : State) : State :=
    match domainOf s a b with
    | none => s
    | some d =>
      if d.entered then s
      else
        let full := decide (256 ≤ (s.domain.filter fun e => e.entered && !e.carried).length)
        let s := { s with domain := s.domain.map fun e =>
          if e.id = d.id then { e with entered := true, carried := full } else e }
        if full then updA s a fun x => x.raise .resource b.toNat else s

/-- R292: whether an entry is a form of barrier `b` that has not taken effect. -/
def QEntry.barForm (e : QEntry) (b : BitVec 8) : Bool :=
  match e.op with
  | .bar _ b' _ | .barTest b' _ _ | .barWait _ b' none => decide (b' = b)
  | _ => false

/-- R292: no earlier form of the sequencer on the object is on its way. -/
def barTurn (s : State) (a : Fin 32) (e : QEntry) (b : BitVec 8) : Bool :=
  !((getA s a).before' e.id).any fun f => f.barForm b

/-- R173: the value of a `BAR.TEST` of member `g`. -/
def Barrier.tested (o : Barrier) (g : Nat) : Bool :=
  match vget o.lastPh g with
  | some p => decide (p.toNat < o.ph.toNat)
  | none => false

/-- R171, R292: whether an earlier barrier form of member `g`, on its way to the object, sets or clears the member's
`LASTPH` there: a `BAR.INIT`, or an arrival that the object as it stands does not refuse. -/
def Barrier.awaits (o : Barrier) (g : Nat) (domain : Bool) : BarForm → Bool
  | .init => true
  | .arr => (o.arrive g false domain).isRight
  | .drop => (o.arrive g true domain).isRight
  | .xp => false

/-- R173, R292: the value of a `BAR.TEST` that its bound forces to the object ahead of earlier barrier forms of its member
(log entry 93): an earlier arrival of the member that is still on its way has no phase completed. -/
def testValue (s : State) (a : Fin 32) (e : QEntry) (b : BitVec 8) : Bool :=
  match barrierAt s a b with
  | none => false
  | some k =>
    let o := barrierGet s k
    let g := (getA s a).grpIdx
    o.tested g && !((getA s a).before' e.id).any fun f => match f.op with
      | .bar form b' _ => decide (b' = b) && o.awaits g (domainOf s a b).isSome form
      | _ => false

/-- R173: a `BAR.WAIT` of member `g` reaches the object: the phase it waits for, or the value with which
it lands at once on a retired object with no phase left to wait for. -/
def Barrier.reach (o : Barrier) (g : Nat) : Word64 ⊕ BitVec 32 :=
  let p := (vget o.lastPh g).getD o.ph
  if o.exp = 0 ∧ ¬ p.toNat < o.ph.toNat then .inl (w64 (2 ^ 62 + o.ph.toNat)) else .inr p

/-- R293, R314: the scope at which a form of barrier `b` is released: `.DM` on a domain barrier. -/
def barScope (s : State) (a : Fin 32) (b : BitVec 8) : Scope := if (domainOf s a b).isSome then .dm else .cl

/-- Whether a barrier form may take effect at its object. -/
def barReady (s : State) (a : Fin 32) (e : QEntry) : Bool :=
  match e.op with
  | .bar _ b _ => (ahead s a e.id).performed s a (barScope s a b) && barTurn s a e b
  | .barTest b _ due => barTurn s a e b || decide (due ≤ (getA s a).acnt)
  | .barWait _ b none => loadTurn s a e && barTurn s a e b
  | _ => false

/-- R247, R379, R382: the report of a bank unit whose operation on a barrier object mismatched twice; it writes no sector. -/
def barrierReport (s : State) (a : Fin 32) (k : Fin 8 × Nat) : Report :=
  { agentReport s a 0 0 with
    chunkId := 0, lastHop := 0, hops := 0, format := 0
    detector := BitVec.ofNat 16 (2 ^ 15 + k.1.val * 2 ^ 8 + k.2 % 32) }

/-- R382: the bank unit of barrier `b` mismatches on a form of array `a`; the second time it makes a report. -/
def barMismatch (s : State) (a : Fin 32) (b : BitVec 8) (mismatches : Fin 3) : State :=
  match barrierAt s a b with
  | some k => reportTwice s (decide (mismatches.val = 2)) (barrierReport s a k)
  | none => s

/-- R292, R382: a barrier form reaches the bank unit and takes effect; `mismatches` counts the unit's. -/
def execBarrierFormApplied (a : Fin 32) : Nat × Fin 3 → State → Answer
  | (id, mismatches), s =>
    match (getA s a).entry id with
    | none => .next s
    | some e =>
      if barReady s a e then
        match e.op with
        | .bar f b v => .next (applyBar (dropEntries (barMismatch s a b mismatches) a [id]) a f b v)
        | .barTest b d _ =>
          .next (landEntry (barMismatch s a b mismatches) a id fun x => x.landP d (testValue s a e b) id)
        | .barWait d b none =>
          match barrierAt s a b with
          | none => .next s
          | some k =>
            let s := barMismatch s a b mismatches
            match (barrierGet s k).reach (getA s a).grpIdx with
            | .inl v => .next (landEntry s a id fun x => x.landLoad [(d, v)] false)
            | .inr p => .next (updA s a fun x => { x with queue := x.queue.map fun f =>
                if f.id = id then { f with op := .barWait d b (some p) } else f })
        | _ => .next s
      else .next s

/-- R173: whether a wait's phase has completed. -/
def barWaitReady (s : State) (a : Fin 32) (e : QEntry) : Bool :=
  match e.op with
  | .barWait _ b (some p) =>
    match barrierAt s a b with
    | some k => decide (p.toNat < (barrierGet s k).ph.toNat)
    | none => false
  | _ => false

/-- R173: the waited phase has completed and the wait lands with its number. -/
def execBarWaitLands (a : Fin 32) (id : Nat) (s : State) : Answer :=
  match (getA s a).entry id with
  | none => .next s
  | some e =>
    if barWaitReady s a e then
      match e.op with
      | .barWait d _ (some p) =>
        .next (landEntry s a id fun x => x.landLoad [(d, p.setWidth 64)] false)
      | _ => .next s
    else .next s

end Sys2Proof.Machine
end

