-- ==== Sys2Proof/Machine/Copies.lean ====
section
/-! DEFINITION. Stream descriptors and fetches (R150, R151, R237) and the tongs: parameter blocks, copies,
completion (R154 to R164, R376, R378). -/

namespace Sys2Proof.Machine

/-! ### Descriptors and fetches -/

/-- R383: read 64 bytes of an object as two sectors, with the poison of either; each read meets an error of its own. -/
def readBlock (s : State) (ctx : BitVec 12) (obj : BitVec 24) (off : Nat) (bad : ReadError × ReadError) : State × Got :=
  match readBad s ctx obj off 32 [Right.read] bad.1 with
  | (s, .value lo p) =>
    match readBad s ctx obj (off + 32) 32 [Right.read] bad.2 with
    | (s, .value hi q) => (s, .value (lo + 2 ^ 256 * hi) (p || q))
    | r => r
  | r => r

/-- R150: the check of a descriptor that has arrived for a stream of array `a`. -/
def descOkFor (s : State) (a : Fin 32) (q : Stream) (b : Nat) : Bool :=
  let d := readDesc b
  descFieldsOk b
    && (if q.cap.has Right.noise then decide (d.noise.toNat ≤ 2) else decide (d.noise = 0))
    && bankGranted s a d.bank
    && decide ((vget (s.clusters[clusterOf a]).banks d.bank.val).role = .operand)
    && d.within q.cap

/-- R150, R152: the stream is bound at position 0, and the held forms are applied. -/
def Stream.bindTo (q : Stream) (b : Nat) : Stream :=
  q.held.foldl (fun q f => q.reposition q.gate f)
    { q with mode := .bound, desc := readDesc b, pos := 0, buf := [], held := [] }

/-- The first descriptor read of stream `q` in an array's queue. -/
def Arr.descEntry (x : Arr) (q : Fin 16) : Option QEntry :=
  x.queue.find? fun e => decide (e.op = .strmDesc q)

/-- Whether a bind of stream `q` still waits for pops. -/
def Arr.bindWaits (x : Arr) (q : Fin 16) : Bool :=
  x.reposition.any fun e => decide (e.q = q) &&
    match e.act with
    | .bind _ _ _ _ => true
    | .form _ => false

/-- Whether a descriptor read may be performed. -/
def descReady (s : State) (a : Fin 32) (q : Fin 16) : Bool :=
  match (getA s a).descEntry q with
  | some e => blockTurn s a e 64 && !(getA s a).bindWaits q
  | none => false

/-- R345: a descriptor read by a bind of an earlier phase arrives: the commit point, too, has the stream
bound or unbound. -/
def Arr.pointArrives (x : Arr) (s : State) (a : Fin 32) (q : Fin 16) (id : Nat) (b : Option Nat) : Arr :=
  let p := x.point.streams[q]
  let later := x.queue.any fun e => decide (e.op = .strmDesc q ∧ e.id < x.point.firstEntry)
  if x.point.firstEntry ≤ id ∨ p.mode ≠ .binding ∨ later = true then x
  else
    let st := p.restore 0
    let st := match b with
      | some b => if descOkFor s a st b then st.bindTo b else Stream.unbound
      | none => Stream.unbound
    { x with point := { x.point with streams := x.point.streams.set q st.point } }

/-- R150, R239: a stream descriptor arrives and is checked. One that a later bind of the stream has
replaced is discarded. -/
def execStreamDescriptorArrives (a : Fin 32) : Fin 16 × ReadError × ReadError → State → Answer
  | (q, bad), s =>
    match (getA s a).descEntry q with
    | none => .next s
    | some e =>
      if descReady s a q then
        match readBlock s (getA s a).ctx e.cap.obj e.off bad with
        | (s, .value b p) =>
          .next (landEntry s a e.id fun x =>
            let x := x.pointArrives s a q e.id (if p then none else some b)
            let st := x.streams[q]
            if (x.descEntry q).isSome ∨ st.mode ≠ .binding then x
            else if p then (x.setStream q Stream.unbound).consumePoison
            else if descOkFor s a st b then x.setStream q (st.bindTo b)
            else (x.setStream q Stream.unbound).schedTrap 3 q.val)
        | (s, .refused _) =>
          .next (landEntry s a e.id fun x =>
            ((x.pointArrives s a q e.id none).setStream q Stream.unbound).consumePoison)
        | (s, .moved) => .next (markMoved s a e.id)
        | (s, .fail sub) => .next (failAccess (dropEntries s a [e.id]) a 1 sub e.cap.obj e.off)
      else .next s

/-- R252: whether an entry is performed at array scope, given what stands before it. -/
def QEntry.left (e : QEntry) (s : State) (a : Fin 32) (h : Ahead) : Bool :=
  match e.op with
  | .pop _ _ => true
  | .mark => !(h.loads || h.stuck)
  | .fence sc => !(h.loads || h.stuck || h.far.any fun f => f.covered s a sc)
  | .store _ _ | .atomic none _ _ _ _ => !h.stuck
  | .push _ _ block => !h.stuck && block.isSome
  | _ => false

/-- R237: every `MEM` form that array `a` committed before entry `gate` is performed at array scope. -/
def gateOpen (s : State) (a : Fin 32) (gate : Nat) : Bool :=
  (((getA s a).before' gate).foldl (fun (r : Ahead × Bool) e =>
    (r.1.pass s a e, r.2 && e.left s a r.1)) (⟨false, false, false, []⟩, true)).2

/-- R103, R151: a block of a noise stream at an object offset. -/
def noiseBlock (q : Stream) (off : Nat) : Reg256 :=
  let f := if q.desc.noise = 0 then fmtF32 else if q.desc.noise = 1 then fmtBf16 else fmtF16
  let w := if q.desc.noise = 0 then 32 else 16
  lanesOf w (256 / w) fun l => noiseElem f q.seed q.step (8 * off / w + l)

/-- R237: the blocks that the pops and the merge which a pending reposition of stream `q` waits for still take; none
where no reposition is pending. -/
def Arr.blocksOwed (x : Arr) (q : Fin 16) : Option Nat :=
  (x.reposition.find? fun e => e.q = q).map fun e =>
    (((x.popsOf q).filter fun m => e.holds.contains (m.owner, m.entry)).map fun m => m.left * m.kind.blocks).sum
      + if e.merge then match x.edge with
          | some (.merge r n _) => if r = q then n else 0
          | some (.plain _) | some (.read _ _ _) | none => 0
        else 0

/-- R151, R237, R266, R333: whether a stream's engine may fetch its next block. A block that a pending reposition skips is
not fetched; no rule of ordering holds back a noise stream. -/
def fetchReady (s : State) (a : Fin 32) (q : Fin 16) : Bool :=
  let x := getA s a
  let st := x.streams[q]
  decide (st.mode = .bound ∧ st.buf.length < st.desc.depth)
    && !st.desc.past (st.pos + st.buf.length)
    && (match x.blocksOwed q with | some n => decide (st.buf.length < n) | none => true)
    && (st.cap.has Right.noise || st.cap.has Right.read && gateOpen s a st.gate
      && bytesServed s x.ctx st.cap.obj (st.offsetOf (st.pos + st.buf.length)) 32
      && decide ((locate s x.ctx st.cap.obj (st.offsetOf (st.pos + st.buf.length)) 32
        [Right.read, Right.stream] false).2 ≠ .moved))

/-- R383: the buffered blocks of a list are poisoned by errors that cannot be corrected. -/
def Stream.spoil (q : Stream) (bad : List Nat) : Stream :=
  { q with buf := q.buf.mapIdx fun k b => if bad.contains k then { b with poison := true } else b }

/-- R151, R237, R383: the stream engine fetches the next block of the pattern; `bad` is the error that the read meets, and
the blocks `spoilt` of the buffer have errors of their own. -/
def execStreamFetch (a : Fin 32) : Fin 16 × ReadError × List Nat → State → Answer
  | (q, bad, spoilt), s =>
    let s := if spoilt.isEmpty then s else updA s a fun x => x.setStream q (x.streams[q].spoil spoilt)
    if fetchReady s a q then
      let st := (getA s a).streams[q]
      let off := st.offsetOf (st.pos + st.buf.length)
      let ctx := (getA s a).ctx
      let put (s : State) (b : PReg) : State :=
        updA s a fun x => x.setStream q { st with buf := st.buf ++ [b] }
      if st.cap.has Right.noise then .next (put s ⟨noiseBlock st off, false⟩)
      else
        match readBad s ctx st.cap.obj off 32 [Right.read, Right.stream] bad with
        | (s, .value v p) => .next (put s ⟨BitVec.ofNat 256 v, p⟩)
        | (s, .refused _) => .next s
        | (s, .moved) => .next s
        | (s, .fail sub) => .next (failAccess s a 1 sub st.cap.obj off)
    else .next s

/-! ### Copies (R156, R157) -/

/-- Sectors, or rows of a GATHER, that a copy moves. -/
def CopyBlock.units (b : CopyBlock) : Nat :=
  match b.kind with
  | 1 => b.extent 0 * b.extent 1
  | 2 => b.extent 0 * b.extent 1 * b.extent 2
  | 3 => b.rows
  | _ => 0

/-- R156: where sector `n` of a STRIDE copy is read or written, from a start and strides. -/
def CopyBlock.sector (b : CopyBlock) (start : Nat) (stride : Nat → Int) (n : Nat) : Int :=
  let e0 := b.extent 0
  let e1 := b.extent 1
  (start : Int) + (n % e0 : Nat) * stride 0 + (n / e0 % e1 : Nat) * stride 1
    + (if b.kind = 2 then (n / (e0 * e1) : Nat) * stride 2 else 0)

/-- R156: the source offset of sector `n`. -/
def CopyBlock.srcAt (b : CopyBlock) (n : Nat) : Int := b.sector b.fromOff b.fromStride n

/-- R156: the destination offset of sector `n`. -/
def CopyBlock.dstAt (b : CopyBlock) (n : Nat) : Int := b.sector b.toOff b.toStride n

/-- Whether a window of `n` bytes at an access offset lies in a capability. -/
def Cap.holds (c : Cap) (off : Int) (n : Nat) : Bool := decide (0 ≤ off ∧ off + n ≤ (c.len.toNat : Int))

/-- R156: the validity and rights of both ends of a copy. -/
def CopyBlock.rightsOk (b : CopyBlock) : Bool :=
  b.src.valid && b.dst.valid && b.src.has Right.read && b.src.has Right.copy && b.dst.has Right.write
    && b.dst.has Right.copy

/-- R156, R160: the initial check of a STRIDE copy: none where it passes, else the fault detail. -/
def CopyBlock.strideFail (b : CopyBlock) : Option Nat :=
  if b.rightsOk then
    (List.range b.units).findSome? fun n =>
      if !b.src.holds (b.srcAt n) 32 then
        some (wrap ((b.src.lower.toNat : Int) + b.srcAt n) 64)
      else if !b.dst.holds (b.dstAt n) 32 then
        some (wrap ((b.dst.lower.toNat : Int) + b.dstAt n) 64)
      else none
  else some 0

/-- R157: the initial check of a GATHER. -/
def CopyBlock.gatherFail (b : CopyBlock) : Option Nat :=
  if b.rightsOk && b.idx.valid && b.idx.has Right.read
      && b.dst.holds b.toOff (b.rows * b.rowBytes) then none
  else some 0

/-- The object offset of an access offset within a capability. -/
def Cap.at (c : Cap) (off : Int) : Nat := ((c.lower.toNat : Int) + off).toNat

/-- R156: whether destination sector `n` of a copy is written twice, or is also a source. -/
def CopyBlock.overlaps (b : CopyBlock) (n : Nat) : Bool :=
  let t := b.dst.at (b.dstAt n)
  (List.range b.units).any fun m =>
    (decide (m ≠ n) && decide (b.dst.at (b.dstAt m) = t))
      || (decide (b.src.obj = b.dst.obj) && decide (b.src.at (b.srcAt m) = t))

/-- What reading a unit of a copy ends in. -/
inductive Moved where
  /-- The unit is read: its sectors, each with the offset it comes from, are to be written. -/
  | on (zeroed : Bool) (w : List (Nat × SectorWrite))
  /-- R157: more of a row is read, and it is not whole yet. -/
  | row (f : Nat) (l : List PReg)
  /-- R249, R286: the page is moving, or the slice has no entry free; the unit is tried again. -/
  | wait
  /-- Status 2, with a fault code and detail. -/
  | stop (code detail : Nat)
  /-- R273, R280: the access that failed. -/
  | fatal (sub : Nat) (obj : BitVec 24) (off : Nat)
  deriving DecidableEq, Repr

/-- R156, R383: sector `n` of a STRIDE copy is read. -/
def strideUnit (s : State) (a : Fin 32) (b : CopyBlock) (n : Nat) (bad : ReadError) : State × Moved :=
  let f := b.src.at (b.srcAt n)
  let free := s.freeCtr
  if !bytesServed s (getA s a).ctx b.src.obj f 32 then (s, .wait)
  else match readBad (bump s) (getA s a).ctx b.src.obj f 32 [Right.read, Right.copy] bad with
  | (s, .value v p) =>
    let v : BitVec 256 := if b.overlaps n then Config.overlapSector free n else BitVec.ofNat 256 v
    (s, .on false [(f, ⟨b.dst.at (b.dstAt n), v, p⟩)])
  | (s, .refused _) => (s, .stop 1 f)
  | (s, .moved) => (s, .wait)
  | (s, .fail sub) => (s, .fatal sub b.src.obj f)

/-- R157, R260, R383: what is read next of row `r` of a GATHER: its index, or with `part` the next sector from `f` on, after
the sectors `l`. A row that faults under policy ZERO is a row of zeros. -/
def gatherUnit (s : State) (a : Fin 32) (b : CopyBlock) (r : Nat) (part : Option (Nat × List PReg))
    (bad : ReadError) : State × Moved :=
  let ctx := (getA s a).ctx
  let n := b.rowBytes / 32
  let t := b.dst.at ((b.toOff + r * b.rowBytes : Nat) : Int)
  let fault (s : State) (code : Nat) : State × Moved :=
    if b.zeroes then (s, .on true ((List.range n).map fun k => (0, ⟨t + 32 * k, 0, false⟩))) else (s, .stop code r)
  match part with
  | none =>
    if !b.idx.holds ((b.indexOff + 4 * r : Nat) : Int) 4 then fault s 2
    else
      let io := b.idx.at ((b.indexOff + 4 * r : Nat) : Int)
      if !bytesServed s ctx b.idx.obj io 4 then (s, .wait)
      else match readBad s ctx b.idx.obj io 4 [Right.read] bad with
      | (s, .value x p) =>
        let f := b.fromOff + x * b.rowBytes
        if p then fault s 2
        else if b.src.len.toNat < f + b.rowBytes then fault s 3
        else (s, .row (b.src.at f) [])
      | (s, .refused _) => (s, .stop 1 r)
      | (s, .moved) => (s, .wait)
      | (s, .fail sub) => (s, .fatal sub b.idx.obj io)
  | some (f, l) =>
    if !bytesServed s ctx b.src.obj (f + 32 * l.length) 32 then (s, .wait)
    else match readBad s ctx b.src.obj (f + 32 * l.length) 32 [Right.read, Right.copy] bad with
    | (s, .value v p) =>
      let l := l ++ [⟨BitVec.ofNat 256 v, p⟩]
      if p then fault s 4
      else if l.length < n then (s, .row f l)
      else (s, .on false (l.mapIdx fun k v => (f + 32 * k, ⟨t + 32 * k, v.bits, v.poison⟩)))
    | (s, .refused _) => (s, .stop 1 r)
    | (s, .moved) => (s, .wait)
    | (s, .fail sub) => (s, .fatal sub b.src.obj (f + 32 * l.length))

/-! ### Completion (R159, R160) -/

/-- R154: the array whose context number `tc` of a cluster is. -/
def ownerOf (cl : Fin 8) (tc : Fin 16) : Fin 32 := ⟨4 * cl.val + tc.val % 4, by omega⟩

/-- A copy that starts, of an operation number and a block. -/
def Copy.start (opNum : Nat) (b : CopyBlock) (schedIdx blockIdx : BitVec 8) : Copy :=
  { opNum := opNum, block := b, moved := 0, ahead := [], row := none, buf := [], pairs := [], kept := false, checked := false, ended := none
    closed := 0, written := 0, zeroed := 0, schedIdx := schedIdx, blockIdx := blockIdx, sends := 0, late := false }

/-- R162: start the copy that the shadow set holds, under the next operation number. -/
def Tongs.start' (t : Tongs) : Tongs :=
  match t.block with
  | some b =>
    { t with active := some (Copy.start (t.lastOp + 1) b 0xFF 0xFF), lastOp := t.lastOp + 1, block := none
             armed := false }
  | none => { t with armed := false }

/-- R162: what follows a completion: an armed shadow copy starts, and ARMED becomes EMPTY. -/
def Tongs.after (t : Tongs) : Tongs :=
  let t := if t.shadow = .armed then { t with shadow := .empty } else t
  if t.armed then t.start' else t

/-- R159, R172: post a copy's bytes; false where the object refuses them. -/
def postBytes (s : State) (a : Fin 32) (b : BitVec 8) (n : Nat) : State × Bool :=
  match barrierAt s a b with
  | none => (s, true)
  | some k =>
    match (barrierGet s k).addTx (-(n : Int)) (domainOf s a b).isSome with
    | .inr o => (barrierPut s k o, true)
    | .inl _ => (s, false)

/-- R363: whether a destination is a window of a reduction group. -/
def isWindow (s : State) (a : Fin 32) (b : CopyBlock) : Bool :=
  match objFind s (getA s a).ctx b.dst.obj with
  | some e => e.window s
  | none => false

/-- R157, R363: where row `r` of a GATHER begins in its source, by its index as memory holds it; none where the row would
fault. -/
def gatherRow (s : State) (a : Fin 32) (b : CopyBlock) (r : Nat) : Option Nat :=
  let ctx := (getA s a).ctx
  let io := b.indexOff + 4 * r
  if !b.idx.holds (io : Int) 4 then none
  else match (readObj { s with freeCtr := s.freeCtr + r } ctx b.idx.obj (b.idx.at (io : Int)) 4 [Right.read]).2 with
    | .value x p =>
      let f := b.fromOff + x * b.rowBytes
      if p ∨ b.src.len.toNat < f + b.rowBytes then none else some (b.src.at (f : Int))
    | .refused _ | .moved | .fail _ => none

/-- R363: where a copy of 128 sectors that ascend without a gap begins in its source; none for any other copy. -/
def straightFrom (s : State) (a : Fin 32) (b : CopyBlock) : Option Nat :=
  if b.kind = 3 then
    if b.rows * b.rowBytes = 4096 then
      match gatherRow s a b 0 with
      | some f => if (List.range b.rows).all fun r => gatherRow s a b r = some (f + r * b.rowBytes) then some f else none
      | none => none
    else none
  else
    let f := b.src.at (b.srcAt 0)
    let t := b.dst.at (b.dstAt 0)
    if b.units = 128 ∧ ((List.range 128).all fun k =>
        decide (b.src.at (b.srcAt k) = f + 32 * k ∧ b.dst.at (b.dstAt k) = t + 32 * k)) = true then some f
    else none

/-- R363: where the chunk of a copy into a window begins in its source, where the copy meets the conditions. -/
def windowFrom (s : State) (a : Fin 32) (b : CopyBlock) : Option Nat :=
  let ctx := (getA s a).ctx
  let t := b.dst.at (b.dstAt 0)
  match objFind s ctx b.src.obj, objFind s ctx b.dst.obj, straightFrom s a b with
  | some e, some d, some f =>
    match s.groups.find? fun g => g.number.toNat = d.group with
    | some g =>
      if e.marked = true ∧ f % 4096 = 0 ∧ t % 4096 = 0 ∧ t / 4096 < g.chunks
          ∧ (g.members.any fun m => m.1 = s.pkgnum) = true then some f
      else none
    | none => none
  | _, _, _ => none

/-- R156, R157, R363: the initial check of a copy: none where it passes, else the fault detail. -/
def copyFail (s : State) (a : Fin 32) (b : CopyBlock) : Option Nat :=
  match if b.kind = 3 then b.gatherFail else b.strideFail with
  | some d => some d
  | none => if isWindow s a b && (windowFrom s a b).isNone then some 0 else none

/-- R156, R157, R363: the initial check is made once, as the copy starts. -/
def checkStart (s : State) (cl : Fin 8) (tc : Fin 16) : State :=
  let t := vget s.clusters[cl].tongs tc.val
  match t.active with
  | none => s
  | some c =>
    if c.checked then s
    else
      let a := ownerOf cl tc
      let ended := (copyFail s a c.block).map fun d => (2, 1, d)
      let row := if isWindow s a c.block then (windowFrom s a c.block).map fun f => (f, []) else none
      let s := if isWindow s a c.block ∧ c.block.kind = 3 then { s with freeCtr := s.freeCtr + c.block.rows } else s
      putTongs s cl tc.val { t with active := some { c with checked := true, ended := ended, row := row } }

/-- R159, R172: the first part of a completion, unless it is done: the copy's bytes are posted. A cancelled copy posts none.
The answer is the copy after it, its fault code, and whether it posted. A copy that has stopped with a code keeps it where its
post finds the object retired (log entry 87). -/
def closePost (s : State) (a : Fin 32) (c : Copy) (status code : Nat) (twice : Bool) : State × Copy × Nat × Bool :=
  if c.closed ≠ 0 then (s, c, code, false)
  else if c.block.posts ∧ status ≠ 3 then
    match barrierAt s a c.block.barrier with
    | none => (s, { c with closed := 1 }, code, false)
    | some k =>
      let (s, posted) := postBytes (reportTwice s twice (barrierReport s a k)) a c.block.barrier c.written
      (s, { c with closed := 1 }, if posted ∨ code ≠ 0 then code else 5, true)
  else (s, { c with closed := 1 }, code, false)

/-- R159, R162: the last part of a completion: the timeline is set, and the armed copy starts. -/
def closeCopy (s : State) (cl : Fin 8) (tc : Fin 16) (c : Copy) : State :=
  let t := vget s.clusters[cl].tongs tc.val
  checkStart (putTongs s cl tc.val ({ t with active := none, timeline := w64 c.opNum }.after)) cl tc

/-- R159, R160, R260: a copy that is done or has ended goes on to complete: its bytes are posted, its record is written, one
half of it now and the other when the tongs next move it, its timeline is set, and the armed copy starts. Where the record's
page is moving or its slice has no entry free, the copy waits to complete (R249, R286); a record that fails its checks there is the fatal error of R273 or R280. A
record whose bank has another role is dropped (log entry 85). `mismatches` counts the bank unit's that is posted to, or where
nothing is, that of the record's half (R382). One that is done keeps its status where its post fails (log entry 87). -/
def finishCopy (s : State) (cl : Fin 8) (tc : Fin 16) (c : Copy) (status code detail : Nat) (mismatches : Fin 3) : State :=
  let a := ownerOf cl tc
  let twice := decide (mismatches.val = 2)
  let (s, c, code, posted) := closePost s a c status code twice
  let c : Copy := { c with ended := some (status, code, detail) }
  let t := vget s.clusters[cl].tongs tc.val
  let keep (s : State) (c : Copy) : State :=
    putTongs s cl tc.val { vget s.clusters[cl].tongs tc.val with active := some c }
  if t.ringEntries = 0 then closeCopy s cl tc c
  else
    let bad := twice && !posted
    let off := t.recordAt c.opNum + if c.closed = 2 then 32 else 0
    if !bytesServed s (getA s a).ctx t.ring.obj off 32 then keep s c
    else match writeHalf s (getA s a).ctx (getA s a).task t c status code detail (decide (c.closed = 2)) bad with
    | (s, .moved) => keep s c
    | (s, .fail sub) => failAccess (keep s c) a 4 sub t.ring.obj off
    | (s, .done) =>
      let s := reportTwice s bad (agentReport s a t.ring.obj off)
      if c.closed = 2 then closeCopy s cl tc c else keep s { c with closed := 2 }
    | (s, .refused _) => if c.closed = 2 then closeCopy s cl tc c else keep s { c with closed := 2 }

/-! ### Whole marked chunks (R376, R378) -/

/-- R376: the chunks, source and destination, of a copy that has moved one whole aligned chunk: their offsets. -/
def Copy.chunks (c : Copy) : Option (Nat × Nat) :=
  match c.pairs with
  | [] => none
  | (f, w) :: _ =>
    let f := f / 4096 * 4096
    let t := w.off / 4096 * 4096
    let whole := (List.range 128).all fun k => c.pairs.any fun e => decide (e.1 = f + 32 * k ∧ e.2.off = t + 32 * k)
    if whole && decide (c.pairs.length = 128 ∧ c.zeroed = 0) then some (f / 4096, t / 4096) else none

/-- R371: a header as its 32 bytes. -/
def Header.pack (h : Header) : Nat :=
  h.chunkId.toNat + h.mark.toNat * 2 ^ 64 + h.producer.toNat * 2 ^ 128 + h.format.toNat * 2 ^ 160
    + h.hops.toNat * 2 ^ 168 + h.lastHop.toNat * 2 ^ 176 + h.flags.toNat * 2 ^ 192

/-- R371: the header that 32 bytes hold. -/
def Header.unpack (n : Nat) : Header :=
  { chunkId := BitVec.ofNat 64 n, mark := BitVec.ofNat 64 (n / 2 ^ 64), producer := BitVec.ofNat 32 (n / 2 ^ 128)
    format := BitVec.ofNat 8 (n / 2 ^ 160), hops := BitVec.ofNat 8 (n / 2 ^ 168), lastHop := BitVec.ofNat 16 (n / 2 ^ 176)
    flags := BitVec.ofNat 16 (n / 2 ^ 192), lost := false }

/-- R371: whether a format code is one that occurs. -/
def chunkFormatOk (f : Nat) : Bool := decide (f ≤ 12 ∨ f = 16)

/-- R285, R287, R371: the header of a chunk that comes from another package, in a form that occurs. -/
def arrivedHeader (free key : Nat) : Header :=
  let n := (Config.arrivedHeader free key).toNat
  let hops := BitVec.ofNat 8 (n / 2 ^ 168)
  { chunkId := BitVec.ofNat 64 n
    mark := mkMark (bits n 64 32 % markPrime, bits n 96 32 % markPrime)
    producer := BitVec.ofNat 32 (n / 2 ^ 128)
    format := if chunkFormatOk (bits n 160 5) then BitVec.ofNat 8 (bits n 160 5) else 16
    hops := hops, lastHop := if hops = 0 then 0 else BitVec.ofNat 16 (n / 2 ^ 176)
    flags := BitVec.ofNat 16 (bits n 192 2), lost := false }

/-- R376, R396: whether the sectors of a copy may make up a whole chunk that goes to another package: they leave once all are
moved, together where they do. -/
def heldChunk (s : State) (a : Fin 32) (c : Copy) (off : Nat) : Bool :=
  let ctx := (getA s a).ctx
  let per := if c.block.kind = 3 then c.block.rowBytes / 32 else 1
  decide (c.block.units * per = 128) && match objFind s ctx c.block.src.obj, objFind s ctx c.block.dst.obj with
    | some e, some d => e.marked && d.marked && (remoteHome s ctx c.block.dst.obj d off).isSome
    | _, _ => false

/-- R376: a copy of one whole aligned chunk between marked objects: the key of the source's header, where it is on this
package, that of the destination's, the destination's entry and its chunk. -/
def chunkCopy (s : State) (a : Fin 32) (c : Copy) : Option (Option Nat × Nat × ObjEntry × Nat) :=
  let ctx := (getA s a).ctx
  match c.chunks, objFind s ctx c.block.src.obj, objFind s ctx c.block.dst.obj with
  | some (f, t), some e, some d =>
    if e.marked ∧ d.marked then
      (chunkHome s ctx c.block.dst.obj d t).map fun y => (chunkHome s ctx c.block.src.obj e f, y, d, t)
    else none
  | _, _, _ => none

/-- The physical addresses of the sectors of a chunk of an object, in order. -/
def chunkSectors (s : State) (ctx : BitVec 12) (obj : BitVec 24) (e : ObjEntry) (chunk : Nat) : List Nat :=
  (List.range 128).filterMap fun k => byteHome s ctx obj e (4096 * chunk + 32 * k)

/-- The bytes at a list of sectors, the first sector lowest. -/
def sectorBytes (s : State) (l : List Nat) : Nat := packLanes 256 (l.map fun a => bytesAt s a 32)

/-- Whether any of a list of sectors is poisoned. -/
def sectorsPoisoned (s : State) (l : List Nat) : Bool := l.any fun a => (readPhys s a 32).2

/-- R378: poison a list of sectors. -/
def poisonSectors (s : State) (l : List Nat) : State := l.foldl poisonSector s

/-- R370: the bytes of a chunk as its touchmark counts them: zero beyond the object's size. -/
def ObjEntry.cut (e : ObjEntry) (chunk v : Nat) : Nat := v % 2 ^ (8 * min 4096 (e.size - 4096 * chunk))

/-- R376, R383: whether a formed mark differs from a header's; that of a header with an error always does. -/
def Header.differs (h : Header) (formed : BitVec 64) : Bool := h.lost || decide (formed ≠ h.mark)

/-- R378, R383: the report of a local verifier. -/
def Header.report (h : Header) (ctx : BitVec 12) (hop : BitVec 16) (formed : BitVec 64) : Report :=
  { kind := 4, ctx := ctx, producer := h.producer, chunkId := h.chunkId, detector := hop, lastHop := h.lastHop
    hops := h.hops, format := h.format, expected := h.mark, observed := if h.lost then 0 else formed, copy := none }

/-- R371: one more hop, at most 255. -/
def nextHop (n : BitVec 8) : BitVec 8 := if n = 255 then 255 else n + 1

/-- R376, R378: the destination's header home verifies a chunk of an object against the header that comes with it, and
writes its header. A payload with poison is not compared. -/
def verifyChunk (s : State) (ctx : BitVec 12) (obj : BitVec 24) (h : Header) (dst : Nat) (e : ObjEntry) (chunk : Nat) :
    State :=
  let l := chunkSectors s ctx obj e chunk
  let formed := touchmark h.format.toNat (e.cut chunk (sectorBytes s l))
  let poisoned := sectorsPoisoned s l
  let hop := unitHop s e dst
  let bad := !poisoned && h.differs formed
  let h' : Header := { h with
    hops := nextHop h.hops, lastHop := hop, mark := formed, flags := if poisoned || bad then 1 else 0, lost := false }
  let s := { s with headers := tableSet s.headers dst h'
                    markMsgs := s.markMsgs.filter fun m => m.chunk != dst }
  if bad then
    let s := poisonSectors s l
    { s with reports := s.reports ++ [h.report ctx hop formed] }
  else s

/-! ### Moving a copy's sectors (R156, R157, R260) -/

/-- The first unit at or after `m` that is not in a list. -/
def passed (ahead : List Nat) : Nat → Nat → Nat
  | 0, m => m
  | n + 1, m => if ahead.contains m then passed ahead n (m + 1) else m

/-- The unit that a copy reads next: any that is left of a STRIDE copy; the rows of a GATHER in order. -/
def Copy.nextUnit (c : Copy) (k : Nat) : Nat :=
  let n := c.moved + k % (c.block.units - c.moved)
  if c.block.kind = 3 ∨ c.ahead.contains n = true then c.moved else n

/-- Unit `n` of a copy has been read. -/
def Copy.take (c : Copy) (n : Nat) (zeroed : Bool) (w : List (Nat × SectorWrite)) : Copy :=
  let ahead := n :: c.ahead
  let moved := passed ahead ahead.length c.moved
  let per := if c.block.kind = 3 then c.block.rowBytes / 32 else 1
  { c with
    moved := moved, ahead := ahead.filter fun m => decide (moved ≤ m), row := none, buf := c.buf ++ w.map fun e => e.2
    pairs := if c.block.units * per = 128 then c.pairs ++ w else []
    zeroed := c.zeroed + if zeroed then 1 else 0 }

/-- Whether a copy has units left to read. -/
def Copy.reading (c : Copy) : Bool := c.ended.isNone && decide (c.moved < c.block.units)

/-- R160: the fault detail of a copy whose write to an object offset is refused: the offset, or the row of a GATHER. -/
def Copy.detailOf (c : Copy) (off : Nat) : Nat :=
  if c.block.kind = 3 then (off - c.block.dst.at (c.block.toOff : Int)) / c.block.rowBytes else off

/-- Whether an access of a copy to a sector of its destination goes to another package. -/
def outward (s : State) (a : Fin 32) (c : Copy) (off : Nat) : Bool :=
  match (locate s (getA s a).ctx c.block.dst.obj off 32 [Right.write, Right.copy] true).2 with
  | .remote _ => true
  | .phys _ _ | .moved | .fail _ => false

/-- R156, R157: a sector that a copy has read is written. -/
def sectorOut (s : State) (a : Fin 32) (c : Copy) (w : SectorWrite) (twice : Bool) : State × Put :=
  writeObj s (getA s a).ctx c.block.dst.obj w.off 32 [Right.write, Right.copy] w.value.toNat (w.poison || twice)
    (getA s a).task

/-- R376, R396: the sectors of a copy to another package that were kept leave: as one packet with the source's header where
they are a whole chunk, else each in a packet of its own. -/
def sendHeld (s : State) (a : Fin 32) (c : Copy) : State :=
  let ctx := (getA s a).ctx
  let obj := c.block.dst.obj
  if !c.kept then s
  else
    match c.ended, c.chunks, objFind s ctx c.block.src.obj, objFind s ctx obj with
    | none, some (f, t), some e, some d =>
      if !heldChunk s a c (4096 * t) then each
      else
        let h := ((chunkHome s ctx c.block.src.obj e f).bind (headerNow s)).getD (arrivedHeader s.freeCtr (4096 * f))
        let l := (List.range 128).filterMap fun k => (c.pairs.find? fun e => e.2.off = 4096 * t + 32 * k).map Prod.snd
        let flits := (List.range 64).map fun k =>
          BitVec.ofNat 512 (packLanes 256 (((l.drop (2 * k)).take 2).map fun w => w.value.toNat))
        let pkg := (remoteHome s ctx obj d (4096 * t)).getD 0
        sendPacket s ⟨BitVec.ofNat 10 pkg, .req, obj, BitVec.ofNat 48 (4096 * t), some (BitVec.ofNat 256 h.pack), flits
          , (List.range 128).filter fun k => l[k]?.any fun w => w.poison⟩
    | _, _, _, _ => each
where
  /-- Each sector is written on its own. -/
  each : State := c.pairs.foldl (fun s e => (sectorOut s a c e.2 false).1) s

/-- R156, R157, R260: one move of a copy: a sector, or the index of a row, is read, or one of the sectors read is written,
as a free value picks. `bad` is the error that a read meets, `mismatches` counts the bank unit's that is written to: after
the second the sector is written poisoned and a report made (R382, R383). -/
def copyMove (s : State) (a : Fin 32) (c : Copy) (bad : ReadError) (mismatches : Fin 3) : State × Copy × Option Moved :=
  let k := Config.pick s.freeCtr
  let s := bump s
  if c.reading && (c.buf.isEmpty || decide (k % 2 = 0)) then
    let n := c.nextUnit (k / 2)
    match if c.block.kind = 3 then gatherUnit s a c.block n c.row bad else strideUnit s a c.block n bad with
    | (s, .on z w) => (s, c.take n z w, none)
    | (s, .row f l) => (s, { c with row := some (f, l) }, none)
    | (s, m) => (s, c, some m)
  else
    let j := k / 2 % c.buf.length
    match c.buf[j]? with
    | none => (s, c, none)
    | some w =>
      let twice := decide (mismatches.val = 2)
      if !bytesServed s (getA s a).ctx c.block.dst.obj w.off 32 then (s, c, some .wait)
      else if heldChunk s a c w.off && outward s a c w.off then
        (s, { c with buf := c.buf.eraseIdx j, written := c.written + 32, kept := true }, none)
      else match sectorOut s a c w twice with
      | (s, .done) =>
        (reportTwice s twice (agentReport s a c.block.dst.obj w.off)
          , { c with buf := c.buf.eraseIdx j, written := c.written + 32 }, none)
      | (s, .refused _) => (s, { c with buf := [] }, some (.stop 1 (c.detailOf w.off)))
      | (s, .moved) => (s, c, some .wait)
      | (s, .fail sub) => (s, c, some (.fatal sub c.block.dst.obj w.off))

/-- The moves that an event makes before it ends: the copy after them, and what ended it. The first meets the errors. -/
def moveUnits (s : State) (a : Fin 32) (c : Copy) (bad : ReadError) (mismatches : Fin 3) :
    Nat → State × Copy × Option Moved
  | 0 => (s, c, none)
  | n + 1 =>
    match copyMove s a c bad mismatches with
    | (s, c, none) => moveUnits s a c .clean 0 n
    | r => r

/-- R376: the destination verifies the chunk that a copy has moved whole. The header of a source on another package comes
with its sectors (log entry 108). -/
def verifyCopied (s : State) (a : Fin 32) (c : Copy) : State :=
  let ctx := (getA s a).ctx
  match chunkCopy s a c with
  | none => s
  | some (some x, y, e, k) =>
    match headerNow s x with
    | some h => verifyChunk s ctx c.block.dst.obj h y e k
    | none => s
  | some (none, y, e, k) => verifyChunk (bump s) ctx c.block.dst.obj (arrivedHeader s.freeCtr y) y e k

/-- R159: a copy whose sectors are all written completes; so does one that has ended, once what it read before is
written. -/
def settleCopy (s : State) (cl : Fin 8) (tc : Fin 16) (c : Copy) (mismatches : Fin 3) : State :=
  let waits := c.kept && decide (c.closed = 0) && c.pairs.any fun e =>
    decide ((locate s (getA s (ownerOf cl tc)).ctx c.block.dst.obj e.2.off 32 [Right.write, Right.copy] true).2 = .moved)
  if !c.buf.isEmpty || waits then s
  else
    match c.ended with
    | some (status, code, d) =>
      finishCopy (if c.closed = 0 then sendHeld s (ownerOf cl tc) c else s) cl tc c status code d mismatches
    | none =>
      if c.moved = c.block.units then
        finishCopy (verifyCopied (sendHeld s (ownerOf cl tc) c) (ownerOf cl tc) c) cl tc c (if c.zeroed = 0 then 0 else 1) 0 0 mismatches
      else s

/-- R382: the tongs address unit has mismatched twice at the next sector: the copy stops, and a report is made. -/
def tongsMismatch (s : State) (cl : Fin 8) (tc : Fin 16) (c : Copy) : State :=
  let a := ownerOf cl tc
  let hop := BitVec.ofNat 16 (2 ^ 15 + 2 * 2 ^ 11 + cl.val * 2 ^ 8 + tc.val / 4)
  let s := { s with reports := s.reports ++ [{
    kind := 5, ctx := (getA s a).ctx, producer := (getA s a).task, chunkId := 0, detector := hop, lastHop := 0
    hops := 0, format := 0, expected := 0, observed := 0, copy := none }] }
  let d := if c.block.kind = 3 then c.moved else c.block.src.at (c.block.srcAt c.moved)
  finishCopy s cl tc { c with buf := [] } 2 1 d 0

/-- R159, R260, R382, R383: a copy makes up to `moves` moves, and goes on to complete when all is done. `mismatch`: the
tongs address unit mismatches twice at the next sector; and what the first move meets, or the completion where the copy has no
move left. A copy into a window completes when its result lands (R366). -/
def execCopyCompletes (cl : Fin 8) (tc : Fin 16) (moves : Nat) : Bool × ReadError × Fin 3 → State → Answer
  | (mismatch, bad, mismatches), s =>
    let a := ownerOf cl tc
    match (vget s.clusters[cl].tongs tc.val).active with
    | none => .next s
    | some c =>
      let window := isWindow s a c.block && c.ended.isNone
      let idle := !c.reading && c.buf.isEmpty
      if mismatch && c.ended.isNone && decide (c.moved < c.block.units ∧ c.sends = 0) then .next (tongsMismatch s cl tc c)
      else if window then .next s
      else
        let (s, c, m) := moveUnits s a c bad mismatches moves
        let c := match m with
          | some (.stop code d) => { c with ended := some (2, code, d) }
          | some (.fatal _ _ _) | some .wait | some (.on _ _) | some (.row _ _) | none => c
        let t := vget s.clusters[cl].tongs tc.val
        let s := putTongs s cl tc.val { t with active := some c }
        match m with
        | some (.fatal sub obj off) => .next (failAccess s a 4 sub obj off)
        | some (.stop _ _) | some .wait | some (.on _ _) | some (.row _ _) | none =>
          .next (settleCopy s cl tc c (if idle then mismatches else 0))

/-! ### Commands to a context (R158, R161 to R164) -/

/-- R158: a RING block sets the context's ring. -/
def Tongs.setRing (t : Tongs) (b : CopyBlock) : Tongs :=
  { t with ring := b.src, ringOff := b.fromOff, ringEntries := b.ringEntries }

/-- R345: a block read by a `CPY.SET` of an earlier phase arrives: the commit point, too, has it. -/
def blockPoint (s : State) (a : Fin 32) (e : QEntry) (n : Fin 16) (b : Option CopyBlock) : State :=
  let set (x : Arr) : Arr :=
    let k : Fin 4 := Fin.ofNat 4 (n.val / 4)
    let p := x.point.tongs[k]
    let p' : TongsPoint := match b with
      | some b => { p with block := some b }
      | none => { p with shadow := .empty, block := none }
    { x with point := { x.point with tongs := x.point.tongs.set k p' } }
  if e.id < (getA s a).point.firstEntry ∧ n.val % 4 = (getA s a).grpIdx then updA s a set else s

/-- R161, R162, R163: the block of a `CPY.SET` of context `n` arrives. A copy block on a scheduled context is the schedule
fault that it would have been at commit (log entry 84). -/
def blockArrives (s : State) (a : Fin 32) (e : QEntry) (n : Fin 16) (caps : Vector Cap 16)
    (bad : ReadError × ReadError) : State :=
  match tongsAt s a n with
  | none => dropEntries s a [e.id]
  | some k =>
    let clear (s : State) : State :=
      putTongs (blockPoint s a e n none) k.1 k.2
        { tongsGet s k with shadow := .empty, block := none, armed := false }
    match readBlock s (getA s a).ctx e.cap.obj e.off bad with
    | (s, .value v p) =>
      let b := mkBlock v fun h => vget caps h
      if p then landEntry (clear s) a e.id Arr.consumePoison
      else if !b.ok s (ownerOf k.1 (Fin.ofNat 16 k.2)) then
        landEntry (clear s) a e.id fun x => x.schedTrap 4 n.val
      else if b.kind = 4 then dropEntries (putTongs s k.1 k.2 ((tongsGet s k).setRing b)) a [e.id]
      else if (tongsGet s k).schedule.isSome then landEntry s a e.id fun x => x.schedTrap 5 n.val
      else
        let s := blockPoint s a e n (some b)
        dropEntries (putTongs s k.1 k.2 { tongsGet s k with block := some b }) a [e.id]
    | (s, .refused _) => landEntry (clear s) a e.id Arr.consumePoison
    | (s, .moved) => markMoved s a e.id
    | (s, .fail sub) => failAccess (dropEntries s a [e.id]) a 0 sub e.cap.obj e.off

/-- R158, R162: a `CPY.GO` is processed: the copy starts, or waits armed for the active one. With no block it starts
nothing; where no copy is active or to come then, a later `CPY.GO` that found the context busy with it has made ARMED of
what is EMPTY (log entry 86). `later`: whether each `CPY.GO` still to be processed starts a copy. -/
def Tongs.go (t : Tongs) (later : List Bool) : Tongs :=
  match t.block, t.active with
  | none, some _ => t
  | none, none =>
    { t with shadow := if t.shadow = .armed ∧ later.dropLast.any id = false then .empty else t.shadow }
  | some _, some _ => { t with armed := true }
  | some _, none => t.start'

/-- R164: discard the cached copies of a block that the task's contexts hold. -/
def dropCached (s : State) (a : Fin 32) (i : BitVec 8) : State :=
  (mates s a).foldl (fun s m => (tongsOf m).foldl (fun s k =>
    let t := vget s.clusters[clusterOf m].tongs k
    putTongs s (clusterOf m) k { t with cache := tableErase t.cache i.toNat }) s) s

/-- R162: whether the commands that any sequencer committed to context `n` before an entry have been processed, and no copy
waits armed there, whose block the next would replace. -/
def commandTurn (s : State) (a : Fin 32) (e : QEntry) (n : Fin 16) : Bool :=
  match tongsAt s a n with
  | none => true
  | some k =>
    let t := tongsGet s k
    !t.armed && (((t.pending s).takeWhile fun p => decide ((p.1, p.2.id) ≠ (a, e.id))).isEmpty)

/-- R162: whether a command to a tongs context may be processed: those before it on the context have been. -/
def commandReady (s : State) (a : Fin 32) (e : QEntry) : Bool :=
  match e.op with
  | .cpyBlock n _ => blockTurn s a e 64 && commandTurn s a e n
  | .cpyGo n => (ahead s a e.id).performed s a .cl && commandTurn s a e n
  | .cpyStage _ _ | .cpbinv _ => (ahead s a e.id).performed s a .cl
  | _ => false

/-- R161 to R164: a command reaches its tongs context: the block of a `CPY.SET` arrives and is checked,
or a `CPY.GO`, `CPY.STAGE` or `CPBINV` is processed. -/
def execCopyBlockArrives (a : Fin 32) : Nat × ReadError × ReadError → State → Answer
  | (id, bad), s =>
    match (getA s a).entry id with
    | none => .next s
    | some e =>
      if commandReady s a e then
        let s' := dropEntries s a [id]
        let onTongs (n : Fin 16) (f : Tongs → Tongs) : State :=
          match tongsAt s a n with
          | some k => putTongs s' k.1 k.2 (f (tongsGet s k))
          | none => s'
        match e.op with
        | .cpyBlock n caps => .next (blockArrives s a e n caps bad)
        | .cpyGo n =>
          let s'' := onTongs n fun t => if (getA s a).run = .off then t else t.go (t.starts s')
          .next (match tongsAt s a n with
            | some k => checkStart s'' k.1 (Fin.ofNat 16 k.2)
            | none => s'')
        | .cpyStage n st => .next (onTongs n fun t => { t with released := max t.released st })
        | .cpbinv i => .next (dropCached s' a i)
        | _ => .next s
      else .next s

/-! ### Schedules (R161, R163, R164) -/

/-- R350: the task of an array is parked whole, so entries not yet started wait. -/
def parkedWhole (s : State) (a : Fin 32) : Bool :=
  (mates s a).any (fun m => (getA s m).run = .parked)
    && (mates s a).all fun m => decide ((getA s m).run = .parked ∨ (getA s m).run = .ended)

/-- R126: whether every sequencer of an array's group has committed its `TEND`, with its steps and forms done: entries that
have not started then never start. -/
def groupClosing (s : State) (a : Fin 32) : Bool :=
  (mates s a).all fun m =>
    decide ((getA s m).run = .ended) && stepsDone s m && !(getA s m).outstanding && (getA s m).captures.isEmpty

/-- R126, R161: the entry that a scheduled context may start now: its number and its block's index. -/
def dueEntry (s : State) (cl : Fin 8) (tc : Fin 16) : Option (Nat × Nat) :=
  let t := vget s.clusters[cl].tongs tc.val
  let a := ownerOf cl tc
  match t.schedule, t.active with
  | some l, none =>
    match l[t.schedIdx]? with
    | some (stage, idx) =>
      if stage ≤ t.released ∧ (getA s a).run ≠ .off ∧ parkedWhole s a = false ∧ groupClosing s a = false then
        some (t.schedIdx, idx)
      else none
    | none => none
  | _, _ => none

/-- R164: the copies of block `i` that the cluster's tongs have cached for the task of an array. -/
def cachedCopies (s : State) (a : Fin 32) (i : Nat) : List (BitVec 512) :=
  ((mates s a).filter fun m => clusterOf m = clusterOf a).flatMap fun m =>
    (tongsOf m).filterMap fun k => tableFind (vget s.clusters[clusterOf m].tongs k).cache i

/-- R164: the copy that a half of a block is taken from; none for memory. -/
def halfFrom (free : Nat) (high : Bool) (cached : List (BitVec 512)) : Option Nat :=
  let k := if cached.isEmpty then 0 else Config.cachedHalf free high % (cached.length + 1)
  if k = 0 then none else (cached[k - 1]?).map fun c => bits c.toNat (if high then 256 else 0) 256

/-- R163, R164, R383: a parameter block, each half from memory or from a cached copy, with the poison of what is used. -/
def readHalves (s : State) (ctx : BitVec 12) (obj : BitVec 24) (off : Nat) (cached : List (BitVec 512))
    (bad : ReadError × ReadError) : State × Got :=
  let half (s : State) (high : Bool) : State × Got :=
    match halfFrom s.freeCtr high cached with
    | some v => (s, .value v false)
    | none => readBad s ctx obj (if high then off + 32 else off) 32 [Right.read] (if high then bad.2 else bad.1)
  match half s false with
  | (s, .value lo p) =>
    match half s true with
    | (s, .value hi q) => (bump s, .value (lo + 2 ^ 256 * hi) (p || q))
    | r => r
  | r => r

/-- R155: the capability that the launch record grants in a register. -/
def grantedCap (t : Task) (h : Nat) : Cap :=
  match t.caps.find? fun e => e.1.val = h with
  | some e => e.2
  | none => Cap.none

/-- R161, R163, R164: a scheduled entry reads its block and starts. A block that arrives poisoned is used for nothing. -/
def execScheduledCopyStart (cl : Fin 8) : Fin 16 × ReadError × ReadError → State → Answer
  | (tc, bad), s =>
    let a := ownerOf cl tc
    match dueEntry s cl tc, taskFind s (getA s a).task with
    | some (k, idx), some task =>
      let off := task.params.lower.toNat + 64 * idx
      let start (s : State) (b : CopyBlock) (keep ok : Bool) : State :=
        let t := vget s.clusters[cl].tongs tc.val
        let c := Copy.start (k + 1) b (BitVec.ofNat 8 k) (BitVec.ofNat 8 idx)
        let s := putTongs s cl tc.val { t with
          active := some c, lastOp := k + 1, schedIdx := k + 1
          cache := if keep then tableSet t.cache idx b.bits else t.cache }
        if ok then checkStart s cl tc else finishCopy s cl tc c 2 1 0 0
      if !bytesServed s task.ctx task.params.obj off 64 then .next s
      else match readHalves s task.ctx task.params.obj off (cachedCopies s a idx) bad with
      | (s, .value v p) =>
        let b := if p then default else mkBlock v fun h => grantedCap task h
        .next (start s b (!p) (!p && b.ok s a && decide (b.kind ≠ 4)))
      | (s, .refused _) => .next (start s default false false)
      | (s, .moved) => .next s
      | (s, .fail sub) => .next (failAccess s a 4 sub task.params.obj off)
    | _, _ => .next s

end Sys2Proof.Machine
end

