-- ==== Sys2Proof/Machine/Beats.lean ====
section
/-! DEFINITION. The cycles of an array: feeder and edge beats, captures, the sorter, landings and the
counters of an active or a frozen cycle (R21, R33, R206 to R222). -/

namespace Sys2Proof.Machine

/-! ### The cycle under way (R20, R21, R232) -/

/-- The model's marks of beats already taken on the cycle under way, beside the cells' own numbers. -/
def feederMark (west : Bool) : Nat := if west then 4097 else 4096

/-- The model's mark of the captures of the cycle under way. -/
def captureMark : Nat := 4098

/-- The model's mark of a cycle that has begun: its wave step has entered row 0. -/
def openMark : Nat := 4099

/-- R20, R21: the wave step that a cycle issues, and the beat after it. -/
def Arr.issueStep (x : Arr) : Arr :=
  let w : WaveStep :=
    { num := x.acnt, op := x.wave, word := x.regs.rsw, travel := x.regs.travel, phase := x.phaseMark
      chained := decide (x.kind = .chain) }
  { x with
    steps := (w :: x.steps).take 352
    phaseMark := false
    wave := match x.wave with
      | some f => if f.beat + 1 < f.beats then some { f with beat := f.beat + 1 } else none
      | none => none }

/-- R30, R207: what the static schedule has a form on its way do on the cycle on which it is due. -/
def Feeder.schedule (f : Feeder) (now base : Nat) : FeederCmd → Feeder
  | .form m => f.imply now base m
  | .tag n => { f with impliedNext := n }
  | .skew _ => f

/-- R34, R206, R207, R212: forms that reach a feeder on cycle `t`, in order. A pop, and the number of a later one,
wait behind a stalled form; a rotation is bound to pops at issue. -/
def Feeder.arrive (t base : Nat) (f : Feeder) : List (Nat × FeederCmd) → Feeder
  | [] => f
  | (due, c) :: l =>
    if t < due then Feeder.arrive t base { f with inbox := f.inbox ++ [(due, c)] } l
    else
      let f := if due = t then f.schedule t base c else f
      match c with
      | .form m =>
        if f.form.isNone then Feeder.arrive t base { f with form := some m } l
        else Feeder.arrive t base { f with inbox := f.inbox ++ [(due, c)] } l
      | .tag n =>
        if f.form.isNone then Feeder.arrive t base { f with next := n } l
        else Feeder.arrive t base { f with inbox := f.inbox ++ [(due, c)] } l
      | .skew k => Feeder.arrive t base { f with rot := k } l

/-- Forms that reach the feeders of an array on its cycle. -/
def Arr.feedersDue (x : Arr) : Arr :=
  let due (west : Bool) (f : Feeder) : Feeder :=
    Feeder.arrive x.acnt (feederBase x west) { f with inbox := [] } f.inbox
  { x with north := due false x.north, west := due true x.west }

/-- R223: the first form on its way to the sorter of a chain's tail begins there, a merge or a read, once it is due and
the forms before it have no beats left. -/
def Arr.edgeDue (x : Arr) : Arr :=
  match x.edgeCmds with
  | (due, c) :: rest =>
    if x.acnt < due ∨ x.edge.isSome then x
    else
      match c with
      | .merge q most => { x with edgeCmds := rest }.startMerge q most
      | .read o e n => { x with edgeCmds := rest }.startRead o e n
      | .init _ _ _ => x
  | [] => x

/-- R20, R21: what a cycle of an array begins with, once: forms on their way arrive, and the wave step enters row 0. -/
def Arr.open (x : Arr) : Arr :=
  if x.done.contains openMark then x
  else
    let x := x.edgeDue.feedersDue.issueStep
    { x with done := openMark :: x.done }

/-- R32: whether a sequencer's wait freezes its array. -/
def Arr.frozen (x : Arr) : Bool :=
  match x.run with
  | .waiting .sync => false
  | .waiting _ => true
  | _ => false

/-- R21, R32, R232: whether the cycle of an array's unit is under way and an active one: bundles issue on it and their slots
have committed. -/
def cellsMove (s : State) (a : Fin 32) : Bool :=
  let us := lockstep s a
  (us.any fun m => decide ((getA s m).run = .issuing 8)) && us.all fun m =>
    !(getA s m).frozen && match (getA s m).run with
      | .issuing k => decide (8 ≤ k)
      | _ => true

/-- R21: the cycle of an array's unit begins. -/
def openUnit (s : State) (a : Fin 32) : State := updAll s (lockstep s a) Arr.open

/-! ### Feeder beats (R206 to R209) -/

/-- R206, R208: the block that register `x` receives before rotation, from the blocks of a beat. -/
def transposed (bs : List PReg) (w x : Nat) : PReg :=
  let g := 256 / w
  let group := (bs.drop (g * (x / g))).take g
  ⟨BitVec.ofNat 256 (packLanes w (group.map fun b => lane b.bits w (x % g))), group.any (·.poison)⟩

/-- The element of a list of registers, zero past its end. -/
def blockAt (bs : List PReg) (n : Nat) : PReg := bs[n]?.getD ⟨0, false⟩

/-- R206: what register `x` receives on a beat; none keeps its value. -/
def FeederForm.value (m : FeederForm) (bs : List PReg) (x : Nat) : Option PReg :=
  let from' := (x + 64 - m.rot.toNat % 64) % 64
  match m.kind with
  | .pop => some (blockAt bs from')
  | .popt l => some (transposed bs l.width from')
  | .bcast => some (blockAt bs 0)
  | .zero => some ⟨0, false⟩
  | .hold => none

/-- R152: whether a pop is held back because a repositioning form committed before it has not been
applied. -/
def Arr.popHeld (x : Arr) (m : FeederForm) : Bool :=
  x.reposition.any fun e =>
    decide (e.q = m.q) && !e.fresh && !e.holds.contains (m.owner, m.entry)

/-- R209: whether the stream holds the blocks of a beat. -/
def Arr.popReady (x : Arr) (m : FeederForm) : Bool :=
  let st := x.streams[m.q]
  !m.kind.pops || (decide (st.mode = .bound ∧ m.kind.blocks ≤ st.buf.length) && !x.popHeld m)

/-- R206 to R209: a beat on cycle `t`: the blocks leave the stream, the registers are written at their
cycles, and the pop is counted. -/
def Arr.popBeat (x : Arr) (west : Bool) (m : FeederForm) (t : Nat) : Arr :=
  let f := x.feeder west
  let st := x.streams[m.q]
  let n := m.kind.blocks
  let bs := st.buf.take n
  let base := feederBase x west
  let ws := (List.finRange 64).map fun r : Fin 64 =>
    (⟨t + m.delay base r.val, r, m.value bs r.val, f.next⟩ : FeederWrite)
  let f := { f with writes := f.writes ++ ws, next := f.next + 1
                    form := if m.left ≤ 1 then none else some { m with left := m.left - 1, stalled := false } }
  let x := x.setFeeder west f
  if m.kind.pops then x.setStream m.q (st.moveTo (st.pos + n) (st.buf.drop n)) else x

/-- R206, R209, R236: the beat of one feeder on the cycle under way; `stalled` asks for a stalled beat.
The pop leaves its sequencer's queue with its last beat. -/
def feederStep (s : State) (a : Fin 32) (west stalled : Bool) : State :=
  let x := getA s a
  match (x.feeder west).form with
  | none => s
  | some m =>
    if x.done.contains (feederMark west) || m.stalled != stalled then s
    else if x.popReady m then
      let s := if m.kind.pops then buffered s a m.q else s
      let s := updA s a fun x =>
        { x.popBeat west m x.acnt with done := feederMark west :: x.done }
      if m.kind.pops ∧ m.left ≤ 1 then dropEntries s m.owner [m.entry] else s
    else if stalled then s
    else updA s a fun x =>
      { x.setFeeder west { x.feeder west with form := some { m with stalled := true } } with
        done := feederMark west :: x.done }

/-- R383: errors that cannot be corrected are found in registers of a feeder, which are poisoned. -/
def Feeder.spoil (f : Feeder) (bad : List (Fin 64)) : Feeder :=
  { f with regs := bad.foldl (fun v (k : Fin 64) => v.set k.val ⟨v[k].bits, true⟩) f.regs }

/-- R206: a feeder's beat on the cycle under way, or its stall. `bad`: the registers in which an error is found first. -/
def execFeederBeat (a : Fin 32) : Bool × List (Fin 64) → State → Answer
  | (west, bad), s =>
    let s := updA s a fun x => x.setFeeder west ((x.feeder west).spoil bad)
    .next (if cellsMove s a then feederStep (openUnit s a) a west false else s)

/-- R209: a stalled beat completes on an active cycle on which its stream holds the blocks. -/
def execPopStallCompletes (a : Fin 32) (west : Bool) (s : State) : Answer :=
  .next (if cellsMove s a then feederStep (openUnit s a) a west true else s)

/-- R207: the writes of a feeder that land at the end of cycle `t`. -/
def Feeder.land (f : Feeder) (t : Nat) : Feeder :=
  let f := (f.writes.filter fun w => decide (w.due ≤ t)).foldl (fun f w =>
    { f with tags := f.tags.set w.x w.tag
             regs := match w.value with | some v => f.regs.set w.x v | none => f.regs }) f
  let f := (f.impliedWrites.filter fun w => decide (w.due ≤ t)).foldl (fun f w =>
    { f with implied := f.implied.set w.x w.tag }) f
  { f with writes := f.writes.filter fun w => decide (t < w.due)
           impliedWrites := f.impliedWrites.filter fun w => decide (t < w.due) }

/-! ### The sorter (R217 to R220, R322) -/

/-- R218: the value of a key. -/
def keyVal (f : Fmt) (k : BitVec 32) : FVal := fmtValue f (k.toNat % 2 ^ fmtWidth f)

/-- R218: whether pair `p`, offered later than `q`, precedes it. -/
def Sorter.precedes (x : Sorter) (p q : BitVec 32 × BitVec 32) : Bool :=
  let a := keyVal x.fmt p.1
  let b := keyVal x.fmt q.1
  (if x.low then a.lt b else b.lt a) || (a.eqv b && decide (p.2.toNat < q.2.toNat))

/-- R218: insert a pair at its rank. -/
def Sorter.insert (x : Sorter) (p : BitVec 32 × BitVec 32) :
    List (BitVec 32 × BitVec 32) → List (BitVec 32 × BitVec 32)
  | [] => [p]
  | q :: t => if x.precedes p q then p :: q :: t else q :: Sorter.insert x p t

/-- R218, R322: process one offer; the second part tells a NaN key, of a register that is not poisoned (R77). -/
def Sorter.offer (x : Sorter) (o : Offer) : Sorter × Bool :=
  let x := if o.poison then { x with poison := true } else x
  if (keyVal x.fmt o.key).isNan then (x, !o.poison)
  else ({ x with list := (x.insert (o.key, o.payload) x.list).take x.k }, false)

/-- R220: process the offers whose cycle ended before cycle `t`. -/
def Sorter.process (x : Sorter) (t : Nat) : Sorter × Bool :=
  (x.offers.filter fun o => decide (o.cycle < t)).foldl (fun (r : Sorter × Bool) o =>
    let n := r.1.offer o
    (n.1, r.2 || n.2)) ({ x with offers := x.offers.filter fun o => decide (t ≤ o.cycle) }, false)

/-- R218: the key field of a register or block, by key format. -/
def keyBits (f : Fmt) (v : Nat) : BitVec 32 := BitVec.ofNat 32 (v % 2 ^ fmtWidth f)

/-- R219: the offers of a block of ranked pairs; empty slots are skipped. -/
def pairOffers (f : Fmt) (t : Nat) (b : PReg) : List Offer :=
  (List.range 4).filterMap fun p =>
    let v := lane b.bits 64 p
    if v = 2 ^ 64 - 1 then none
    else some ⟨t, keyBits f v, BitVec.ofNat 32 (v / 2 ^ 32), b.poison⟩

/-! ### Captures (R214, R215, R218, R222) -/

/-- R215: a block of a push is captured: it may now leave the store queue, or, past the end of its
stream, it is dropped and the stream-full fault raised. -/
def giveBlock (s : State) (owner : Fin 32) (id : Nat) (b : PReg) : State :=
  match (getA s owner).entry id with
  | none => s
  | some e =>
    match e.op with
    | .push q true _ => landEntry s owner id fun x => x.schedTrap 7 q.val
    | .push q false _ => updA s owner fun x => { x with queue := x.queue.map fun f =>
        if f.id = id then { f with op := .push q false (some b) } else f }
    | _ => s

/-- `H` of a cell at the end of the cycle under way. -/
def Arr.nowH (x : Arr) (i j : Nat) : PReg := (tableGet x.cells (64 * i + j) Cell.start).h

/-- `V` of a cell at the end of the cycle under way. -/
def Arr.nowV (x : Arr) (i j : Nat) : PReg := (tableGet x.cells (64 * i + j) Cell.start).v

/-- Put a capture back into the list of an array. -/
def keepCapture (s : State) (b : Fin 32) (c : Capture) : State :=
  updA s b fun x => { x with captures := x.captures ++ [c] }

/-- R214, R218, R222, R327: what one capture of array `b` does at the end of cycle `t`. `EC.TMK` has its block at the end of
cycle b + 64, so that a freeze that begins with that cycle waits for one that is still to come (DESIGN CHOICE, log entry
120). -/
def captureStep (s : State) (b : Fin 32) (t : Nat) (c : Capture) : State :=
  let x := getA s b
  if t < c.start then keepCapture s b c
  else
    let i := t - c.start
    let more (c : Capture) (s : State) : State := if i < 63 then keepCapture s b c else s
    match c.use with
    | .push first =>
      if c.south then
        (List.range 64).foldl (fun s j => giveBlock s c.owner (first + j) (x.nowV 63 j)) s
      else more c (giveBlock s c.owner (first + i) (x.nowH i 63))
    | .offer =>
      let h := x.nowH i 63
      let o : Offer := ⟨t, keyBits x.sorter.fmt (lane h.bits 32 0), BitVec.ofNat 32 (lane h.bits 32 2), h.poison⟩
      more c (updA s b fun x => { x with sorter := { x.sorter with offers := x.sorter.offers ++ [o] } })
    | .mark e =>
      if i ≤ 63 then
        let h := x.nowH i 63
        keepCapture s b { c with
          t0 := (c.t0 + lane h.bits 32 0) % markPrime, t1 := (c.t1 + lane h.bits 32 1) % markPrime
          poison := c.poison || h.poison, last := lane h.bits 32 2 }
      else
        giveBlock s c.owner e
          ⟨BitVec.ofNat 256 (c.t1 * 2 ^ 32 + c.t0 + c.last * 2 ^ 64), c.poison⟩

/-- R214: the captures of an array at the end of the cycle under way. -/
def captures (s : State) (a : Fin 32) : State :=
  let x := getA s a
  if x.done.contains captureMark then s
  else
    x.captures.foldl (fun s c => captureStep s a x.acnt c)
      (updA s a fun x => { x with captures := [], done := captureMark :: x.done })

/-! ### Cells of a cycle -/

/-- R117: the cell takes the checkpoint that travels with its step, unless it has executed the step. -/
def checkpointCell (s : State) (a : Fin 32) (key : Nat) : State :=
  updA s a fun x => { x with cells := tableSet x.cells key (tableGet x.cells key Cell.start).checkpoint }

/-- R117: the cells of a row take the checkpoint that travels with its step, those that have not
executed it. -/
def checkpointRow (s : State) (a : Fin 32) (i : Nat) : State :=
  updA s a fun x => { x with cells := x.cells.map fun e =>
    if e.1 / 64 = i ∧ x.done.contains e.1 = false then (e.1, e.2.checkpoint) else e }

/-- R22, R179: cell (i, j) of an array executes the step it is offered, if it is to and has not yet. -/
def cellStep (s : State) (a : Fin 32) (i j : Nat) : State :=
  let t := (getA s a).acnt
  match offered s a t i with
  | some w =>
    match w.op with
    | some f =>
      if executes s a t w i j && !(getA s a).done.contains (64 * i + j) then
        execCell (if w.phase then checkpointCell s a (64 * i + j) else s) a t i j w f
      else s
    | none => s
  | none => s

/-- R179: the cell executes the step it is offered on the cycle under way, if it has not yet. `bad`: the parts of the cell
in which an error is found first. -/
def execCellStepExecute (a : Fin 32) (i : Fin 64) : Fin 64 × List CellPart → State → Answer
  | (j, bad), s =>
    let s := updA s a fun x => x.spoilCell (64 * i.val + j.val) bad
    if cellsMove s a then .next (cellStep (openUnit s a) a i.val j.val) else .next s

/-- R22, R179: row `i` of an array executes the step it is offered, in the cells that have not yet. -/
def rowStep (s : State) (a : Fin 32) (i : Nat) : State :=
  let t := (getA s a).acnt
  match offered s a t i with
  | none => s
  | some w =>
    let s := if w.phase then checkpointRow s a i else s
    match w.op with
    | none => s
    | some f => (List.range 64).foldl (fun s j =>
        if executes s a t w i j && !(getA s a).done.contains (64 * i + j) then execCell s a t i j w f
        else s) s

/-- R21, R22: every row of an array executes its step of the cycle. -/
def cellSteps (s : State) (a : Fin 32) : State := (List.range 64).foldl (fun s i => rowStep s a i) s

/-- R214: the collectors of an array capture on the cycle under way, once its cells have executed. -/
def execCollectorCapture (a : Fin 32) (s : State) : Answer :=
  if cellsMove s a then .next (captures (cellSteps (openUnit s a) a) a) else .next s

/-! ### The EDGE slot (R217, R219, R220) -/

/-- R237: whether a merge must wait for a repositioning form committed before it. -/
def Arr.mergeHeld (x : Arr) (q : Fin 16) : Bool :=
  x.reposition.any fun e => decide (e.q = q) && !e.fresh && !e.merge

/-- R219, R220: one beat of a merge: a block is offered, or the merge stalls. The poison of its block reaches the sorter's
poison bit in this cycle, before the block's offers are seen (DESIGN CHOICE, log entry 115). -/
def Arr.mergeBeat (x : Arr) (q : Fin 16) (left : Nat) : Arr :=
  let st := x.streams[q]
  match st.mode, if x.mergeHeld q then [] else st.buf with
  | .bound, b :: rest =>
    let x := x.setStream q (st.moveTo (st.pos + 1) rest)
    { x with
      sorter := { x.sorter with
        offers := x.sorter.offers ++ pairOffers x.sorter.fmt x.acnt b, poison := x.sorter.poison || b.poison }
      edge := if left ≤ 1 then none else some (.merge q (left - 1) false) }
  | _, _ => { x with edge := some (.merge q left true) }

/-- R20, R219, R220: the beat of the EDGE slot on the cycle under way. -/
def edgeBeat (s : State) (a : Fin 32) : State :=
  match (getA s a).edge with
  | none => s
  | some (.plain n) => updA s a fun x => { x with edge := if n ≤ 1 then none else some (.plain (n - 1)) }
  | some (.merge q left _) => updA (buffered s a q) a fun x => x.mergeBeat q left
  | some (.read [] _ _) => updA s a fun x => { x with edge := none }
  | some (.read (b :: l) o e) =>
    giveBlock (updA s a fun x => { x with edge := if l.isEmpty then none else some (.read l o (e + 1)) })
      o e b

/-- R217, R220, R324: the sorter at the end of a cycle: its offers, then a `TK.INIT` of the cycle; `idle` tells that no
form before it had beats left. A NaN key of an offer that `TK.INIT` discards sets NV where the offer is of an earlier cycle
(DESIGN CHOICE, log entry 119). -/
def Arr.sorterEnd (x : Arr) (idle : Bool) : Arr × Bool :=
  let r := x.sorter.process x.acnt
  let x := { x with sorter := r.1 }
  match x.edgeCmds with
  | (due, .init k f low) :: rest =>
    if idle && decide (due ≤ x.acnt) then ({ x with sorter := ⟨k, f, low, [], false, []⟩, edgeCmds := rest }, r.2)
    else (x, r.2)
  | _ => (x, r.2)

/-! ### Counters of a cycle (R33, R120, R122, R308) -/

/-- R120, R126, R349: whether `RETLEFT` counts on a cycle. -/
def Arr.retCounts (x : Arr) : Bool :=
  match x.run with
  | .off | .parked => false
  | .ended => x.outstanding
  | _ => x.ending.isNone || x.outstanding

/-- Whether the sequencer stands where traps are taken (R106, R335). -/
def Arr.trapsTaken (x : Arr) : Bool := x.atBoundary && !(decide (x.run = .boundary ∧ x.gap ≠ 0))

/-- R120: one array cycle of `RETLEFT`. -/
def Arr.retTick (x : Arr) : Arr :=
  if x.retCounts then { x with retLeft := if x.retLeft = 0 then 0 else x.retLeft - 1 } else x

/-- R308: one array cycle of a running task's deficit, counted at its first member. -/
def deficitTick (s : State) (a : Fin 32) : State :=
  if (getA s a).grpIdx = 0 ∧ (getA s a).run ≠ .off then
    updT s (getA s a).task fun t => if t.state = .running then { t with deficit := t.deficit - 1 } else t
  else s

/-- R120, R126: whether `RETLEFT` has run out and the sequencer stands at a boundary. After `TEND` it has counted to zero
while forms were outstanding, whether or not they have been performed since. -/
def Arr.overdue (x : Arr) : Bool :=
  decide (x.retLeft = 0 ∧ x.retIv ≠ 0) && (x.ending.isSome || x.retCounts) && x.trapsTaken

/-- R120: the overdue trap is raised and `RETLEFT` reloaded; after `TEND` it is a fatal context error
(R126). -/
def execRetirementOverdue (a : Fin 32) (s : State) : Answer :=
  let x := getA s a
  if x.overdue then
    if x.ending.isSome then .next (fatalContext s x.ctx (seqFatal s a 7 (mkXsw .overdue 0 0) (duePc x)))
    else .next (updA s a fun x => { x.raise .overdue 0 with retLeft := x.retIv })
  else .next s

/-- R76: the numeric flags of an array's results that land at the end of the cycle, as they reach its issuer. -/
def flagsLand (s : State) (a : Fin 32) : State :=
  let x := getA s a
  let n := x.cells.foldl (fun n e => n ||| e.2.landingFlags x.acnt) 0
  if n = 0 then s else updA s (issuer s a) fun y => { y with flagPend := y.flagPend ++ [(y.acnt, n)] }

/-- R76, R104, R122: the landings and counts at the end of an active cycle. -/
def Arr.endCycle (x : Arr) : Arr :=
  let t := x.acnt
  let nflg := (x.flagPend.filter fun e => decide (e.1 ≤ t)).foldl (fun n e => n ||| e.2) x.regs.nflg
  let cells := x.cells.map fun e => (e.1, e.2.land t)
  { x with
    north := x.north.land t, west := x.west.land t
    regs := { x.regs with nflg := nflg }
    flagPend := x.flagPend.filter fun e => decide (t < e.1)
    cells := cells, prev := cells, done := []
    link := if x.kind = .cluster then [] else
      ((t, Vector.ofFn fun j : Fin 64 => (tableGet cells (63 * 64 + j.val) Cell.start).v) :: x.link).take 8
    leaveLeft := if x.leaveLeft = 0 then 0 else x.leaveLeft - 1
    acnt := t + 1 }

/-- R21: what an array does on an active cycle. A wave step enters row 0, every cell executes the step it is offered,
and beats are taken and captured. -/
def cycleBody (s : State) (a : Fin 32) : State :=
  let s := updA s a Arr.open
  let idle := (getA s a).edge.isNone
  let s := feederStep (feederStep s a false true) a true true
  let s := feederStep (feederStep s a false false) a true false
  let s := edgeBeat (captures (cellSteps s a) a) a
  let r := (getA s a).sorterEnd idle
  let s := setA s a r.1
  flagsLand (if r.2 then
      updA s (issuer s a) fun x => { x with regs := { x.regs with nflg := x.regs.nflg ||| Flag.nv } }
    else s) a

/-- R21, R237: the end of an active cycle of an array: results land, repositions that no pop holds back any longer are
applied, and `ACNT` advances. -/
def cycleEnd (s : State) (a : Fin 32) : State := deficitTick (updA s a fun x => x.endCycle.retTick.repositions) a

/-- R22, R235: whether the wave steps that pass down a chain have completed in every cell of an array. -/
def chainDrained (s : State) (a : Fin 32) : Bool :=
  let x := getA s a
  let back := linkDelay x + rowBase x + 63
  ((getA s (issuer s a)).steps.all fun w => !w.chained || decide (w.num + back < x.acnt))
    && x.cells.all fun e => e.2.pend.all fun p => !p.chained

/-- R235: the arrays of a chain that `LFREE` has ended part once its steps have completed in all of them. -/
def freeDrained (s : State) (us : List (Fin 32)) : State :=
  if us.all fun a => decide ((getA s a).kind = .freeing) && chainDrained s a then
    updAll s us fun x => { x with kind := .freed }
  else s

/-- R106: an active cycle passes at a sequencer that waits out a gap. -/
def Arr.gapTick (x : Arr) : Arr := if x.run = .boundary then { x with gap := x.gap - 1 } else x

/-- R21, R34: an active cycle of arrays whose cycles pass together. -/
def unitCycle (s : State) (us : List (Fin 32)) : State :=
  freeDrained (us.foldl cycleEnd (us.foldl cycleBody (updAll s us Arr.gapTick))) us

/-- R8, R136, R123: the answer to a predicate whose bound has run out. -/
def Arr.answerDue (x : Arr) (a : Fin 32) : Option Instr :=
  match x.queue.findSome? fun e => match e.op with
    | .barTest _ _ due => if due ≤ x.acnt then some (.barrierFormApplied a (e.id, 0)) else none
    | .probe _ _ due => if due ≤ x.acnt then some (.probeAnswer a e.id true) else none
    | _ => none with
  | some i => some i
  | none => match x.sprints with
    | t :: _ => if t.due ≤ x.acnt then some (.sprintAnswer a) else none
    | [] => none

/-- R21, R232: an active cycle of an array, and of the others of its chain; none while one of them freezes, or while an
answer whose bound has run out is to land first (R8). -/
def execActiveArrayCycle (a : Fin 32) (s : State) : Answer :=
  let us := lockstep s a
  if us.any fun m => (getA s m).frozen || ((getA s m).answerDue m).isSome then .next s else .next (unitCycle s us)

/-- R32, R33: a frozen cycle of an array: `FCNT` counts it, and so do `RETLEFT` and a `FREEZE`. -/
def frozenCycle (s : State) (a : Fin 32) : State :=
  let s := updA s a fun x =>
    { x.retTick with
      fcnt := x.fcnt + 1
      run := match x.run with
        | .waiting (.freeze n) => .waiting (.freeze (n - 1))
        | r => r }
  deficitTick s a

/-- R32, R232: a frozen cycle of arrays whose cycles pass together. -/
def unitFrozen (s : State) (us : List (Fin 32)) : State := us.foldl frozenCycle s

/-- R32, R33, R232: a frozen cycle of an array, and of the others of its chain, where one of them freezes. -/
def execFrozenArrayCycle (a : Fin 32) (s : State) : Answer :=
  let us := lockstep s a
  if us.any fun m => (getA s m).frozen then .next (unitFrozen s us) else .next s

/-- R115: the freeze has lasted its cycles, and the next bundle is due. -/
def execFreezeEnd (a : Fin 32) (s : State) : Answer :=
  .next (updA s a fun x => if x.run = .waiting (.freeze 0) then { x with run := .boundary } else x)

end Sys2Proof.Machine
end

