-- ==== Sys2Proof/Machine/Control.lean ====
section
/-! DEFINITION. The meanings of the `CTL` forms (R104 to R127). Each acts on the array whose bundle is
issuing (`State.cur`). -/

namespace Sys2Proof.Machine

/-- R38: no effect. -/
def execNop (s : State) : Answer := .next s

/-- R106, R107. -/
def execBr (p : Fin 8) (off : BitVec 22) (s : State) : Answer :=
  .next (gated p s fun s => updCur s fun x =>
    x.goto (branchTarget x.snap.pc (off.signExtend 64)) 1)

/-- R107: branches when the predicate equals the sense bit. -/
def execBrp (p n : Fin 8) (sense : Bool) (off : BitVec 18) (s : State) : Answer :=
  .next (gated p s fun s => updCur s fun x =>
    if x.rp n = sense then x.goto (branchTarget x.snap.pc (off.signExtend 64)) 1 else x)

/-- R107, R108: the target is checked when it is fetched. -/
def execJmpi (p : Fin 8) (a : Fin 32) (s : State) : Answer :=
  .next (gated p s fun s => updCur s fun x => x.goto (x.rs a) 2)

/-- R107, R110. -/
def execCall (p : Fin 8) (off : BitVec 22) (s : State) : Answer :=
  .next (gated p s fun s => updCur s fun x =>
    if x.snap.ret.length = 8 then x.illegalFault 0 2 0x04
    else
      { x.goto (branchTarget x.snap.pc (off.signExtend 64)) 1 with
        regs := { x.regs with ret := x.snap.ret ++ [x.snap.pc + 32#48] } })

/-- R107, R110. -/
def execRet (p : Fin 8) (s : State) : Answer :=
  .next (gated p s fun s => updCur s fun x =>
    match x.snap.ret.getLast? with
    | none => x.illegalFault 0 3 0x05
    | some t =>
      { x.goto (t.setWidth 64) 1 with regs := { x.regs with ret := x.snap.ret.dropLast } })

/-- R111. -/
def execLoop (p : Fin 8) (l : Fin 4) (a : Fin 32) (off : BitVec 15) (s : State) : Answer :=
  .next (gated p s fun s => updCur s fun x =>
    let count := (x.rs a).setWidth 32
    let stop := x.snap.pc + 32#48 * off.setWidth 48
    let x := { x with regs := { x.regs with
      l := x.regs.l.set l ⟨count, x.snap.pc + 32#48, stop⟩ } }
    if count = 0 then x.goto ((stop + 32#48).setWidth 64) 1 else x)

/-- R111: `ENDLOOP` branching back costs no gap. -/
def execEndloop (p : Fin 8) (l : Fin 4) (s : State) : Answer :=
  .next (gated p s fun s => updCur s fun x =>
    let r := x.snap.l[l]
    if 1 < r.count.toNat then
      { x.goto (r.start.setWidth 64) 0 with
        regs := { x.regs with l := x.regs.l.set l { r with count := r.count - 1 } } }
    else { x with regs := { x.regs with l := x.regs.l.set l { r with count := 0 } } })

/-- R107, R109. -/
def execFlagbr (p : Fin 8) (g : Fin 4) (all sense : Bool) (off : BitVec 18) (s : State) : Answer :=
  .next (gated p s fun s =>
    let agg := if all then aggAll s s.cur g else aggAny s s.cur g
    bump (updCur s fun x =>
      if agg = sense then x.goto (branchTarget x.snap.pc (off.signExtend 64)) 1 else x))

/-- R112: the scope of the `MEM` form of this bundle. -/
def execScope (p : Fin 8) (sc : Scope) (s : State) : Answer :=
  .next (gated p s fun s => updCur s fun x => { x with scope := sc })

/-- R113: the sync group a `SYNC` or `REALIGN` bundle waits on. -/
def syncMembers (s : State) (a : Fin 32) (g : BitVec 8) : Option (List (Fin 32)) :=
  let x := getA s a
  if g = 0 then some (members s a)
  else
    match s.lines.find? fun l => l.ctx = x.ctx && l.group = g with
    | some l => if l.members.contains a then some l.members else none
    | none => none

/-- R113, R114: hold the bundle until the line has released it. -/
def syncForm (g : BitVec 8) (realign : Bool) (s : State) : State :=
  updCur s fun x =>
    if x.released then { x with released := false, aligned := x.aligned || realign }
    else
      match syncMembers s s.cur g with
      | none => x.schedFault 0 13 g.toNat
      | some _ => { x with run := .waiting .sync }

/-- R113. -/
def execSync (p : Fin 8) (g : BitVec 8) (s : State) : Answer :=
  .next (gated p s (syncForm g false))

/-- R114, R233. -/
def execRealign (p : Fin 8) (s : State) : Answer := .next (gated p s (syncForm 0 true))

/-- R115: the freeze begins on the cycle after the bundle. -/
def execFreeze (p : Fin 8) (n : BitVec 16) (s : State) : Answer :=
  .next (gated p s fun s => updCur s fun x => { x with freeze := n.toNat })

/-- R116: whether stream `q` lets a `SWAIT` of `n` blocks issue; a schedule fault's subcause if it
cannot wait. -/
def swaitState (x : Arr) (q : Fin 16) (n : Nat) : Nat ⊕ Bool :=
  match x.modeOf q with
  | .unbound => .inl 2
  | .output => .inl 15
  | .binding => .inr false
  | .bound | .exhausted =>
    if x.streams[q].desc.depth < n then .inl 15 else .inr (decide (n ≤ x.level q))

/-- R116: hold the bundle until the stream holds the blocks. -/
def execSwait (p : Fin 8) (q : Fin 16) (n : BitVec 10) (s : State) : Answer :=
  .next (gated p s fun s => updCur s fun x =>
    match swaitState x q n.toNat with
    | .inl sub => x.schedFault 0 sub q.val
    | .inr true => x
    | .inr false => { x with run := .waiting .swait })

/-- R345: the commit point of a `PHASE`; a stream is taken as every form committed before leaves it. -/
def commitPoint (s : State) (a : Fin 32) : CommitPoint :=
  let x := getA s a
  let settled := (List.finRange 16).foldl Arr.settle x
  let c := s.clusters[clusterOf a]
  { entry := x.snap.pc + 32#48
    streams := settled.streams.map Stream.point
    tongs := Vector.ofFn fun e : Fin 4 =>
      let t := vget c.tongs (4 * e.val + inCluster a)
      ⟨t.released, t.shadow, t.block⟩
    firstEntry := x.nextId }

/-- R117: the phase is committed; the checkpoint travels with this bundle's wave step. -/
def execPhase (p : Fin 8) (s : State) : Answer :=
  .next (gated p s fun s =>
    let point := commitPoint s s.cur
    let s := updCur s fun x =>
      { x with phNum := x.phNum + 1, phDirty := false, cancels := 0, point := point }
    updA s ((tall s s.cur).headD s.cur) fun x => { x with phaseMark := true })

/-- R118, R348: roll back to the last commit at the end of the cycle; slots 1 to 7 do not commit. -/
def execPhcancel (p : Fin 8) (s : State) : Answer :=
  .next (gated p s fun s =>
    updCur s fun x =>
      if x.phDirty ∨ 2 ≤ x.cancels then x.slotFault 0 .replayUnsafe 0
      else { x with phcancel := true, run := .issuing 8 })

/-- R119, R337, R341: reload `RETLEFT`; with a request pending and no other trap, park. -/
def execRetire (p : Fin 8) (s : State) : Answer :=
  .next (gated p s fun s =>
    let wanted := match taskFind s (curA s).task with
      | some t => t.preempt.isSome || t.switch
      | none => false
    updCur s fun x =>
      { x with retLeft := x.retIv, park := wanted && !x.handler && x.traps.isEmpty })

/-- R121, R234, R235. -/
def execLease (p : Fin 8) (n : BitVec 21) (s : State) : Answer :=
  .next (gated p s fun s =>
    if isHead (curA s) then arbitrate (updCur s fun x => { x with clease := n }) (curA s).task else s)

/-- R121, R235: the chain ends for the rest of the task; its arrays part once the steps issued have completed. -/
def execLfree (p : Fin 8) (s : State) : Answer :=
  .next (gated p s fun s =>
    if isHead (curA s) then
      let s := updCur s fun x => { x with clease := 0 }
      updAll s (members s s.cur) fun x => { x with kind := .freeing }
    else s)

/-- R123: ask for a bellows lease; the answer lands in `Pd` within 256 active cycles. -/
def execSprint (p d : Fin 8) (level : BitVec 2) (ms : BitVec 14) (s : State) : Answer :=
  .next (gated p s fun s => updCur s fun x =>
    { x with sprints := x.sprints ++ [⟨d, level, ms, x.acnt + 256, x.nextId⟩] })

/-- R123, R356: end the task's lease, with no trap. -/
def execSprfree (p : Fin 8) (s : State) : Answer :=
  .next (gated p s fun s =>
    let tid := (curA s).task
    { s with power := { s.power with leases := s.power.leases.filter fun l => l.tid != tid } })

/-- R122, R317: queue a request for standing leave. -/
def execLeave (p : Fin 8) (c : BitVec 2) (n : BitVec 20) (s : State) : Answer :=
  .next (gated p s fun s =>
    let as := if isHead (curA s) then tall s s.cur else [s.cur]
    { s with power := { s.power with
      requests := s.power.requests ++ [⟨s.power.nextReq, s.cur, as, c, n, []⟩]
      nextReq := s.power.nextReq + 1 } })

/-- R124: slot 0 commits by raising the trap, and slot-resume is 1. -/
def raiseUser (c : Cause) (code : BitVec 16) (x : Arr) : Arr :=
  { x with
    slotTrap := some ⟨c, code.setWidth 48, 1, 0, x.snap.pc, x.afterBundle.setWidth 48⟩
    run := .issuing 8 }

/-- R124. -/
def execTrap (p : Fin 8) (code : BitVec 16) (s : State) : Answer :=
  .next (gated p s fun s => updCur s (raiseUser .user code))

/-- R125. -/
def execXret (p : Fin 8) (s : State) : Answer :=
  .next (gated p s fun s => updCur s fun x => if x.handler then x.xret else x.illegalFault 0 4 0x29)

/-- R124. -/
def execBrk (p : Fin 8) (code : BitVec 16) (s : State) : Answer :=
  .next (gated p s fun s => updCur s (raiseUser .breakpoint code))

/-- R127. -/
def execCsrr (p : Fin 8) (d : Fin 32) (c : BitVec 12) (s : State) : Answer :=
  .next (gated p s fun s => updCur s fun x =>
    match csrRead s s.cur c with
    | some v => x.ws d v
    | none => x.illegalFault 0 5 0x30)

/-- R127. -/
def execCsrw (p : Fin 8) (a : Fin 32) (c : BitVec 12) (s : State) : Answer :=
  .next (csrUpdate p a c 0x31 (fun _ v => v) s)

/-- R127. -/
def execCsrs (p : Fin 8) (a : Fin 32) (c : BitVec 12) (s : State) : Answer :=
  .next (csrUpdate p a c 0x32 (fun old v => old ||| v) s)

/-- R127: a clear of `NFLG` clears only flags that have landed. -/
def execCsrc (p : Fin 8) (a : Fin 32) (c : BitVec 12) (s : State) : Answer :=
  .next (csrUpdate p a c 0x33 (fun old v => old &&& ~~~v) s)

/-- R126: the sequencer's part in the task ends after this bundle; handler mode is left. -/
def execTend (p : Fin 8) (s : State) : Answer :=
  .next (gated p s fun s => updCur s fun x =>
    { x with ending := some x.snap.pc, retLeft := x.retIv, handler := false })

end Sys2Proof.Machine
end

