-- ==== Sys2Proof/Machine/Pages.lean ====
section
/-! DEFINITION. Residency, pages that move, bank roles, the slices and the header home (R176 to R178, R242
to R249, R276 to R290, R375, R385), and the stores that reach their home. -/

namespace Sys2Proof.Machine

/-! ### Stores (R141, R167, R215, R251) -/

/-- Whether a form of the store queue, or a `TL.BUMP`, may be accepted at its home. -/
def storeReady (s : State) (a : Fin 32) (e : QEntry) : Bool :=
  match e.op with
  | .store n _ => acceptable s a e n
  | .push _ full block => acceptable s a e 32 && !full && block.isSome
  | .tlBump => (ahead s a e.id).performed s a .cl
  | _ => false

/-- R251, R382, R383: a store, or a block pushed, reaches its home and enters the coherence order there; a `TL.BUMP`
raises its sequencer's timeline (R167). `mismatches` counts the unit's that serves it; `flit`: the flit that carries it has
an error that cannot be corrected. -/
def execStoreArrivesAtHome (a : Fin 32) : Nat × Fin 3 × Bool → State → Answer
  | (id, mismatches, flit), s =>
    match (getA s a).entry id with
    | none => .next s
    | some e =>
      if storeReady s a e then
        match e.op with
        | .store n d => .next (storeBytes s a e n (d.toNat % 2 ^ (8 * n)) flit 0 [Right.write] mismatches)
        | .push _ _ (some b) => .next (storeBytes s a e 32 b.bits.toNat (b.poison || flit) 3
            [Right.write, Right.stream] mismatches)
        | .tlBump => .next (landEntry s a id fun x => { x with sq := x.sq + 1 })
        | _ => .next s
      else .next s

/-! ### Bank roles (R178, R242, R243) -/

/-- R178: the blocks that the streams of an array have buffered in a bank become undefined. -/
def Arr.loseBuffers (x : Arr) (n : Fin 32) (free : Nat) (a : Fin 32) : Arr :=
  (List.finRange 16).foldl (fun x q =>
    let st := x.streams[q]
    let lose (k : Nat) (b : PReg) : PReg := ⟨Config.sharedBlock free (16 * a.val + q.val) k, b.poison⟩
    if st.inBank n then x.setStream q { st with buf := st.buf.mapIdx lose } else x) x

/-- R178: set a bank's role and view. A change from SCRATCH to SCRATCH keeps every byte; after any other the contents are
undefined, and a sector keeps the poison it has (log entry 89). -/
def setRole (s : State) (cl : Fin 8) (n : Fin 32) (r : Role) (v : View) : State :=
  let old := (vget s.clusters[cl].banks n.val)
  let s := if (old.role = .cache) ≠ (r = .cache) then updC s cl fun c => { c with lines := [], writeBacks := [], misses := [] }
    else s
  let arrs := (List.finRange 32).filter fun a => clusterOf a = cl
  let free := s.freeCtr
  let s := if old.role = .operand then
      if r = .operand then arrs.foldl (fun s a => updA s a fun x => x.loseBuffers n free a) s
      else updAll s arrs fun x =>
        { x with streams := x.streams.map fun q => if q.inBank n then Stream.unbound else q }
    else s
  let s := if old.role = .scratch ∧ r = .scratch then s
    else bump { s with fills := tableSet s.fills (32 * cl.val + n.val) s.freeCtr }
  updC s cl fun c => { c with banks := c.banks.set n ⟨r, v⟩ }

/-- R178: whether an entry is a change of bank `n` that was committed before `at'`. -/
def QEntry.earlierRole (e : QEntry) (n : Fin 32) (at' : Nat) : Bool :=
  match e.op with
  | .role m _ _ t => decide (m = n ∧ t < at')
  | _ => false

/-- R178: whether a `ROLE` may take effect: no change of the bank that any sequencer of the cluster committed before it is
still on its way. -/
def roleReady (s : State) (a : Fin 32) (e : QEntry) : Bool :=
  match e.op with
  | .role n _ _ t => (ahead s a e.id).performed s a .cl
      && !(List.finRange 32).any fun b => decide (clusterOf b = clusterOf a)
        && (getA s b).queue.any fun f => f.earlierRole n t
  | _ => false

/-- R178: a bank's role changes. -/
def execRoleChangeApplied (a : Fin 32) (id : Nat) (s : State) : Answer :=
  match (getA s a).entry id with
  | none => .next s
  | some e =>
    if roleReady s a e then
      match e.op with
      | .role n r v _ => .next (setRole (dropEntries s a [id]) (clusterOf a) n r v)
      | _ => .next s
    else .next s

/-! ### Probes, pins and staging (R176, R177, R281, R284) -/

/-- The pages of a byte range of an object. -/
def pagesOf (e : ObjEntry) (off len : Nat) : List Nat :=
  let lo := off / 2 ^ e.pageShift
  idRange lo ((off + len - 1) / 2 ^ e.pageShift + 1 - lo)

/-- R281: a page's pins, over every task. -/
def pinsOn (s : State) (ctx : BitVec 12) (obj : BitVec 24) (page : Nat) : Nat :=
  ((s.pins.filter fun p => p.ctx = ctx && p.obj = obj && p.page.toNat = page).map (·.count)).sum

/-- R281: the pins a task holds in all. -/
def pinsBy (s : State) (tid : BitVec 32) : Nat :=
  ((s.pins.filter fun p => p.tid = tid).map (·.count)).sum

/-- Whether a pin is a task's on a page. -/
def Pin.onPage (p : Pin) (tid : BitVec 32) (ctx : BitVec 12) (obj : BitVec 24) (page : Nat) : Bool :=
  p.tid = tid && p.ctx = ctx && p.obj = obj && p.page.toNat = page

/-- R281: add one pin of a task on a page. -/
def addPin (s : State) (tid : BitVec 32) (ctx : BitVec 12) (obj : BitVec 24) (page : Nat) : State :=
  if s.pins.any fun p => p.onPage tid ctx obj page then
    { s with pins := s.pins.map fun p =>
        if p.onPage tid ctx obj page then { p with count := p.count + 1 } else p }
  else { s with pins := s.pins ++ [⟨tid, ctx, obj, BitVec.ofNat 48 page, 1⟩] }

/-- R281: remove one pin of a task on a page, if it holds one. -/
def dropPin (s : State) (tid : BitVec 32) (ctx : BitVec 12) (obj : BitVec 24) (page : Nat) : State :=
  { s with pins := (s.pins.map fun p =>
      if p.onPage tid ctx obj page then { p with count := p.count - 1 } else p).filter fun p => p.count != 0 }

/-- The state of a page that a walk finds; none where it fails. The walk of a `PROBE` is no translation that sets the Accessed
bit of R276 (DESIGN CHOICE, log entry 118). -/
def pageState (s : State) (e : ObjEntry) (ctx : BitVec 12) (obj : BitVec 24) (page : Nat) : Option Nat :=
  (walkPage s e ctx obj page false).map descState

/-- R284: ask the command processor to stage the pages of a list that are ABSENT. -/
def askStage (s : State) (e : ObjEntry) (ctx : BitVec 12) (obj : BitVec 24) (pages : List Nat) : State :=
  pages.foldl (fun s p =>
    let j : PageJob := ⟨ctx, obj, BitVec.ofNat 48 p⟩
    if pageState s e ctx obj p = some 0 ∧ s.stageJobs.contains j = false then
      { s with stageJobs := s.stageJobs ++ [j] }
    else s) s

/-- R281: the subcause with which the walkers answer 0 for a range, 0 when every page can be pinned. -/
def probeRefusal (s : State) (tid : BitVec 32) (e : ObjEntry) (ctx : BitVec 12) (obj : BitVec 24)
    (pages : List Nat) : Nat :=
  let states := pages.map fun p => pageState s e ctx obj p
  if states.any fun x => decide (x = some 0) then 1
  else if states.any fun x => x.isNone then 2
  else if 65536 < pinsBy s tid + pages.length
      ∨ (pages.any fun p => decide (65535 ≤ pinsOn s ctx obj p)) = true then 3
  else if states.any fun x => decide (x = some 4) then 4
  else 0

/-- R281: a probe answers 0 and raises the probe fault. -/
def probeFail (s : State) (a : Fin 32) (id : Nat) (d : Fin 8) (sub : Nat) : State :=
  landEntry s a id fun x => (x.landP d false id).raise .probe sub

/-- R176, R281: the walkers answer a `PROBE` of `len` bytes. One of an object without pages, `NOISE` or a linear one,
answers 1 (for `NOISE` log entry 88: the model's choice). -/
def probe (s : State) (a : Fin 32) (e : QEntry) (d : Fin 8) (len : Nat) (timeout : Bool) : State :=
  let x := getA s a
  let yes (s : State) : State := landEntry s a e.id fun x => x.landP d true e.id
  match objFind s x.ctx e.cap.obj with
  | none => failAccess (dropEntries s a [e.id]) a 6 2 e.cap.obj e.off
  | some o =>
    if len = 0 ∨ o.kind ≠ 2 ∨ o.homeKind = 1 then yes s
    else
      let pages := pagesOf o e.off len
      let sub := if timeout then 5 else probeRefusal s x.task o x.ctx e.cap.obj pages
      if sub = 0 then yes (pages.foldl (fun s p => addPin s x.task x.ctx e.cap.obj p) s)
      else
        let s := if sub = 1 ∨ sub = 5 then askStage s o x.ctx e.cap.obj pages else s
        probeFail s a e.id d sub

/-- R177, R284: the pages of `EVICT` that are to be written back. -/
def askEvict (s : State) (e : ObjEntry) (ctx : BitVec 12) (obj : BitVec 24) (pages : List Nat) : State :=
  pages.foldl (fun s p =>
    let j : PageJob := ⟨ctx, obj, BitVec.ofNat 48 p⟩
    match walkPage s e ctx obj p false with
    | some d =>
      if descState d = 1 ∧ d.getLsbD 1 = true ∧ pinsOn s ctx obj p = 0
          ∧ s.evictJobs.contains j = false then { s with evictJobs := s.evictJobs ++ [j] }
      else s
    | none => s) s

/-- R177: an `UNPIN`, `PREFETCH` or `EVICT` over the pages of its range. -/
def residency (s : State) (a : Fin 32) (e : QEntry) (len : Nat)
    (f : State → ObjEntry → List Nat → State) : State :=
  let s := dropEntries s a [e.id]
  match objFind s (getA s a).ctx e.cap.obj with
  | some o => if len = 0 ∨ o.kind ≠ 2 ∨ o.homeKind = 1 then s else f s o (pagesOf o e.off len)
  | none => s

/-- R176, R177: the walkers answer a `PROBE`, or have not within its bound, or act on an `UNPIN`, `PREFETCH` or
`EVICT`. -/
def execProbeAnswer (a : Fin 32) (id : Nat) (timeout : Bool) (s : State) : Answer :=
  match (getA s a).entry id with
  | none => .next s
  | some e =>
    let ctx := (getA s a).ctx
    let tid := (getA s a).task
    match e.op with
    | .probe d len due => .next (
        if timeout ∧ (getA s a).acnt < due then s else probe s a e d len (timeout || decide (due < (getA s a).acnt)))
    | .unpin len => .next (residency s a e len fun s _ ps =>
        ps.foldl (fun s p => dropPin s tid ctx e.cap.obj p) s)
    | .prefetch len => .next (residency s a e len fun s o ps =>
        if o.capacity then askStage s o ctx e.cap.obj ps else s)
    | .evict len => .next (residency s a e len fun s o ps =>
        if o.capacity then askEvict s o ctx e.cap.obj ps else s)
    | _ => .next s

/-! ### Translations (R277, R279) -/

/-- R277, R398: a walker in service translates a page for a read or a write. -/
def execPageWalk (ctx : BitVec 12) (obj : BitVec 24) (page : BitVec 48) (wr : Bool) (s : State) : Answer :=
  match objFind s ctx obj with
  | some e => .next (
      if e.kind = 2 ∧ walkServed s ctx obj e (page.toNat * 2 ^ e.pageShift) = true then (translatePage s e ctx obj page.toNat wr).1
      else s)
  | none => .next s

/-- R398: whether the supervisor core is in service. -/
def supervisorReady (s : State) : Bool := inService s 45

/-- R279: every cached copy of a page's translation is discarded. -/
def execTranslationInvalidate (ctx : BitVec 12) (obj : BitVec 24) (page : BitVec 48) (s : State) :
    Answer :=
  .next (if supervisorReady s then uncache s ctx obj page.toNat else s)

/-! ### Contents of a page -/

/-- The listed bytes of a range, by their place in it. -/
def rangeBytes (s : State) (base size : Nat) : List Host.Cell :=
  (s.mem.filter fun e => decide (base ≤ e.1 ∧ e.1 < base + size)).map fun e => (e.1 - base, e.2)

/-- The poisoned sectors of a range, by their place in it. -/
def rangePoison (s : State) (base size : Nat) : List Nat :=
  (s.poison.filter fun k => decide (base / 32 ≤ k ∧ k < (base + size) / 32)).map fun k => k - base / 32

/-- Free the poison entries of a range. -/
def freePoison (s : State) (base size : Nat) : State :=
  { s with poison := s.poison.filter fun k => !decide (base / 32 ≤ k ∧ k < (base + size) / 32) }

/-- Memory with a range filled with bytes given by their place in it. -/
def Memory.fill (m : List Host.Cell) (base size : Nat) (l : List Host.Cell) : List Host.Cell :=
  l.foldl (fun m e => if e.1 < size then Memory.write m (base + e.1) e.2 else m)
    (m.filter fun e => !decide (base ≤ e.1 ∧ e.1 < base + size))

/-- Fill a range with listed bytes and poisoned sectors. -/
def putRange (s : State) (base size : Nat) (p : BackPage) : State :=
  let s := { s with mem := Memory.fill s.mem base size p.bytes }
  p.poison.foldl (fun s k => enterPoison s (base / 32 + k)) (freePoison s base size)

/-- The contents of a range. -/
def takeRange (s : State) (base size : Nat) : BackPage := ⟨rangeBytes s base size, rangePoison s base size⟩

/-- R285: headers, and changes on their way to them, follow a page to its new base. -/
def rekeyHeaders (s : State) (old new size : Nat) : State :=
  let inside (k : Nat) : Bool := decide (old ≤ k ∧ k < old + size)
  let moving := s.headers.filter fun e => inside e.1
  let rest := s.headers.filter fun e => !inside e.1
  { s with
    headers := moving.foldl (fun t e => tableSet t (e.1 - old + new) e.2) rest
    markMsgs := s.markMsgs.map fun m =>
      if inside m.chunk then { m with chunk := m.chunk - old + new } else m }

/-- R284, R370: where the headers of a page that is in the capacity tier are kept. -/
def absentBase (ctx : BitVec 12) (obj : BitVec 24) (page : Nat) : Nat :=
  2 ^ 112 + pageKey ctx obj page * 2 ^ 21

/-- R376, R378: a new home verifies a chunk that it has received, from `dst` on, against the header that came with it, which
`key` holds; the answer tells also whether flag [0] is to be set in it. -/
def checkMoved (s : State) (e : ObjEntry) (ctx : BitVec 12) (chunk dst key : Nat) : State × Bool :=
  match headerNow s key with
  | none => (s, false)
  | some h =>
    let l := (List.range 128).map fun k => dst + 32 * k
    let formed := touchmark h.format.toNat (e.cut chunk (sectorBytes s l))
    if sectorsPoisoned s l then (s, true)
    else if h.differs formed then
      let s := poisonSectors s l
      ({ s with reports := s.reports ++ [h.report ctx (unitHop s e dst) formed] }, true)
    else (s, false)

/-- R376, R378: flag [0] of a chunk's header is set. -/
def flagHeader (s : State) (key : Nat) : State :=
  match tableFind s.headers key with
  | some h => { s with headers := tableSet s.headers key { h with flags := h.flags ||| 1, lost := false } }
  | none => s

/-- R376, R378: a new home verifies a chunk whose header has followed it. -/
def verifyMoved (s : State) (e : ObjEntry) (ctx : BitVec 12) (chunk key : Nat) : State :=
  match checkMoved s e ctx chunk key key with
  | (s, true) => flagHeader s key
  | (s, false) => s

/-- R376: a new home verifies every chunk of the page it has received. -/
def verifyPage (s : State) (e : ObjEntry) (ctx : BitVec 12) (page base : Nat) : State :=
  let size := 2 ^ e.pageShift
  (s.headers.filter fun h => decide (base ≤ h.1 ∧ h.1 < base + size)).foldl
    (fun s h => verifyMoved s e ctx ((page * size + (h.1 - base)) / 4096) h.1) s

/-! ### Pages that move (R285 to R289) -/

/-- A page that is RESIDENT, here or on another package (R287), with its entry and descriptor. -/
def residentPage (s : State) (ctx : BitVec 12) (obj : BitVec 24) (page : Nat) :
    Option (ObjEntry × BitVec 128) :=
  match objFind s ctx obj with
  | some e =>
    if e.kind = 2 then
      match walkPage s e ctx obj page false with
      | some d => if descState d = 1 then some (e, d) else none
      | none => none
    else none
  | none => none

/-- Whether a base is aligned for a page size and names memory that exists and is in service (R385, R389). -/
def baseOk (s : State) (e : ObjEntry) (base : Nat) : Bool :=
  decide (base % 2 ^ e.pageShift = 0) && physOk base
    && (List.range (2 ^ e.pageShift / 65536)).all fun k => !quarantinedAt s (base + 65536 * k)

/-- Dirty and accessed bits of a descriptor. -/
def descDirty (d : BitVec 128) : Bool := d.getLsbD 1
/-- R276. -/
def descAccessed (d : BitVec 128) : Bool := d.getLsbD 0

/-! ### The link-port table (R270, R274, R287) -/

/-- R274: the context that the host has given a domain context ID. -/
def domainContext (s : State) (d : BitVec 12) : Option (BitVec 12) :=
  (s.contexts.find? fun c => c.2.enable && c.2.domain = d).map fun c => BitVec.ofNat 12 c.1

/-- R270, R274: what an operation does to the link-port table's own objects. A report that it makes is the local context's of
the domain context ID; without one there is no ring for it. -/
def atPort (s : State) (d : BitVec 12) (f : State → State) : State :=
  let n := s.reports.length
  let t := swapPort (f (swapPort s))
  let made := (t.reports.drop n).filterMap fun r => (domainContext t d).map fun c => { r with ctx := c }
  { t with reports := t.reports.take n ++ made }

/-- R287: the supervisor cores enter an object of another package in the link-port table, under its domain context ID. Its
home is what its descriptors name (log entry 128). -/
def enterForeign (s : State) (ctx : BitVec 12) (obj : BitVec 24) (raw : BitVec 256) : State :=
  let e : ObjEntry := ⟨raw &&& ~~~(BitVec.ofNat 256 (3 * 2 ^ 94)), false, none, none, true⟩
  match tableFind s.port.objs (objKey ctx obj) with
  | some _ => s
  | none => { s with port := { s.port with objs := tableSet s.port.objs (objKey ctx obj) e } }

/-! ### Accesses from other packages (R274, R363, R382, R383, R396) -/

/-- R145, R146: an atomic operation by its number. -/
def AtomOp.ofCode (n : Nat) : AtomOp :=
  match n with
  | 0 => .add | 1 => .and | 2 => .or | 3 => .xor | 4 => .min | 5 => .max | 6 => .minz | 7 => .maxz | 8 => .swap
  | 9 => .cas | _ => .fadd

/-- R266: the rights that an access from another package needs. -/
def remoteNeed (r : RemoteAccess) : List Nat :=
  (match r.op with
    | .load => [Right.read] | .store _ _ => [Right.write] | .atomic _ _ _ => [Right.atomic]
    | .chunk _ _ _ => [Right.write])
    ++ (if r.stream then [Right.stream] else []) ++ if r.copy then [Right.copy] else []

/-- The bytes that an access from another package reaches. -/
def remoteBytes (r : RemoteAccess) : Nat :=
  match r.op with
  | .chunk _ _ _ => 4096
  | .load | .store _ _ | .atomic _ _ _ => 2 ^ r.size.val

/-- R320, R396: an answer leaves in a packet of class RSP. No field of a packet names its sender, so that a free value names the
package that the answer goes to (log entry 109). -/
def answerRemote (s : State) (r : RemoteAccess) (v : List Nat) (poisoned : Bool) : State :=
  let dest := (Config.remoteWord s.freeCtr).setWidth 10
  sendPacket (bump s) ⟨dest, .rsp, r.obj, r.offset, none, v.map (BitVec.ofNat 512), if poisoned then [0] else []⟩

/-- R376, R396: a whole chunk from another package is written, sector by sector, and verified by the header home. -/
def remoteChunk (s : State) (ctx : BitVec 12) (r : RemoteAccess) (header : BitVec 256) (payload : BitVec 32768)
    (poisoned : List (Fin 128)) : State :=
  let off := r.offset.toNat
  let twice := decide (r.mismatches.val = 2)
  let h := Header.unpack header.toNat
  let s := (List.finRange 128).foldl (fun s k =>
    (writeObj s ctx r.obj (off + 32 * k.val) 32 (remoteNeed r) (bits payload.toNat (256 * k.val) 256)
      (poisoned.contains k || twice) h.producer).1) s
  match objFind s ctx r.obj with
  | none => s
  | some e =>
    match if e.marked then chunkHome s ctx r.obj e (off / 4096) else none with
    | some dst => verifyChunk s ctx r.obj h dst e (off / 4096)
    | none => s

/-- R273, R274, R286: an access from another package, at the port whose table has its object under a context, is checked and
performed, or refused with no effect here; a page that has left answers moved. The task that a plain write comes from is not
in its packet. -/
def serveRemote (s : State) (ctx : BitVec 12) (r : RemoteAccess) : State :=
  let n := remoteBytes r
  let off := r.offset.toNat
  let need := remoteNeed r
  let twice := decide (r.mismatches.val = 2)
  let producer := (Config.remoteWord s.freeCtr).setWidth 32
  let report (s : State) : State := reportTwice s twice (unitReport s ctx producer r.obj off)
  match locate s ctx r.obj off n need (decide (r.op ≠ .load)) with
  | (s, .moved) | (s, .remote _) => answerRemote s r [] false
  | (s, .fail _) => answerRemote s r [] true
  | (_, .phys _ _) =>
    match r.op with
    | .load =>
      match readBad s ctx r.obj off n need r.bad with
      | (s, .value v p) => answerRemote s r [v] p
      | (s, _) => answerRemote s r [] true
    | .store v poisoned =>
      match writeObj (bump s) ctx r.obj off n need v.toNat (poisoned || twice) producer with
      | (s, .done) => answerRemote (report s) r [] false
      | (s, _) => answerRemote s r [] true
    | .atomic k v cmp =>
      let op := AtomOp.ofCode k.val
      if n ≠ 4 ∧ (n ≠ 8 ∨ op = .fadd) then s
      else match readObj (spoilSector (bump s) ctx r.obj off r.bad) ctx r.obj off n need with
        | (s, .value old p) =>
          if p then answerRemote s r [old] true
          else
            let new := op.apply (8 * n) old v.toNat cmp.toNat
            match writeObj s ctx r.obj off n need new twice producer with
            | (s, .done) => answerRemote (report s) r [(op.returned (8 * n) old).toNat] (twice || decide (r.bad = .flit))
            | (s, _) => answerRemote s r [] true
        | (s, _) => answerRemote s r [] true
    | .chunk header payload poisoned => answerRemote (report (remoteChunk s ctx r header payload poisoned)) r [] false

/-! ### Pages on their way (R285 to R289) -/

/-- Whether a move is that of a page. -/
def PageMove.onPage (m : PageMove) (ctx : BitVec 12) (obj : BitVec 24) (page : Nat) : Bool :=
  m.ctx = ctx && m.obj = obj && m.page.toNat = page

/-- R285, R286: the new home holds an access to a page that is moving. -/
def holdAt (s : State) (m : PageMove) (h : Held) : State :=
  { s with moves := s.moves.map fun n =>
      if n.onPage m.ctx m.obj m.page.toNat && !n.held.contains h then { n with held := n.held ++ [h] } else n }

/-- R285, R287: a page starts moving from the package `home`, which from here on answers every access moved, to a base of the
package `pkg`. -/
def startMove (s : State) (e : ObjEntry) (d : BitVec 128) (ctx : BitVec 12) (obj : BitVec 24) (page base : BitVec 48)
    (pkg home : BitVec 10) : State :=
  let s := setDesc s e ctx obj page.toNat
    (mkDesc 2 (descBase d) base.toNat pkg.toNat (descDirty d) (descAccessed d))
  { s with moves := s.moves ++ [⟨ownCtx s ctx obj, obj, page, base, pkg, home, none, [], []⟩] }

/-- R285, R287: the supervisor core starts relocating a page that a port's table has as RESIDENT; none where it has not. -/
def relocate (s : State) (ctx : BitVec 12) (obj : BitVec 24) (page base : BitVec 48) (pkg : BitVec 10) : Option State :=
  match residentPage s ctx obj page.toNat with
  | some (e, d) =>
    if baseOk s e base.toNat = true ∧ (moveOf s ctx obj page.toNat).isNone = true then
      some (startMove s e d ctx obj page base pkg (BitVec.ofNat 10 (descPkg d)))
    else none
  | none => none

/-- An operation on a page: of this package's own tables where it applies there, else of the link port's. -/
def eitherTable (s : State) (ctx : BitVec 12) (f : State → Option State) : State :=
  match f s with
  | some t => t
  | none => atPort s ctx fun s => (f s).getD s

/-- R285, R287: the supervisor core starts relocating a page, to this package or another; from here the old home answers every
access moved. With an object's entry, the page is another package's, `pkg`, and comes here: the object is entered first, under
the domain context ID `ctx`. -/
def execPageRelocation (ctx : BitVec 12) (obj : BitVec 24) (page : BitVec 48) (pkg : BitVec 10) :
    BitVec 48 × Option (BitVec 256) → State → Answer
  | (base, none), s => .next (if supervisorReady s then eitherTable s ctx fun s => relocate s ctx obj page base pkg else s)
  | (base, some raw), s =>
    .next (if pkg = s.pkgnum ∨ supervisorReady s = false then s else atPort (enterForeign s ctx obj raw) ctx fun s =>
      match objFind s ctx obj with
      | some e =>
        if e.kind = 2 ∧ baseOk s e base.toNat = true ∧ (moveOf s ctx obj page.toNat).isNone = true
            ∧ (residentPage s ctx obj page.toNat).all (fun r => decide (descPkg r.2 ≠ s.pkgnum.toNat)) = true then
          startMove s e 0 ctx obj page base s.pkgnum pkg
        else s
      | none => s)

/-- R288: the supervisor core starts retiring a page that a port's table has as RESIDENT here; none where it has not. -/
def retire (s : State) (ctx : BitVec 12) (obj : BitVec 24) (page base : BitVec 48) : Option State :=
  match residentPage s ctx obj page.toNat with
  | some (e, d) =>
    if descPkg d = s.pkgnum.toNat ∧ baseOk s e base.toNat = true ∧ (moveOf s ctx obj page.toNat).isNone = true then
      let s := setDesc s e ctx obj page.toNat
        (mkDesc 3 (descBase d) base.toNat s.pkgnum.toNat (descDirty d) (descAccessed d))
      some { s with moves := s.moves ++ [⟨ownCtx s ctx obj, obj, page, base, s.pkgnum, s.pkgnum, some 0, [], []⟩] }
    else none
  | none => none

/-- R288: the supervisor core starts retiring a page. -/
def execPageRetirementStart (ctx : BitVec 12) (obj : BitVec 24) (page base : BitVec 48) (s : State) :
    Answer :=
  .next (if supervisorReady s then eitherTable s ctx fun s => retire s ctx obj page base else s)

/-- R286: an access that was answered moved has reached the new home. -/
def unmark (s : State) (a : Fin 32) (id : Nat) : State :=
  updA s a fun x => { x with queue := x.queue.map fun e =>
    if e.id = id then { e with moved := false } else e }

/-- Perform an entry of a queue at the agent that serves it, if its turn has come. -/
def performEntry (s : State) (a : Fin 32) (id : Nat) : State :=
  match (getA s a).entry id with
  | none => s
  | some e =>
    let r := match e.op with
      | .store _ _ | .push _ _ _ => execStoreArrivesAtHome a (id, 0, false) s
      | .atomic _ _ _ _ _ => execAtomicApplied a id (0, .clean) s
      | .load _ _ | .loadPair _ => execLoadLands a (id, .clean) s
      | _ => .next s
    match r with
    | .next s => s
    | _ => s

/-- R286: an access that was sent again is performed at a home. -/
def performAgain (s : State) (a : Fin 32) (id : Nat) : State := performEntry (unmark s a id) a id

/-- R285: the page becomes resident at its new base; the new home applies the accesses it holds, in the
order they arrived. -/
def settlePage (s : State) (e : ObjEntry) (d : BitVec 128) (m : PageMove) (base pkg : Nat) : State :=
  let s := setDesc s e m.ctx m.obj m.page.toNat (mkDesc 1 base 0 pkg (descDirty d) (descAccessed d))
  let s := { s with moves := s.moves.filter fun n => !n.onPage m.ctx m.obj m.page.toNat }
  m.held.foldl (fun s h => match h with
    | .entry a id => performAgain s a id
    | .write off n v producer => putObj s m.ctx m.obj off n [] v producer
    | .remote r => serveRemote s (if e.foreign then m.ctx else (domainContext s r.domainCtx).getD m.ctx) r) s

/-- The move of a page and its descriptor. -/
def moving (s : State) (ctx : BitVec 12) (obj : BitVec 24) (page : Nat) :
    Option (ObjEntry × BitVec 128 × PageMove) :=
  match objFind s ctx obj, moveOf s ctx obj page with
  | some e, some m => (walkPage s e ctx obj page false).map fun d => (e, d, m)
  | _, _ => none

/-- R284, R385: whether the command processor stages a page. -/
def staging (s : State) (ctx : BitVec 12) (obj : BitVec 24) (page : BitVec 48) : Bool :=
  s.stageJobs.contains ⟨ctx, obj, page⟩

/-- R285, R287: the contents of a page that comes from another package. -/
def arrivedPage (free sectors : Nat) : BackPage :=
  ⟨(List.range sectors).foldl (fun m k => Memory.writeN m (32 * k) 32 (Config.arrivedSector free k).toNat) [],
    (List.range sectors).filter (Config.arrivedPoison free)⟩

/-- R285, R287, R376: a page that comes from another package, with the header of each chunk of a marked object; those that
this package had kept aside are out of date. -/
def receivePage (s : State) (e : ObjEntry) (m : PageMove) : State :=
  let size := 2 ^ e.pageShift
  let base := m.target.toNat
  let aside := absentBase m.ctx m.obj m.page.toNat
  let free := s.freeCtr
  let s := putRange (bump s) base size (arrivedPage free (size / 32))
  let chunks := (List.range (size / 4096)).filter fun k => e.marked && decide (m.page.toNat * size + 4096 * k < e.size)
  let kept := s.headers.filter fun h => !decide (aside ≤ h.1 ∧ h.1 < aside + size)
  let headers := chunks.foldl (fun t k => tableSet t (base + 4096 * k) (arrivedHeader free (base + 4096 * k))) kept
  verifyPage { s with headers := headers } e m.ctx m.page.toNat base

/-- R285, R287: what the copy of a page has moved by the time it is complete. -/
def copyPage (s : State) (e : ObjEntry) (old : Nat) (m : PageMove) : State :=
  let size := 2 ^ e.pageShift
  let base := m.target.toNat
  if m.home = s.pkgnum then
    if m.pkg = s.pkgnum then
      let s := rekeyHeaders (putRange s base size (takeRange s old size)) old base size
      let s := verifyPage s e m.ctx m.page.toNat base
      if old = base then s else freePoison s old size
    else freePoison (rekeyHeaders s old (absentBase m.ctx m.obj m.page.toNat) size) old size
  else if m.pkg = s.pkgnum then receivePage s e m
  else s

/-- R285: the copy of a page of a port's table is complete; none where that table has no such move. -/
def endRelocation (s : State) (ctx : BitVec 12) (obj : BitVec 24) (page : BitVec 48) : Option State :=
  match moving s ctx obj page.toNat with
  | some (e, d, m) =>
    if m.cursor.isSome || staging s ctx obj page then none
    else some (settlePage (copyPage s e (descBase d) m) e d m m.target.toNat m.pkg.toNat)
  | none => none

/-- R285: the copy of a relocation is complete. -/
def execRelocationCopyComplete (ctx : BitVec 12) (obj : BitVec 24) (page : BitVec 48) (s : State) :
    Answer :=
  .next (eitherTable s ctx fun s => endRelocation s ctx obj page)

/-- R286: the accesses of a sequencer to a page of an object that were answered moved, in the order it committed them. -/
def movedEntries (s : State) (a : Fin 32) (obj : BitVec 24) (page : Nat) : List Nat :=
  match objFind s (getA s a).ctx obj with
  | none => []
  | some o => ((getA s a).queue.filter fun e =>
      e.moved && decide (e.cap.obj = obj ∧ e.off / 2 ^ o.pageShift = page)).map fun e => e.id

/-- R286: an agent receives a moved answer and sends again, to the new home, every access of its own to the page that was
answered so, in their order. The new home holds them until the page has settled, and applies them at once where it has (log
entry 125). -/
def execMovedAnswer (a : Fin 32) (id : Nat) (s : State) : Answer :=
  match (getA s a).entry id with
  | none => .next s
  | some e =>
    if e.moved then
      let ctx := (getA s a).ctx
      let page := match objFind s ctx e.cap.obj with
        | some o => e.off / 2 ^ o.pageShift
        | none => 0
      let ids := movedEntries s a e.cap.obj page
      match moveOf s ctx e.cap.obj page with
      | none => .next (ids.foldl (fun s id => performAgain s a id) s)
      | some m => .next (ids.foldl (fun s id => holdAt s m (.entry a id)) s)
    else .next s

/-- R376, R378, R383: the cursor of a retirement has copied the last sector of a chunk: the new home verifies it. -/
def retiredChunk (s : State) (e : ObjEntry) (m : PageMove) (old c : Nat) : State :=
  if (c + 1) % 128 = 0 then
    let k := c / 128
    match checkMoved s e m.ctx (m.page.toNat * 2 ^ e.pageShift / 4096 + k) (m.target.toNat + 4096 * k) (old + 4096 * k) with
    | (s, true) =>
      { s with moves := s.moves.map fun n =>
          if n.onPage m.ctx m.obj m.page.toNat then { n with flagged := n.flagged ++ [k] } else n }
    | (s, false) => s
  else s

/-- R288, R376: the page flips: the headers follow it, with flag [0] in those of `flagged`, and it becomes resident at the new
copy. -/
def flipPage (s : State) (e : ObjEntry) (d : BitVec 128) (m : PageMove) : State :=
  let size := 2 ^ e.pageShift
  let old := descBase d
  let base := m.target.toNat
  let s := m.flagged.foldl (fun s k => flagHeader s (base + 4096 * k)) (rekeyHeaders s old base size)
  settlePage (freePoison s old size) e d m base s.pkgnum.toNat

/-- R288: the old home of a page of a port's table copies the sector at the cursor and advances past it; past the last sector
the page flips to the new copy. -/
def retireSector (s : State) (ctx : BitVec 12) (obj : BitVec 24) (page : Nat) : Option State :=
  match moving s ctx obj page with
  | some (e, d, m) =>
    m.cursor.map fun c =>
      let old := descBase d
      let r := readPhys s (old + 32 * c) 32
      let s := retiredChunk (writePhys s (m.target.toNat + 32 * c) 32 r.1 r.2) e m old c
      if 32 * (c + 1) < 2 ^ e.pageShift then
        let advance (n : PageMove) : PageMove :=
          if n.onPage m.ctx m.obj m.page.toNat then { n with cursor := some (c + 1) } else n
        { s with moves := s.moves.map advance }
      else flipPage s e d ((moveOf s ctx obj page).getD m)
  | none => none

/-- R288: a retirement goes on by one sector. -/
def execPageRetirementStep (ctx : BitVec 12) (obj : BitVec 24) (page : BitVec 48) (s : State) : Answer :=
  .next (eitherTable s ctx fun s => retireSector s ctx obj page.toNat)

/-- R274, R285: whether an access to a page that is coming to a base of this package is held. -/
def holdRemote (s : State) (ctx : BitVec 12) (r : RemoteAccess) : Option PageMove :=
  match objFind s ctx r.obj with
  | some e =>
    if e.kind = 2 then
      (moveOf s ctx r.obj (r.offset.toNat / 2 ^ e.pageShift)).filter fun m => decide (m.pkg = s.pkgnum ∧ m.cursor = none)
    else none
  | none => none

/-- R273, R274: an access from another package arrives at a port's table under a context, where what holds its bytes serves
it now. -/
def remoteArrives (s : State) (ctx : BitVec 12) (r : RemoteAccess) : State :=
  match holdRemote s ctx r with
  | some m =>
    let hold (n : PageMove) : PageMove :=
      if n.onPage m.ctx m.obj m.page.toNat then { n with held := n.held ++ [.remote r] } else n
    { s with moves := s.moves.map hold }
  | none => if bytesServed s ctx r.obj r.offset.toNat (remoteBytes r) then serveRemote s ctx r else s

/-- R273, R274, R396: an access from another package is checked at the link port, in whose table its object stands under its
domain context ID, and performed, held for a page that is coming, or refused with no effect here. What it answers leaves the
package. One for another package does not arrive. -/
def execRemoteAccessArrives (r : RemoteAccess) (s : State) : Answer :=
  if r.dest = s.pkgnum ∧ r.offset.toNat % remoteBytes r = 0 ∧ (s.ports.any fun p => p.up) = true then
    if (tableFind s.port.objs (objKey r.domainCtx r.obj)).isSome then
      .next (atPort s r.domainCtx fun s => remoteArrives s r.domainCtx r)
    else match domainContext s r.domainCtx with
      | some ctx => .next (remoteArrives s ctx r)
      | none => .next s
  else .next s

/-! ### The capacity tier (R284) -/

/-- Take a page off a list of jobs. -/
def dropJob (l : List PageJob) (ctx : BitVec 12) (obj : BitVec 24) (page : BitVec 48) : List PageJob :=
  l.filter fun j => j != ⟨ctx, obj, page⟩

/-- R284: whether a page is the next that the command processor stages of its object: in the order asked for, and so by
ascending page within a range. -/
def nextStaged (s : State) (ctx : BitVec 12) (obj : BitVec 24) (page : BitVec 48) : Bool :=
  match s.stageJobs.find? fun j => j.ctx = ctx && j.obj = obj with
  | some j => decide (j.page = page)
  | none => false

/-- R284, R385: the command processor finishes copying a page from the capacity tier into HBM. -/
def execCapacityPageStaged (ctx : BitVec 12) (obj : BitVec 24) (page base : BitVec 48) (s : State) :
    Answer :=
  match objFind s ctx obj with
  | none => .next s
  | some e =>
    if nextStaged s ctx obj page && baseOk s e base.toNat && decide (e.kind = 2) then
      let size := 2 ^ e.pageShift
      let back := tableGet s.backing (pageKey ctx obj page.toNat) ⟨[], []⟩
      let s' := { s with stageJobs := dropJob s.stageJobs ctx obj page }
      match walkPage s e ctx obj page.toNat false, moveOf s ctx obj page.toNat with
      | some d, some m =>
        let old := descBase d
        let s' := rekeyHeaders (putRange s' base.toNat size back) old base.toNat size
        .next (settlePage s' e d m base.toNat s.pkgnum.toNat)
      | some d, none =>
        if descState d = 0 then
          let s' := rekeyHeaders (putRange s' base.toNat size back) (absentBase ctx obj page.toNat)
            base.toNat size
          .next (setDesc s' e ctx obj page.toNat (mkDesc 1 base.toNat 0 s.pkgnum.toNat false false))
        else .next s'
      | none, _ => .next s
    else .next s

/-- R284: the write-back of a dirty page ends; the page becomes ABSENT, unless it is pinned by now or
moving. -/
def execCapacityPageEvicted (ctx : BitVec 12) (obj : BitVec 24) (page : BitVec 48) (s : State) : Answer :=
  if s.evictJobs.contains ⟨ctx, obj, page⟩ then
    let s := { s with evictJobs := dropJob s.evictJobs ctx obj page }
    match residentPage s ctx obj page.toNat with
    | some (e, d) =>
      if pinsOn s ctx obj page.toNat = 0 then
        let size := 2 ^ e.pageShift
        let here := decide (descPkg d = s.pkgnum.toNat)
        let back := if here then takeRange s (descBase d) size else arrivedPage s.freeCtr (size / 32)
        let s := if here then
            rekeyHeaders (freePoison s (descBase d) size) (descBase d) (absentBase ctx obj page.toNat) size
          else bump s
        let s := setDesc s e ctx obj page.toNat (mkDesc 0 0 0 0 false false)
        .next { s with backing := tableSet s.backing (pageKey ctx obj page.toNat) back }
      else .next s
    | none => .next s
  else .next s

/-! ### Quarantine (R385, R389) -/

/-- The objects of the table with their contexts and numbers. -/
def objList (s : State) : List (BitVec 12 × BitVec 24 × ObjEntry) :=
  s.objs.map fun e => (BitVec.ofNat 12 (e.1 / 2 ^ 24), BitVec.ofNat 24 e.1, e.2)

/-- R385: the record of a fatal error of subcause 4. -/
def quarantineInfo (obj : BitVec 24) (off : Nat) : FatalInfo :=
  { subcause := 4, agent := 5, obj := obj, offset := BitVec.ofNat 64 off, array := none, xsw := 0, pc := 0
    tid := 0, chunk := 0, kind := 0 }

/-- R289, R385: what becomes of one object that holds bytes of a quarantined physical page, or whose page is on its way to
it; a retirement or relocation of the page stops. The contexts that own an object of the link port's table are another
package's. -/
def quarantineObject (s : State) (page : Nat) (ctx : BitVec 12) (obj : BitVec 24) (e : ObjEntry) : State :=
  if e.sharedFrom.isSome then s
  else if e.kind = 1 then
    let holds := (List.range (ceilDiv e.size 64)).any fun k =>
      match byteHome s ctx obj e (64 * k) with
      | some a => decide (a / 65536 = page)
      | none => false
    if holds then fatalContext s ctx (quarantineInfo obj 0) else s
  else if e.kind = 2 then
    (List.range (ceilDiv e.size (2 ^ e.pageShift))).foldl (fun s p =>
      match walkPage s e ctx obj p false with
      | none => s
      | some d =>
        let spans (base : Nat) : Bool :=
          decide (base / 65536 ≤ page ∧ page < (base + 2 ^ e.pageShift) / 65536)
        let copies := match moveOf s ctx obj p with
          | some m => decide (m.pkg = s.pkgnum) && !staging s ctx obj m.page && spans m.target.toNat
          | none => false
        if (pageHere s ctx obj p d && spans (descBase d)) || copies then
          if e.capacity && !descDirty d && !e.foreign && decide (descState d ≠ 3) then
            let s := setDesc s e ctx obj p (mkDesc 2 (descBase d) 0 s.pkgnum.toNat false (descAccessed d))
            let held := match moveOf s ctx obj p with | some m => m.held | none => []
            { s with
              moves := (s.moves.filter fun m => !m.onPage ctx obj p)
                ++ [⟨ctx, obj, BitVec.ofNat 48 p, 0, s.pkgnum, s.pkgnum, none, held, []⟩]
              stageJobs := ⟨ctx, obj, BitVec.ofNat 48 p⟩ :: s.stageJobs.filter fun j =>
                !(j.ctx = ctx && j.obj = obj && j.page.toNat = p) }
          else
            let s := setDesc s e ctx obj p
              (mkDesc 4 (descBase d) 0 (descPkg d) (descDirty d) (descAccessed d))
            let s := { s with moves := s.moves.filter fun m => !m.onPage ctx obj p }
            if e.foreign then s else fatalContext s ctx (quarantineInfo obj p)
        else s) s
  else s

/-- R385: act on every object that holds bytes of a physical page, in the package's own tables and the link port's. -/
def quarantineOwners (s : State) (page : Nat) : State :=
  let all (s : State) : State := (objList s).foldl (fun s o => quarantineObject s page o.1 o.2.1 o.2.2) s
  swapPort (all (swapPort (all s)))

/-- R389: the physical pages of a stack that objects hold bytes of, or that pages are on their way to. -/
def ownedPages (s : State) (k : Fin 16) : List Nat :=
  let targets := s.moves.flatMap fun m =>
    (List.range 32).map fun n => m.target.toNat / 65536 + n
  let mine := targets.filter fun p => decide (65536 * p / 2 ^ 44 = 0 ∧ stackOf (65536 * p) = k.val)
  mine.foldl setInsert ((objList s).foldl (fun l o =>
    let bytes := if o.2.2.kind = 1 then (List.range (ceilDiv o.2.2.size 64)).map fun n => 64 * n
      else if o.2.2.kind = 2 then (List.range (ceilDiv o.2.2.size 65536)).map fun n => 65536 * n
      else []
    bytes.foldl (fun l off => match byteHome s o.1 o.2.1 o.2.2 off with
      | some a => if a / 2 ^ 44 = 0 ∧ stackOf a = k.val then setInsert l (a / 65536) else l
      | none => l) l) [])

/-- R389: a pseudo-channel is quarantined: every page with a byte in it is treated under R385, its entries are freed, and it
reads as a listed page does from then on. -/
def quarantineChannel (s : State) (k : Fin 16) (pc : Nat) : State :=
  let pages := (ownedPages (swapPort s) k).foldl setInsert (ownedPages s k)
  let s := (pages.filter fun p => onChannel p pc).foldl quarantineOwners s
  let gone (x : Nat) : Bool :=
    decide (32 * x / 2 ^ 44 = 0 ∧ stackOf (32 * x) = k.val) && onChannel (32 * x / 65536) pc
  let s := { s with poison := s.poison.filter fun x => !gone x }
  let x : Stack := { s.stackCtl[k] with dead := setInsert s.stackCtl[k].dead pc }
  { s with stackCtl := s.stackCtl.set k x }

/-- R385: the supervisor acts on a page that a full sector record quarantines. Its entries are freed, and
it goes on the stack's list; with the list full, every pseudo-channel that holds a byte of the page is quarantined, so that
all of the page leaves service. -/
def execPageQuarantine (page : Nat) (s : State) : Answer :=
  if s.toQuarantine.contains page && supervisorReady s then
    let k : Fin 16 := finOf 15 (stackOf (65536 * page))
    let s := { s with toQuarantine := setErase s.toQuarantine page }
    let s := freePoison (quarantineOwners s page) (65536 * page) 65536
    if s.stackCtl[k].quarantined.length < 256 then
      let x : Stack := { s.stackCtl[k] with quarantined := setInsert s.stackCtl[k].quarantined page }
      .next { s with stackCtl := s.stackCtl.set k x }
    else
      let channels := ((List.range 2048).map fun n => Config.pseudoChannel (65536 * page + 32 * n)).foldl setInsert []
      .next (channels.foldl (fun s pc => quarantineChannel s k pc) s)
  else .next s

/-! ### Headers and slices (R249, R375, R384) -/

/-- R375: a mark change reaches the header home and is added mod P. -/
def execMarkChangeArrives (k : Nat) (s : State) : Answer :=
  match s.markMsgs[k]? with
  | none => .next s
  | some m =>
    let s := { s with markMsgs := s.markMsgs.eraseIdx k }
    match tableFind s.headers m.chunk with
    | some h => .next { s with headers := tableSet s.headers m.chunk (h.change m.t0 m.t1 m.producer) }
    | none => .next s

/-- R384: an uncorrectable read of a 64-byte line returns the halves of `bad` poisoned and enters them. -/
def poisonHalves (s : State) (line : Nat) (bad : BitVec 2) : State :=
  let s := if bad.getLsbD 0 then enterPoison s (2 * line) else s
  if bad.getLsbD 1 then enterPoison s (2 * line + 1) else s

/-- R249: a miss of a line takes one of entries 0 to 27 of its slice's miss table, or waits at the slice in arrival order.
For a miss that has its entry, the fill returns, with the halves of the line that could not be corrected, once the controller
has accepted any write-back of the line (log entries 101 and 126). -/
def execCacheMissFill (cl : Fin 8) (line : Nat) (bad : BitVec 2) (s : State) : Answer :=
  match sliceOf s (64 * line) with
  | some (c, b) =>
    let x := s.clusters[cl]
    if c = cl.val ∧ tableFind x.lines line = none then
      match x.misses.find? fun e => e.line = line with
      | none => .next (updC s cl fun x => { x with misses := x.misses ++ [⟨line, b, freeMiss x.misses b⟩] })
      | some e =>
        if e.entry.isSome && !x.writeBacks.any fun w => w.line = line then
          .next (updC (poisonHalves s line bad) cl fun x =>
            { x with lines := tableSet x.lines line false, misses := fillMiss x.misses line })
        else .next s
    else .next s
  | none => .next s

/-- R249: the reserved entry that a write-back takes: a free one of its slice, or none. -/
def freeEntry (l : List WriteBackEntry) (slice : Nat) : Option (Fin 4) :=
  (List.finRange 4).find? fun k => !l.any fun e => decide (e.slice = slice ∧ e.entry = some k)

/-- R249: a dirty line is written back and leaves its slice: its write-back takes a reserved entry, or is written around
where all four are busy. For a write-back under way, the stack controller accepts it. -/
def execWriteBack (cl : Fin 8) (line : Nat) (s : State) : Answer :=
  .next (if tableFind s.clusters[cl].lines line = some true then
      let slice := ((sliceOf s (64 * line)).map Prod.snd).getD 0
      updC s cl fun x =>
        { x with
          lines := tableErase x.lines line
          writeBacks := x.writeBacks ++ [⟨line, slice, freeEntry x.writeBacks slice⟩] }
    else updC s cl fun x => { x with writeBacks := x.writeBacks.filter fun e => e.line != line })

end Sys2Proof.Machine
end

