-- ==== Sys2Proof/Machine/Issue.lean ====
section
/-! DEFINITION. How a bundle comes to issue (R15 to R20, R32, R39, R108, R113, R116, R121, R122, R232,
R233), its end, and the traps, cancels and rollbacks at boundaries (R118, R335 to R348). -/

namespace Sys2Proof.Machine

/-! ### Registers that a form names (R16, R19) -/

/-- R19: the scalar registers that a form reads. -/
def readsS : Instr → List (Fin 32)
  | .jmpi _ a | .loop _ _ a _ | .csrw _ a _ | .csrs _ a _ | .csrc _ a _ => [a]
  | .add _ _ a b | .sub _ _ a b | .mul _ _ a b | .mulh _ _ a b | .mulhz _ _ a b | .and _ _ a b
  | .andn _ _ a b | .or _ _ a b | .xor _ _ a b | .shl _ _ a b | .shr _ _ a b | .sar _ _ a b
  | .rotl _ _ a b | .min _ _ a b | .max _ _ a b | .minz _ _ a b | .maxz _ _ a b => [a, b]
  | .clz _ _ a | .ctz _ _ a | .popc _ _ a | .mov _ _ a | .addi _ _ a _ => [a]
  | .lui _ _ d _ => [d]
  | .cmp _ _ _ a b | .sel _ _ _ a b | .capnarrow _ _ _ a b => [a, b]
  | .cmpi _ _ _ a _ | .maskld _ _ a | .maskrot _ _ _ a => [a]
  | .ld _ _ _ o _ _ | .ldp _ _ _ o _ => [o]
  | .st _ v _ o _ _ => [v, o]
  | .stp _ v _ o _ => [v, pairOf v, o]
  | .amoAdd _ _ _ o v _ | .amoAnd _ _ _ o v _ | .amoOr _ _ _ o v _ | .amoXor _ _ _ o v _
  | .amoMin _ _ _ o v _ | .amoMax _ _ _ o v _ | .amoMinz _ _ _ o v _ | .amoMaxz _ _ _ o v _
  | .amoSwap _ _ _ o v _ => [o, v]
  | .cas _ d _ o v _ => [d, o, v]
  | .redAdd _ _ o v _ | .redAnd _ _ o v _ | .redOr _ _ o v _ | .redXor _ _ o v _ | .redMin _ _ o v _
  | .redMax _ _ o v _ | .redFadd _ _ o v => [o, v]
  | .strmBind _ _ _ o _ | .cpySet _ _ _ o | .tlaunch _ _ o => [o]
  | .strmAdv _ _ a | .tlWait _ _ _ a | .barInit _ a _ | .barXp _ a _ => [a]
  | .probe _ _ _ o l | .unpin _ _ o l | .prefetch _ _ o l | .evict _ _ o l => [o, l]
  | .fnTag _ a | .fwTag _ a | .rsSet _ _ a => [a]
  | _ => []

/-- R16, R19: the scalar registers that a form writes. -/
def writesS : Instr → List (Fin 32)
  | .csrr _ d _ | .add _ d _ _ | .sub _ d _ _ | .mul _ d _ _ | .mulh _ d _ _ | .mulhz _ d _ _
  | .and _ d _ _ | .andn _ d _ _ | .or _ d _ _ | .xor _ d _ _ | .shl _ d _ _ | .shr _ d _ _
  | .sar _ d _ _ | .rotl _ d _ _ | .min _ d _ _ | .max _ d _ _ | .minz _ d _ _ | .maxz _ d _ _
  | .clz _ d _ | .ctz _ d _ | .popc _ d _ | .mov _ d _ | .addi _ d _ _ | .li _ d _ | .lui _ _ d _
  | .sel _ d _ _ _ | .capinfo _ d _ _ | .ld _ d _ _ _ _ => [d]
  | .ldp _ d _ _ _ => [d, pairOf d]
  | .amoAdd _ d _ _ _ _ | .amoAnd _ d _ _ _ _ | .amoOr _ d _ _ _ _ | .amoXor _ d _ _ _ _
  | .amoMin _ d _ _ _ _ | .amoMax _ d _ _ _ _ | .amoMinz _ d _ _ _ _ | .amoMaxz _ d _ _ _ _
  | .amoSwap _ d _ _ _ _ | .cas _ d _ _ _ _ | .strmLvl _ d _ | .tlWait _ d _ _ | .tlRead _ d _
  | .barWait _ d _ | .tkCnt _ d | .aggRd _ d _ _ => [d]
  | _ => []

/-- R16: the predicates that a form writes. -/
def writesP : Instr → List (Fin 8)
  | .sprint _ d _ _ | .cmp _ d _ _ _ | .cmpi _ d _ _ _ | .plog _ d _ _ _ | .barTest _ _ d
  | .probe _ d _ _ _ => [d]
  | _ => []

/-! ### The bundle in the latch (R14, R17, R40) -/

/-- R14: the word of slot `k`. -/
def Arr.word (x : Arr) (k : Nat) : Nat := fld x.latch.toNat (32 * k) 32

/-- R38, R39: the form of slot `k`, if its word is legal. -/
def Arr.form (x : Arr) (k : Nat) : Option Instr := decodeSlot k (x.word k)

/-- R17, R40: whether the predicate of slot `k` is true; the `WAVE` slot has none. -/
def Arr.enabled (x : Arr) (k : Nat) : Bool :=
  decide (k = 5 ∨ x.word k = 0) || x.rp (Fin.ofNat 8 (fld (x.word k) 22 3))

/-- R16: whether slot `k` names as a destination a register that a slot below it names too. Only scalar
registers and predicates can be destinations of two slots. -/
def Arr.duplicate (x : Arr) (k : Nat) : Bool :=
  match x.form k with
  | none => false
  | some i => (List.range k).any fun m =>
      match x.form m with
      | none => false
      | some j => ((writesS i).any fun r => (writesS j).contains r)
          || (writesP i).any fun r => (writesP j).contains r

/-- R19: whether slot `k` reads or writes a register with its pending bit set. -/
def Arr.pendingSlot (x : Arr) (k : Nat) : Bool :=
  match x.form k with
  | none => false
  | some i => x.enabled k && (readsS i ++ writesS i).any fun r => x.pendS[r]

/-- R122, R182: whether the `WAVE` slot holds a heavy form for which no leave stands. -/
def Arr.needsLeave (x : Arr) : Bool :=
  match x.form 5 with
  | none => false
  | some i =>
    match leaveClassOf i with
    | none => false
    | some c => x.wave.isNone && !(decide (x.leaveLeft ≠ 0 ∧ c ≤ x.leaveClass.toNat))

/-- R113, R114: the sync group that the bundle joins, if it is one of `SYNC` or `REALIGN`. -/
def Arr.syncGroup (x : Arr) : Option (BitVec 8) :=
  if x.resume = 0 ∧ x.enabled 0 = true then
    match x.form 0 with
    | some (.sync _ g) => some g
    | some (.realign _) => some 0
    | _ => none
  else none

/-- R114: whether the bundle is a `REALIGN`. -/
def Arr.isRealign (x : Arr) : Bool :=
  match x.form 0 with
  | some (.realign _) => true
  | _ => false

/-- R116: what a `SWAIT` of the bundle finds. -/
def Arr.swaiting (x : Arr) : Option (Nat ⊕ Bool) :=
  if x.resume = 0 ∧ x.enabled 0 = true then
    match x.form 0 with
    | some (.swait _ q n) => some (swaitState x q n.toNat)
    | _ => none
  else none

/-- R32, R113: what holds the bundle in the latch back. -/
def holdOf (s : State) (a : Fin 32) : Option Wait :=
  let x := getA s a
  if (List.range 8).any fun k => decide (x.resume ≤ k) && x.pendingSlot k then some .operand
  else if x.swaiting = some (.inr false) then some .swait
  else if x.resume ≤ 5 ∧ x.needsLeave = true then some .leave
  else
    match x.syncGroup with
    | some g => if (syncMembers s a g).isSome && !x.released then some .sync else none
    | none => none

/-! ### Fetch and issue -/

/-- R16, R104: the registers that the bundle due reads. -/
def Arr.refresh (x : Arr) : Arr :=
  let x := x.landRegs x.acnt
  let r := { x.regs with pc := x.due.setWidth 48 }
  { x with regs := r, snap := r }

/-- R108: whether the bundle due cannot be fetched. -/
def Arr.badTarget (x : Arr) : Bool :=
  decide (x.due.toNat % 32 ≠ 0 ∨ 2 ^ 48 ≤ x.due.toNat ∨ x.prog.len.toNat < x.due.toNat + 32)
    || !(x.prog.valid && x.prog.has Right.execute)

/-- What a fetch ends in. -/
inductive Fetched where
  | ready | later | stopped
  deriving DecidableEq, Repr

/-- R37, R108: fetch the bundle due into the latch. A target that cannot be fetched raises the capability
fault there. A moving page answers later. -/
def fetch (s : State) (a : Fin 32) : State × Fetched :=
  let x := getA s a
  if x.badTarget then
    let pc := x.due.setWidth 48
    (updA s a fun x => { x with slotTrap := some ⟨.capability, 7, 0, 0, pc, pc + 32#48⟩ }, .stopped)
  else
    let take (s : State) (v : BitVec 256) : State × Fetched :=
      (updA s a fun x => { x with latch := v }.refresh, .ready)
    let off := x.prog.lower.toNat + x.due.toNat
    match readObj s x.ctx x.prog.obj off 32 [Right.execute] with
    | (s, .value v _) => take s (BitVec.ofNat 256 v)
    | (s, .refused _) => take (bump s) (Config.remoteSector s.freeCtr)
    | (s, .moved) => (s, .later)
    | (s, .fail sub) => (accessFatal s a 0 sub x.prog.obj off, .stopped)

/-- R121: whether the bundle of a chain's head meets a lapsed lease. -/
def Arr.leaseLapsed (x : Arr) : Bool := isHead x && decide (x.clease = 0) && !x.firstBundle

/-- R15, R121: the bundle in the latch begins to issue. A first bundle issues under a lease of 2^20 bundles. The count
goes down before the bundle's slots run, so a bundle that carries `LEASE` does not count against the new n, and its own
`CSRR` of `CLEASE` reads the count that is left (log entry 83: the model's choice). -/
def Arr.beginIssue (x : Arr) : Arr :=
  let x := x.refresh
  { x with
    run := .issuing x.resume, scope := .ar, transfer := none, reenter := none, freeze := 0, park := false
    clease := if !isHead x then x.clease else if x.firstBundle then 0xFFFFF else x.clease - 1
    firstBundle := false }

/-! ### The slots of an issuing bundle -/

/-- R20, R30, R219: whether the engine of slot `k` is busy with beats or stalled. -/
def busySlot (s : State) (k : Nat) : Bool :=
  let x := curA s
  match k with
  | 3 => x.north.form.isSome
  | 4 => x.west.form.isSome || (tall s s.cur).any fun a => match (getA s a).west.form with
      | some m => m.stalled
      | none => false
  | 5 => x.wave.isSome
  | 7 => x.edge.isSome || (tall s s.cur).any fun a => match (getA s a).edge with
      | some (.merge _ _ st) => st
      | _ => false
  | _ => false

/-- R233: whether the chain still waits for a `REALIGN` of some member. -/
def unaligned (s : State) (a : Fin 32) : Bool :=
  isHead (getA s a) && (members s a).any fun m => !(getA s m).aligned

/-- What slot `k` of the bundle that is issuing does. -/
inductive SlotPlan where
  /-- The NOP word. -/
  | pass
  /-- A check of R16, R20, R39, R232 or R233 fails. -/
  | fault (x : Arr)
  | run (i : Instr)
  deriving DecidableEq, Repr

/-- R16, R20, R39, R232, R233: the checks made on the word of slot `k`, then its form. -/
def slotPlan (s : State) (k : Nat) : SlotPlan :=
  let x := curA s
  let w := x.word k
  if w = 0 then .pass
  else
    match x.form k with
    | none => .fault (x.illegalFault k 1 (fld w 25 7))
    | some i =>
      if x.duplicate k then .fault (x.illegalFault k 6 (fld w 25 7))
      else if isTail x && decide (3 ≤ k) then .fault (x.schedFault k 10 0)
      else if unaligned s s.cur && decide (4 ≤ k) then .fault (x.schedFault k 9 0)
      else if busySlot s k then .fault (x.schedFault k 1 0)
      else .run i

/-- R15: go on to the slot after `k`, unless slot `k` has ended the bundle. -/
def Arr.advance (x : Arr) (k : Nat) : Arr :=
  if x.run = .issuing k then { x with run := .issuing (k + 1) } else x

/-- R15, R115, R126, R349: the end of a bundle's cycle: where the sequencer stands after it. A slot trap of
the in-task class has no handler to run in once `TEND` is committed. -/
def Arr.endBundle (x : Arr) (a : Fin 32) : Arr :=
  let x := (x.freshen a).repositions
  let next := x.afterBundle
  let run : Run := if x.ending.isSome then .ended
    else if x.park then .parked
    else if x.freeze ≠ 0 then .waiting (.freeze x.freeze)
    else .boundary
  let x : Arr := { x with
    slotTrap := match x.slotTrap with
      | some t => if x.ending.isSome ∧ t.cause.cls = .inTask then none else some t
      | none => none
    due := next, resume := (x.reenter.map fun e => e.1).getD 0, resumeNext := x.reenter.map fun e => e.2
    reenter := none
    transfer := none, freeze := 0, park := false, released := false, run := run }
  if x.halt then x.stop else x

/-! ### Traps, cancels and rollbacks -/

/-- R234: whether a sequencer has just entered its handler for a lapsed chain lease. -/
def Arr.lapseEntered (x y : Arr) : Bool :=
  !x.handler && y.handler && decide (bits y.regs.xsw.toNat 8 16 = 8 * 2 ^ 8 + Cause.schedule.code)

/-- R337, R339 to R343: the pending trap of highest priority is taken at a boundary. The entry to the handler for a lapsed
chain lease is an arbitration point (R234). -/
def execTrapTaken (a : Fin 32) (s : State) : Answer :=
  let x := getA s a
  if x.trapsTaken then
    let t := takeTrap s a
    .next (if x.lapseEntered (getA t a) then arbitrate t x.task else t)
  else .next s

/-- R346, R382: a checked result of the sequencer that mismatches is not written: the form that commits next of the bundle
that is issuing does not commit, where its slot is one whose results are the sequencer's (log entry 132). -/
def Arr.unwritten (x : Arr) : Arr :=
  match x.run with
  | .issuing k => if k ∈ [0, 1, 2, 6, 7] then { x with run := .issuing (k + 1) } else x
  | _ => x

/-- R335, R346, R382: a pipeline error is raised, and a pending cancel is taken at a boundary; one that arises
while a rollback waits merges into it. `checker` tells of a checker that mismatches, and whether it is the sequencer's,
whose result is then not written; with none the cancel is of an error already pending. -/
def execAutomaticCancel (a : Fin 32) (checker : Option Bool) (s : State) : Answer :=
  if (getA s a).run = .off then .next s
  else
    let s := match checker with
      | none => s
      | some own => updA s a fun x => (if own then x.unwritten else x).raise .pipeline 0
    let x := getA s a
    let wants := x.traps.any fun t => decide (t.cause.cls = .cancel)
    if wants ∧ (x.run = .rolling ∨ x.trapsTaken = true) then
      .next (if x.run = .rolling then cancel s a else takeTrap s a)
    else .next s

/-- R346: a tongs context goes back to the commit point. A `CPY.GO` of an earlier phase that is still to be
processed keeps its block; a copy that was armed at the commit point and has started since is not armed
again. -/
def Tongs.rollback (t : Tongs) (p : TongsPoint) (goQueued : Bool) : Tongs :=
  if t.schedule.isSome then { t with released := p.released }
  else if goQueued then { t with shadow := p.shadow, armed := false }
  else
    match p.shadow with
    | .armed =>
      if t.armed ∧ t.block = p.block then { t with shadow := .armed }
      else { t with shadow := .empty, block := none, armed := false }
    | .loaded => { t with shadow := .loaded, block := p.block, armed := false }
    | .empty => { t with shadow := .empty, block := none, armed := false }

/-- R346: commands of the cancelled phase that its contexts and streams have not acted on. -/
def QEntry.undone (e : QEntry) (first : Nat) : Bool :=
  decide (first ≤ e.id) && match e.op with
    | .cpyBlock _ _ | .cpyGo _ | .strmDesc _ => true
    | _ => false

/-- R118, R346: whether the steps that an array of a rollback issued have completed, and the beats that were on their way
down its chain have acted, but for a pop or a merge that has stalled since. -/
def rollbackReady (s : State) (a : Fin 32) : Bool :=
  let x := getA s a
  let still (f : Feeder) : Bool := f.inbox.isEmpty && (match f.form with | some m => m.stalled | none => true)
  decide (x.run = .rolling) && stepsDone s a && still x.north && still x.west
    && x.edgeCmds.isEmpty && (match x.edge with | none => true | some (.merge _ _ st) => st | some _ => false)

/-- R118, R346: one array of a rollback is restored to the commit point of its last `PHASE`. -/
def restoreArr (s : State) (a : Fin 32) : State :=
  let s := abandonForms s a false
  let s := updA s a fun x => { x with queue := settleMarkers (x.queue.filter fun e => !e.undone x.point.firstEntry) }
  let x := getA s a
  let s := (List.finRange 4).foldl (fun s e =>
    let k := 4 * e.val + inCluster a
    let t := vget s.clusters[clusterOf a].tongs k
    let queued := (t.pending s).any fun q => match q.2.op with | .cpyGo _ => true | _ => false
    putTongs s (clusterOf a) k (t.rollback x.point.tongs[e] queued)) s
  updA s a fun x => { x with
    cells := x.cells.map fun c => (c.1, { c.2 with a := c.2.ckpt })
    prev := x.prev.map fun c => (c.1, { c.2 with a := c.2.ckpt })
    streams := x.point.streams.map fun p => p.restore x.nextId
    handler := false, due := x.point.entry.setWidth 64, resume := 0, resumeNext := none, reenter := none
    traps := x.traps.filter fun t => t.cause.cls != .cancel
    gap := 1, run := .boundary }

/-- R118, R346: once issued steps have completed, the arrays of the rollback are restored and go on from the
phase entry. -/
def execPhaseRollback (a : Fin 32) (s : State) : Answer :=
  let as := tall s a
  if as.all fun m => rollbackReady s m then .next (as.foldl restoreArr s)
  else .next s

/-! ### The start and the end of a cycle -/

/-- R15, R118: the end of the cycle in which bundles of a unit have issued; a `PHCANCEL` among them starts its
rollback. -/
def endUnit (s : State) (us : List (Fin 32)) : State :=
  let ends := us.filter fun m => decide ((getA s m).run = .issuing 8)
  let s := ends.foldl (fun s m => updA s m fun x => x.endBundle m) (unitCycle s us)
  match ends.find? fun m => (getA s m).phcancel with
  | some m => startRollback s (tall s m)
  | none => s

/-- Whether a sequencer has a bundle to issue on the coming cycle. -/
def Arr.bundleDue (x : Arr) : Bool :=
  match x.run with
  | .boundary => decide (x.gap = 0)
  | .waiting (.freeze _) => false
  | .waiting _ => true
  | _ => false

/-- R16, R108: the sequencers of a list have their bundles in their latches, with the registers as they stand;
the first that has not stops the list. -/
def latchAll (s : State) : List (Fin 32) → State × Fetched
  | [] => (s, .ready)
  | m :: t =>
    let r := if (getA s m).run = .boundary then fetch s m else (updA s m Arr.refresh, .ready)
    match r.2 with
    | .ready => latchAll r.1 t
    | f => (r.1, f)

/-- R116, R121: the schedule fault of a bundle that does not issue. -/
def Arr.refused (x : Arr) : Option Nat :=
  if x.leaseLapsed then some 8
  else if x.run = .waiting .swait then
    match x.swaiting with
    | some (.inl sub) => some (schedDetail sub (match x.form 0 with
        | some (.swait _ q _) => q.val
        | _ => 0))
    | _ => none
  else none

/-- R32: whether a hold freezes the array. -/
def Wait.freezes : Wait → Bool
  | .sync => false
  | _ => true

/-- R15, R32, R113: the bundles of a unit that nothing holds back begin to issue. Where one freezes its array, the
whole unit takes a frozen cycle; where none issues, an active one. -/
def beginCycle (s : State) (us : List (Fin 32)) : State :=
  let due := us.filter fun m => (getA s m).bundleDue
  match latchAll s due with
  | (s, .stopped) => s
  | (s, .later) => unitCycle s us
  | (s, .ready) =>
    match due.find? fun m => ((getA s m).refused).isSome with
    | some m => updA s m fun x => x.issueFault 0 .schedule (x.refused.getD 0)
    | none =>
      let held := due.filterMap fun m => (holdOf s m).map fun w => (m, w)
      let wait (s : State) (l : List (Fin 32 × Wait)) : State :=
        l.foldl (fun s h => updA s h.1 fun x => { x with run := .waiting h.2 }) s
      let frozen := held.filter fun h => h.2.freezes
      let still := us.any fun m => match (getA s m).run with
        | .waiting (.freeze _) => true
        | _ => false
      if still ∨ frozen.isEmpty = false then unitFrozen (wait s frozen) us
      else
        let s := wait s held
        let free := due.filter fun m => !held.any fun h => h.1 = m
        if free.isEmpty then unitCycle s us else updAll s free Arr.beginIssue

/-! ### Waits that end -/

/-- R8, R120, R335: whether a sequencer of a unit has something to do before a bundle of the unit issues: an answer to a
predicate that is due, a trap that can be taken, or one to raise. -/
def unsettled (s : State) (us : List (Fin 32)) : Bool :=
  us.any fun m =>
    let x := getA s m
    (x.answerDue m).isSome || x.overdue || (x.trapsTaken && x.trapPending)

/-- R116, R232: the stream holds the blocks, and the `SWAIT` bundle issues on the cycle that begins. -/
def execSwaitRelease (a : Fin 32) (s : State) : Answer :=
  let x := getA s a
  if x.run = .waiting .swait ∧ x.swaiting = some (.inr true) ∧ holdOf s a = none ∧ unsettled s (lockstep s a) = false then
    .next (beginCycle s (lockstep s a))
  else .next s

/-- R113: whether every member of the sync group that array `a` waits on is ready to issue. -/
def syncReady (s : State) (a : Fin 32) : Option (List (Fin 32)) :=
  match (getA s a).syncGroup with
  | none => none
  | some g =>
    match syncMembers s a g with
    | none => none
    | some ms =>
      let count := match s.lines.find? fun l => l.ctx = (getA s a).ctx && l.group = g with
        | some l => l.count
        | none => ms.length
      if decide (g = 0 ∨ ms.length = count) && ms.all fun m =>
          decide ((getA s m).run = .waiting .sync ∧ (getA s m).syncGroup = some g
              ∧ (getA s m).ctx = (getA s a).ctx ∧ holdOf s m = some .sync)
            && (decide (0 < g.toNat) || decide ((getA s m).task = (getA s a).task))
            && !unsettled s (lockstep s m) then some ms
      else none

/-- The first array of each unit that has arrays among `ms`. -/
def unitHeads (s : State) (ms : List (Fin 32)) : List (Fin 32) :=
  ms.filter fun m => decide ((ms.find? fun n => (lockstep s n).contains m) = some m)

/-- R113, R114, R232, R233: the line releases and every member issues its bundle on the cycle that begins, none if an array
of some member's chain freezes; with a `REALIGN` among them, on the first edge after the next `PTIME` that is a multiple of
4,096, and the members that issue it are aligned. -/
def syncRelease (s : State) (a : Fin 32) : Option State :=
  if (getA s a).run = .waiting .sync then
    (syncReady s a).bind fun ms =>
      let t := if ms.any fun m => (getA s m).isRealign then
          { s with ptime := (s.ptime / 4096 + 1) * 4096 } else s
      let t := updAll t ms fun x => { x with released := true, aligned := x.aligned || x.isRealign }
      let t := (unitHeads t ms).foldl (fun t m => beginCycle t (lockstep t m)) t
      if ms.all fun m => decide ((getA t m).run = .issuing 0) then some t else none
  else none

/-- R113, R114. -/
def execSyncRelease (a : Fin 32) (s : State) : Answer := .next ((syncRelease s a).getD s)

end Sys2Proof.Machine
end

