-- ==== Sys2Proof/Machine/Launch.lean ====
section
/-! DEFINITION. Launch records and their validation, acceptance, the submission and device-side queues, and
events (R267, R268, R297 to R303, R309 to R314, R332, R372, R393). -/

namespace Sys2Proof.Machine

/-! ### Sections of a launch record (R299) -/

/-- R299: initial scalar `s`. -/
def Record.scalar (r : Record) (k : Nat) : Word64 := w64 (bits r.scalars.toNat (64 * k) 64)

/-! ### Object entries (R300) -/

/-- R300: a field of an object entry. -/
def entryFld (e : BitVec 256) (lo w : Nat) : Nat := bits e.toNat lo w
/-- R300. -/
def entryKind (e : BitVec 256) : Nat := entryFld e 0 4
/-- R300. -/
def entrySize (e : BitVec 256) : Nat := entryFld e 160 48
/-- R300. -/
def entryRights (e : BitVec 256) : Nat := entryFld e 96 8
/-- R300: the capability register. -/
def entryReg (e : BitVec 256) : Fin 16 := finOf 15 (entryFld e 28 4)
/-- R300. -/
def entryGrant (e : BitVec 256) : Bool := e.getLsbD 27
/-- R300: the program object. -/
def entryProg (e : BitVec 256) : Bool := e.getLsbD 26
/-- R300: part of the declared working set. -/
def entryStage (e : BitVec 256) : Bool := e.getLsbD 25
/-- R300: an existing object of the context. -/
def entryExisting (e : BitVec 256) : Bool := e.getLsbD 24
/-- R300: homed in SCRATCH banks. -/
def entryScratch (e : BitVec 256) : Bool := e.getLsbD 23
/-- R300: the member whose banks hold it. -/
def entryMember (e : BitVec 256) : Nat := entryFld e 21 2
/-- R300: the ID of an existing object. -/
def entryId (e : BitVec 256) : BitVec 24 := BitVec.ofNat 24 (entryFld e 112 24)

/-! ### Reading a record -/

/-- Read `n` sections of `w` bytes from a physical address. -/
def readMany (s : State) (a w : Nat) (n : Nat) : List Nat :=
  (List.range n).map fun k => bytesAt s (a + w * k) w

/-- The bytes of memory from a physical address. -/
def memoryFrom (s : State) (a : Nat) : Reader := fun off w => bytesAt s (a + off) w

/-- R299, R302: whether the record at a physical address is whole: its padding zero and none of it poisoned. -/
def soundAt (s : State) (a : Nat) (r : Record) : Bool :=
  paddingOk (memoryFrom s a) r && !poisonAt s a r.length && !quarantinedAt s a

/-! ### Validation (R302) -/

/-- R298, R299, R314: reserved fields of the header, the scalars and the sections. -/
def Record.reservedOk (r : Record) : Bool :=
  decide (r.fld 16 16 = 0 ∧ r.fld 256 256 = 0 ∧ r.fld 736 64 = 0 ∧ r.fld 880 16 = 0 ∧ r.fld 1664 384 = 0)
    && (decide (r.blocks = 0) || decide (r.fld 949 11 = 0 ∧ r.paramOff % 64 = 0 ∧ r.paramEntry < r.nobj))
    && ((List.range 4).all fun k => r.fld (1408 + 32 * k) 16 = 0)
    && decide (bits r.domain 104 24 = 0 ∧ bits r.domain 32 19 = 0)
    && decide (bits r.scalars.toNat 0 64 = 0)
    && (r.objects.all fun e =>
      decide (entryFld e 208 48 = 0 ∧ entryFld e 32 52 = 0 ∧ entryFld e 18 3 = 0 ∧ entryFld e 11 5 = 0
        ∧ entryFld e 4 4 = 0))
    && (r.streams.all fun d => decide (bits d.toNat 456 56 = 0 ∧ bits d.toNat 432 16 = 0
        ∧ bits d.toNat 48 50 = 0 ∧ bits d.toNat 113 15 = 0 ∧ bits d.toNat 145 47 = 0
        ∧ bits d.toNat 240 16 = 0 ∧ bits d.toNat 304 16 = 0 ∧ bits d.toNat 368 16 = 0))
    && r.sched.all fun e => bits e.toNat 0 14 = 0

/-- R298: counts within their limits. -/
def Record.countsOk (r : Record) : Bool :=
  decide (1 ≤ r.arrays ∧ r.arrays ≤ 4 ∧ (r.chain = true → 2 ≤ r.arrays) ∧ r.fld 72 4 ≤ 8 ∧ r.fld 76 4 ≤ 8
    ∧ r.blocks ≤ 256 ∧ r.nsch ≤ 1024 ∧ r.nstr ≤ 16 ∧ 1 ≤ r.nobj ∧ r.nobj ≤ 18 ∧ 1 ≤ r.interval)
    && (r.syncs.all fun e => decide (2 ≤ e.2 ∧ e.2 ≤ 32))
    && (decide (r.domain = 0) || decide (2 ≤ bits r.domain 51 11 ∧ bits r.domain 51 11 ≤ 1024))

/-- R302, reason 1, of a record that was read whole. -/
def formOk (r : Record) : Bool :=
  decide (r.fld 0 16 = 1 ∧ r.length = 512 + pad64 (32 * r.nobj) + 64 * r.nstr + pad64 (4 * r.nsch))
    && r.countsOk && r.reservedOk

/-- R272, R274: whether the extent list at `list` is well formed and covers `size` bytes, with every extent
in HBM where `hbm`. -/
def extentsOk (s : State) (hbm : Bool) (list size : Nat) : Nat → Bool
  | 0 => false
  | fuel + 1 =>
    let e := Memory.readN s.mem list 16
    let base := bits e 48 48
    let len := bits e 0 48
    decide (bits e 96 31 = 0 ∧ base % 64 = 0 ∧ len % 64 = 0 ∧ len ≠ 0) && physOk base
      && physOk (base + len - 1) && decide ((base + len - 1) / 2 ^ 44 = base / 2 ^ 44)
      && (!hbm || decide (base / 2 ^ 44 = 0))
      && if e / 2 ^ 127 = 1 then decide (size ≤ len) else extentsOk s hbm (list + 16) (size - len) fuel

/-- R265: rights within `read`, `noise`, `stream` and `narrow`. -/
def noiseRights (r : Nat) : Bool := decide (r &&& 0x65 = 0)

/-- R271, R274, R275, R332: whether an entry that creates an object is well formed, in a task of `n`
arrays. -/
def newEntryOk (s : State) (e : BitVec 256) (n : Nat) : Bool :=
  let root := entryFld e 112 48
  let marked := e.getLsbD 8
  let memside := e.getLsbD 9
  let capacity := e.getLsbD 10
  let homeKind := entryFld e 94 2
  let homePkg := entryFld e 84 10
  let routine := entryFld e 104 8
  let page := entryFld e 16 2
  let plain := decide (root = 0 ∧ routine = 0 ∧ page = 0 ∧ homeKind = 0 ∧ homePkg = 0)
  decide (1 ≤ entrySize e ∧ homeKind ≤ 1 ∧ (homeKind = 0 → homePkg = 0))
    && if entryScratch e then
      decide (entryKind e = 1 ∧ entryMember e < n) && plain && !memside && !capacity
    else decide (entryMember e = 0) && match entryKind e with
      | 1 => decide (routine = 0 ∧ page = 0) && !capacity
          && if homeKind = 1 then decide (root < 2 ^ 24)
            else decide (root % 64 = 0) && physOk root && extentsOk s memside root (entrySize e) 4096
      | 2 => decide (page ≤ 1 ∧ homeKind = 0 ∧ root % 4096 = 0) && physOk root
      | 3 => plain && !marked && !memside && !capacity && noiseRights (entryRights e)
      | _ => false

/-- R300: whether an entry that names an existing object is well formed; its length is checked where the
object exists. -/
def oldEntryOk (s : State) (ctx : BitVec 12) (e : BitVec 256) : Bool :=
  decide (entryFld e 136 24 = 0 ∧ entryMember e = 0 ∧ 1 ≤ entrySize e) && !entryScratch e
    && match objFind s ctx (entryId e) with
      | some o => decide (entrySize e ≤ o.size)
      | none => true

/-- The first byte that the next scratch object of a member takes. -/
def alignUp (n : Nat) : Nat := ceilDiv n 64 * 64

/-- R275: the bytes that the scratch objects of member `g` take. -/
def scratchUse (es : List (BitVec 256)) (g : Nat) : Nat :=
  (es.filter fun e => entryScratch e && decide (entryMember e = g)).foldl
    (fun n e => alignUp n + entrySize e) 0

/-- Whether no two elements of a list of numbers are equal. -/
def distinct : List Nat → Bool
  | [] => true
  | x :: t => !t.contains x && distinct t

/-- R302, reason 2. -/
def objectsOk (s : State) (ctx : BitVec 12) (r : Record) : Bool :=
  (r.objects.all fun e => if entryExisting e then oldEntryOk s ctx e else newEntryOk s e r.arrays)
    && ((List.range 4).all fun g => decide (scratchUse r.objects g ≤ 6 * 2 ^ 20))
    && distinct ((r.objects.filter entryGrant).map fun e => (entryReg e).val)
    && decide ((r.objects.filter entryProg).length ≤ 1)
    && r.objects.all fun e => !entryProg e
      || (!entryGrant e && entryStage e && (entryRights e).testBit Right.execute)

/-- R302, reason 3. -/
def existingOk (s : State) (ctx : BitVec 12) (device : Bool) (r : Record) : Bool :=
  r.objects.all fun e =>
    if entryExisting e then
      match objFind s ctx (entryId e) with
      | some o => decide (entryRights e &&& o.ceiling = entryRights e)
      | none => false
    else !device

/-- R283: the 64 KiB pages that an entry adds to the declared working set: nothing where the object has no
memory on this package's HBM or is homed in SCRATCH. -/
def entryPages (s : State) (ctx : BitVec 12) (e : BitVec 256) : Nat :=
  if entryStage e then
    if entryExisting e then
      match objFind s ctx (entryId e) with
      | some o => if o.kind = 3 ∨ o.homeKind = 1 ∨ o.scratch.isSome then 0 else ceilDiv o.size 65536
      | none => 0
    else if entryKind e = 3 ∨ entryFld e 94 2 = 1 ∨ entryScratch e = true then 0
    else ceilDiv (entrySize e) 65536
  else 0

/-- R370: the bytes of chunk headers charged for an object of a size. -/
def headerBytes (size : Nat) : Nat := 32 * ceilDiv size 4096

/-- R275, R370: the header bytes charged to a context: those of its MARKED objects, but for the ones homed in SCRATCH
banks, which add nothing to the HBM quota. -/
def headerCharge (s : State) (ctx : BitVec 12) : Nat :=
  (s.objs.map fun e =>
    if e.1 / 2 ^ 24 = ctx.toNat ∧ e.2.marked = true ∧ e.2.homeKind = 0 ∧ e.2.scratch.isNone = true
        ∧ e.2.sharedFrom.isNone = true then headerBytes e.2.size else 0).sum

/-- R275, R370: the header bytes that an entry which creates an object is charged. -/
def entryHeaders (e : BitVec 256) : Nat :=
  if e.getLsbD 8 = true ∧ entryFld e 94 2 = 0 ∧ entryScratch e = false then headerBytes (entrySize e) else 0

/-- R302, R370, reason 4: the working set with the header bytes charged, those that stand and those that the record adds. -/
def quotaOk (s : State) (ctx : BitVec 12) (quota : Nat) (r : Record) : Bool :=
  let pages := (r.objects.map fun e => entryPages s ctx e).sum
  let new := (r.objects.map fun e => if entryExisting e then 0 else entryHeaders e).sum
  decide (65536 * pages + new + headerCharge s ctx ≤ 65536 * quota)

/-- R299: the schedule of context `n` as the record gives it: stages and block indices. -/
def Record.schedule (r : Record) (n : Nat) : List (Nat × Nat) :=
  (r.sched.filter fun e => bits e.toNat 28 4 = n).map fun e => (bits e.toNat 22 6, bits e.toNat 14 8)

/-- Whether stages do not decrease. -/
def rising : List (Nat × Nat) → Bool
  | [] => true
  | e :: t => (match t with | [] => true | f :: _ => decide (e.1 ≤ f.1)) && rising t

/-- R302, reason 5. -/
def scheduleOk (r : Record) : Bool :=
  (List.range 16).all fun n =>
    let l := r.schedule n
    (l.isEmpty || decide (n % 4 < r.arrays)) && decide (l.length ≤ 64) && rising l
      && l.all fun e => decide (e.2 < r.blocks)

/-- R299: the stream register of a stream entry. -/
def streamReg (d : BitVec 512) : Fin 16 := finOf 15 (bits d.toNat 448 4)
/-- R299: the capability register of a stream entry. -/
def streamCap (d : BitVec 512) : Fin 16 := finOf 15 (bits d.toNat 452 4)

/-- R299, R224: the descriptor of a stream entry. -/
def streamDesc (d : BitVec 512) : StreamDesc := readDesc (d.toNat % 2 ^ 448)

/-- R149, R150, R224, R266, R299, R302, reason 6: a stream may be bound for pushes alone, with neither read nor noise; only one
for noise has an element code, which a `.stream` line leaves 0. -/
def streamsOk (r : Record) : Bool :=
  distinct (r.streams.map fun d => (streamReg d).val)
    && r.streams.all fun d =>
      let n := d.toNat % 2 ^ 448
      match r.objects.find? fun e => entryGrant e && entryReg e = streamCap d with
      | none => false
      | some e =>
        let c : Cap := ⟨true, 0, BitVec.ofNat 8 (entryRights e), 0, BitVec.ofNat 48 (entrySize e)⟩
        c.has Right.stream && decide (bits n 103 10 = 0 ∧ bits n 128 17 = 0)
          && decide (bits n 100 3 ≤ if c.has Right.noise then 2 else 0) && descFieldsOk n && (readDesc n).within c

/-- R313: the tasks accepted that name a sync group of a context. -/
def syncTasks (s : State) (ctx : BitVec 12) (g : BitVec 8) : List Task :=
  s.tasks.filter fun t => t.ctx = ctx && t.record.syncs.any fun e => e.1 = g

/-- R313: whether a record's sync groups agree with the counts held and fit them. Every accepted task that names a group
counts, placed or not: R313 leaves open from when a task holds it (DESIGN CHOICE, log entry 112). -/
def syncOk (s : State) (ctx : BitVec 12) (r : Record) : Bool :=
  r.syncs.all fun e =>
    let ts := syncTasks s ctx e.1
    (r.syncs.all fun f => f.1 != e.1 || f.2 = e.2)
      && (ts.all fun t => t.record.syncs.all fun f => f.1 != e.1 || f.2 = e.2)
      && decide ((ts.map fun t => t.record.arrays).sum + r.arrays ≤ e.2)

/-- R314: whether a record's domain barrier agrees with the other records that name it, and names an object
that the task is granted. -/
def domainOk (s : State) (r : Record) : Bool :=
  decide (r.domain = 0)
    || (decide (bits r.domain 72 8 < if r.chain then 64 else 64 * r.arrays)
      && s.tasks.all fun t => decide (t.record.domain = 0) || t.record.domainId != r.domainId
        || decide (t.record.domain = r.domain))

/-- R302, reason 8. -/
def programOk (r : Record) : Bool :=
  match r.objects.find? entryProg with
  | none => false
  | some e =>
    decide (r.entry % 32 = 0 ∧ r.entry + 32 ≤ entrySize e)
      && (List.range 7).all fun k => decide (32 * r.handler k ≤ entrySize e)

/-- R302: the first reason for which a record is rejected; 0 where it is accepted. -/
def reasonOf (s : State) (ctx : BitVec 12) (device : Bool) (r : Record) (sound : Bool) : Nat :=
  match tableFind s.contexts ctx.toNat with
  | none => 1
  | some c =>
    if c.enable = false ∨ (formOk r && sound) = false then 1
    else if objectsOk s ctx r = false then 2
    else if existingOk s ctx device r = false then 3
    else if quotaOk s ctx c.quota.toNat r = false then 4
    else if scheduleOk r = false then 5
    else if streamsOk r = false then 6
    else if (syncOk s ctx r && domainOk s r) = false then 7
    else if programOk r = false then 8
    else 0

/-! ### Objects (R267, R268, R372) -/

/-- The object IDs of a context that are in use. -/
def usedIds (s : State) (ctx : BitVec 12) : List Nat :=
  (s.objs.filter fun e => e.1 / 2 ^ 24 = ctx.toNat).map fun e => e.1 % 2 ^ 24

/-- R372: the keys of the headers of an object's chunks, with their indices. -/
def chunkKeys (s : State) (ctx : BitVec 12) (obj : BitVec 24) (e : ObjEntry) : List (Nat × Nat) :=
  (List.range (ceilDiv e.size 4096)).map fun k =>
    match chunkHome s ctx obj e k with
    | some a => (k, a)
    | none =>
      let off := 4096 * k
      (k, absentBase ctx obj (off / 2 ^ e.pageShift) + off % 2 ^ e.pageShift)

/-- R370, R373: the mark of a chunk's bytes as they stand, in format 9; bytes beyond the object's size
count as zero, and a chunk that is not on this package has the mark of zeros. -/
def standingMark (s : State) (ctx : BitVec 12) (obj : BitVec 24) (e : ObjEntry) (k : Nat) : BitVec 64 :=
  if (chunkHome s ctx obj e k).isNone then 0
  else touchmark 9 (e.cut k (sectorBytes s (chunkSectors s ctx obj e k)))

/-- R372: write the headers of a MARKED object as the command processor creates it. -/
def writeHeaders (s : State) (ctx : BitVec 12) (obj : BitVec 24) (e : ObjEntry) (producer : BitVec 32) : State :=
  if e.marked ∧ e.homeKind = 0 then
    let tensor := s.pkgnum.toNat * 2 ^ 30 + s.nextSerial % 2 ^ 30
    { s with
      nextSerial := s.nextSerial + 1
      headers := (chunkKeys s ctx obj e).foldl (fun t k => tableSet t k.2
        { chunkId := BitVec.ofNat 64 (tensor * 2 ^ 24 + k.1 % 2 ^ 24), mark := standingMark s ctx obj e k.1
          producer := producer, format := 9, hops := 0, lastHop := 0, flags := 0, lost := false }) s.headers }
  else s

/-- R267, R271: create an object of a context from an entry of a record: its ID and table entry. -/
def createEntry (s : State) (ctx : BitVec 12) (e : BitVec 256) (host : Bool) (producer : BitVec 32) :
    State × BitVec 24 :=
  let id := BitVec.ofNat 24 (pickUnused (usedIds s ctx) (Config.objectId s.freeCtr) 0 (2 ^ 24 - 1))
  let keep := 2 ^ 208 - 2 ^ 84 + 2 ^ 18 - 1
  let o : ObjEntry := ⟨e &&& BitVec.ofNat 256 keep, host, if entryScratch e then some [] else none, none, false⟩
  let s := bump { s with objs := tableSet s.objs (objKey ctx id) o }
  (if entryScratch e then s else writeHeaders s ctx id o producer, id)

/-- R268: clear an object's entries at every port, with what is kept for it. -/
def revoke (s : State) (ctx : BitVec 12) (obj : BitVec 24) : State :=
  { s with
    objs := tableErase s.objs (objKey ctx obj)
    translations := s.translations.filter fun t => !(t.ctx = ctx && t.obj = obj)
    descs := s.descs.filter fun d => d.1 / 2 ^ 48 != objKey ctx obj
    stageJobs := s.stageJobs.filter fun j => !(j.ctx = ctx && j.obj = obj)
    evictJobs := s.evictJobs.filter fun j => !(j.ctx = ctx && j.obj = obj)
    backing := s.backing.filter fun b => b.1 / 2 ^ 48 != objKey ctx obj
    moves := s.moves.filter fun m => !(m.ctx = ctx && m.obj = obj) }

/-- R267: the object IDs of a record's entries, in entry order, with which of them it creates. -/
def makeObjects (s : State) (ctx : BitVec 12) (tid : BitVec 32) :
    List (BitVec 256) → State × List (BitVec 24)
  | [] => (s, [])
  | e :: t =>
    if entryExisting e then
      let r := makeObjects s ctx tid t
      (r.1, entryId e :: r.2)
    else
      let c := createEntry s ctx e false tid
      let r := makeObjects c.1 ctx tid t
      (r.1, c.2 :: r.2)

/-! ### Events (R309, R310) -/

/-- The entry of an event. -/
def eventFind (s : State) (ctx : BitVec 12) (n : BitVec 16) : Option Event :=
  s.events.find? fun e => e.ctx = ctx && e.name = n

/-- Whether an entry is that of an event. -/
def Event.names (e : Event) (ctx : BitVec 12) (n : BitVec 16) : Bool := e.ctx = ctx && e.name = n

/-- R304: a task whose wait list is satisfied is staged. -/
def Task.released (t : Task) : Task :=
  if t.state = .waitEvents ∧ t.waits.isEmpty = true then { t with state := .staging } else t

/-- R309: a waiter of an event is released. -/
def releaseWaiter (s : State) (ctx : BitVec 12) (n : BitVec 16) (tid : BitVec 32) : State :=
  { s with tasks := s.tasks.map fun t =>
      if t.tid = tid ∧ t.ctx = ctx then { t with waits := t.waits.filter fun w => w != n }.released else t }

/-- The entry of an event, clear where the table holds none. -/
def eventEntry (s : State) (ctx : BitVec 12) (n : BitVec 16) : Event :=
  (eventFind s ctx n).getD { ctx := ctx, name := n, signalled := false, waiters := [], late := [], leaving := [], freed := false }

/-- Whether an entry has no waiter left. -/
def Event.idle (e : Event) : Bool := e.waiters.isEmpty && e.late.isEmpty && e.leaving.isEmpty

/-- R309: put an event's entry; one that the host has freed goes with its last waiter. -/
def putEvent (s : State) (e : Event) : State :=
  let rest := s.events.filter fun f => !f.names e.ctx e.name
  { s with events := if e.freed && e.idle then rest else rest ++ [e] }

/-- R309, R310: the event's bit is set. Its inline waiters are released in the order they began waiting; those that the
supervisor core holds are released after them. An entry that the host has freed stays set until its last waiter is released,
and one that none waits for any more is the name's again, so that no signal is lost (log entry 131). -/
def signalEvent (s : State) (ctx : BitVec 12) (n : BitVec 16) : State :=
  let e := eventEntry s ctx n
  let s := e.waiters.foldl (fun s t => releaseWaiter s ctx n t) s
  let waits := !e.waiters.isEmpty || !e.late.isEmpty
  putEvent s { e with
    signalled := true, freed := e.freed && waits, waiters := [], late := [], leaving := e.leaving ++ e.late }

/-- R310: the supervisor core releases one of the waiters of its list whose event has been signalled, in any order. -/
def releaseLate (s : State) (ctx : BitVec 12) (n : BitVec 16) : State :=
  let e := eventEntry s ctx n
  let k := Config.pick s.freeCtr % e.leaving.length
  match e.leaving[k]? with
  | some t => putEvent (releaseWaiter (bump s) ctx n t) { e with leaving := e.leaving.eraseIdx k }
  | none => s

/-- R309, R310: task `tid` begins to wait for an event that is not signalled: in one of the 6 places of the entry, or in
the supervisor's list. -/
def waitEvent (s : State) (ctx : BitVec 12) (tid : BitVec 32) (n : BitVec 16) : State :=
  let e := eventEntry s ctx n
  putEvent s (if e.waiters.length < 6 then { e with waiters := e.waiters ++ [tid] }
    else { e with late := e.late ++ [tid] })

/-- R309: whether an event is signalled. -/
def signalled (s : State) (ctx : BitVec 12) (n : BitVec 16) : Bool :=
  match eventFind s ctx n with
  | some e => e.signalled
  | none => false

/-- R309: free an event: an entry without waiters is removed; one with waiters has its bit cleared and is kept until
its last waiter is released. Those that the supervisor core has not released yet go on waiting, too. -/
def dropEvent (s : State) (ctx : BitVec 12) (n : BitVec 16) : State :=
  let free (e : Event) : Option Event :=
    if e.names ctx n then
      if e.idle then none
      else some { e with signalled := false, freed := true, late := e.leaving ++ e.late, leaving := [] }
    else some e
  { s with events := s.events.filterMap free }

/-! ### Acceptance (R301, R304) -/

/-- R267: the capabilities that a record grants. -/
def grants (r : Record) (ids : List (BitVec 24)) : List (Fin 16 × Cap) :=
  ((r.objects.zip ids).filter fun e => entryGrant e.1).map fun e =>
    (entryReg e.1, ⟨true, e.2, BitVec.ofNat 8 (entryRights e.1), 0, BitVec.ofNat 48 (entrySize e.1)⟩)

/-- R267: the program capability. -/
def programCap (r : Record) (ids : List (BitVec 24)) : Cap :=
  match (r.objects.zip ids).find? fun e => entryProg e.1 with
  | some e => ⟨true, e.2, BitVec.ofNat 8 (2 ^ Right.read + 2 ^ Right.execute), 0,
      BitVec.ofNat 48 (entrySize e.1)⟩
  | none => Cap.none

/-- R164, R298: the parameter-block table. -/
def paramsCap (r : Record) (ids : List (BitVec 24)) : Cap :=
  match (r.objects.zip ids)[r.paramEntry]? with
  | some e =>
    if r.blocks = 0 then Cap.none
    else ⟨true, e.2, BitVec.ofNat 8 (entryRights e.1), BitVec.ofNat 48 r.paramOff,
      BitVec.ofNat 48 (64 * r.blocks)⟩
  | none => Cap.none

/-- R301, R304: a record that passes is accepted: its `TASKID`, its objects and its waits. -/
def acceptRecord (s : State) (place : RecPlace) (ctx : BitVec 12) (queue ceiling : Nat) (interrupt : Bool)
    (r : Record) : State :=
  let used := if s.tids.length < 2 ^ 32 - 2 then s.tids else s.tasks.map fun t => t.tid.toNat
  let tid := BitVec.ofNat 32 (pickUnused used (Config.taskId s.freeCtr) 1 0xFFFFFFFE)
  let s := bump { s with tids := tid.toNat :: used }
  let m := makeObjects s ctx tid r.objects
  let s := m.1
  let waits := r.waits.filter fun n => !signalled s ctx n
  let t : Task := {
    tid := tid, ctx := ctx, queue := queue, prio := min r.prio ceiling, seqNo := s.nextSeq
    recAddr := place, interrupt := interrupt, record := r, state := .waitEvents, waits := waits
    arrs := [], caps := grants r m.2, prog := programCap r m.2, params := paramsCap r m.2
    scratchObjs := ((r.objects.zip m.2).filter fun e => entryScratch e.1).map fun e => (e.2, entryMember e.1)
    created := ((r.objects.zip m.2).filter fun e => !entryExisting e.1).map fun e => e.2
    named := m.2, preempt := none, switch := false, deficit := 0, reruns := 0, placed := 0 }
  let s := { s with tasks := s.tasks ++ [t.released], nextSeq := s.nextSeq + 1 }
  let s := waits.foldl (fun s n => waitEvent s ctx tid n) s
  writeStatus s place tid 0 1

/-- R393, R395: raise the vector of a host queue whose entry asked for it. -/
def raiseVector (s : State) (queue : Nat) (interrupt : Bool) : State :=
  if interrupt ∧ queue < 64 then { s with msix := queue :: s.msix } else s

/-- R302, R303: a record is rejected; state 4 is written where the entry names a record. -/
def rejectRecord (s : State) (place : Option RecPlace) (queue : Nat) (interrupt : Bool) (reason : Nat) : State :=
  let s := match place with
    | some p => writeStatus s p 0 reason 4
    | none => s
  let q : SubQueue := { vget s.queues queue with stat := (vget s.queues queue).stat ||| 1 }
  let s := if reason = 1 ∧ queue < 64 then { s with queues := vset s.queues queue q } else s
  raiseVector s queue interrupt

/-- R301, R302: validate a record and accept or reject it; `sound` tells that it was read whole. -/
def submit (s : State) (place : RecPlace) (ctx : BitVec 12) (queue ceiling : Nat) (interrupt device : Bool) (r : Record)
    (sound : Bool) : State :=
  let reason := reasonOf s ctx device r sound
  if reason = 0 then acceptRecord s place ctx queue ceiling interrupt r
  else rejectRecord s (some place) queue interrupt reason

/-! ### Queues -/

/-- R393: log2 of the entries of a queue. -/
def SubQueue.order (q : SubQueue) : Nat := bits q.cfg.toNat 0 4
/-- R393. -/
def SubQueue.enabled (q : SubQueue) : Bool := q.cfg.getLsbD 31

/-- R393: the place of the next entry, mod 2^n. -/
def SubQueue.next (q : SubQueue) : Nat := q.head.toNat % 2 ^ q.order

/-- R393, R398: whether the command processor has an entry of a queue to read, where memory serves it; the tail is taken mod
2^n. -/
def queueReady (s : State) (k : Fin 64) : Bool :=
  let q := s.queues[k]
  cpReady s && q.enabled && decide (q.next ≠ q.tail.toNat % 2 ^ q.order) && homeReady s (q.base.toNat + 64 * q.next)

/-- R297, R301: the command processor reads the entry at a queue's head and the record it names. -/
def execQueueEntryRead (k : Fin 64) (s : State) : Answer :=
  if queueReady s k then
    let q := s.queues[k]
    let place := q.base.toNat + 64 * q.next
    let e := bytesAt s place 64
    let bad := poisonAt s place 64 || quarantinedAt s place
    let q' : SubQueue := { q with head := BitVec.ofNat 12 ((q.next + 1) % 2 ^ q.order) }
    let s := { s with queues := s.queues.set k q' }
    let a := bits e 64 64
    let interrupt := e.testBit 0
    let place : Option RecPlace :=
      if a % 64 = 0 ∧ a < 2 ^ 48 ∧ physOk a = true then some (.phys (BitVec.ofNat 48 a)) else none
    match place with
    | some p =>
      if bits e 1 63 = 0 ∧ bits e 128 384 = 0 ∧ bad = false then
        let r := readRecord (memoryFrom s a)
        .next (submit s p (BitVec.ofNat 12 (bits q.cfg.toNat 16 12)) k.val (bits q.cfg.toNat 28 2) interrupt false r
          (soundAt s a r))
      else .next (rejectRecord s place k.val interrupt 1)
    | none => .next (rejectRecord s none k.val interrupt 1)
  else .next s

/-- R312: the command processor takes the first record of the device-side queue, in its issuer's context
and at no more than its priority. -/
def execDeviceLaunch (s : State) : Answer :=
  match s.deviceQueue with
  | [] => .next s
  | d :: t =>
    if cpReady s then
      .next (submit { s with deviceQueue := t } d.place d.ctx 64 d.prio false true d.record d.sound)
    else .next s

/-! ### Signals -/

/-- R174: whether an `EV.SIG` may be performed. -/
def signalReady (s : State) (a : Fin 32) (e : QEntry) : Bool :=
  match e.op with
  | .evSig _ => (ahead s a e.id).performed s a .pk
  | _ => false

/-- The arrays of a context with an `EV.SIG` of an event that may be performed, and its entry. -/
def signalFrom (s : State) (ctx : BitVec 12) (n : BitVec 16) : Option (Fin 32 × Nat) :=
  (List.finRange 32).findSome? fun a =>
    if (getA s a).ctx = ctx then
      ((getA s a).queue.find? fun e => decide (e.op = .evSig n) && signalReady s a e).map fun e => (a, e.id)
    else none

/-- R174, R309, R310: a signal that a task's `EV.SIG` has sent arrives at the event table; or the supervisor core releases a
waiter of the event that its list holds. -/
def execEventSignal (ctx : BitVec 12) (n : BitVec 16) (s : State) : Answer :=
  match signalFrom s ctx n with
  | some (a, id) => .next (signalEvent (dropEntries s a [id]) ctx n)
  | none => .next (releaseLate s ctx n)

end Sys2Proof.Machine
end

