-- ==== Sys2Proof/Machine/Tasks.lean ====
section
/-! DEFINITION. Staging, placement, completion, pre-emption and the deficit round-robin of accepted tasks
(R11, R12, R126, R127, R224, R242, R275, R283, R291, R304 to R308, R313, R314). -/

namespace Sys2Proof.Machine

/-! ### The order of placement (R305, R306) -/

/-- R306: whether a task goes ahead of the READY tasks of its priority: it was pre-empted. A task that
a switch request saved takes its turn under R305 (R308). -/
def Task.first (t : Task) : Bool := decide (t.state = .saved) && !t.switch

/-- R305: how far a task's queue is from the queue whose turn it is. -/
def Task.turn (t : Task) (s : State) : Nat := (t.queue + 65 - vget s.turns t.prio) % 65

/-- R305, R306: whether one candidate is placed before another. -/
def Task.before' (t u : Task) (s : State) : Bool :=
  if t.prio ≠ u.prio then decide (u.prio < t.prio)
  else if t.first ≠ u.first then t.first
  else if t.turn s ≠ u.turn s then decide (t.turn s < u.turn s)
  else decide (t.seqNo < u.seqNo)

/-! ### Staging (R283, R304) -/

/-- The entries of a task's record with the objects they name. -/
def Task.objects (t : Task) : List (BitVec 256 × BitVec 24) := t.record.objects.zip t.named

/-- R283: the staged objects of a task that have pages. -/
def stagedPages (s : State) (t : Task) : List (BitVec 24 × ObjEntry × List Nat) :=
  (t.objects.filter fun e => entryStage e.1).filterMap fun e =>
    match objFind s t.ctx e.2 with
    | some o => if o.kind = 2 ∧ o.homeKind = 0 then some (e.2, o, pagesOf o 0 o.size) else none
    | none => none

/-- R398: the stacks that a range of physical memory lies in. -/
def rangeStacks (base len : Nat) : List Nat :=
  if base / 2 ^ 44 = 0 then idRange (stackOf base) (stackOf (base + len - 1) + 1 - stackOf base) else []

/-- R398: the stacks that the extents of a LINEAR object lie in. -/
def extentStacks (s : State) (list : Nat) : Nat → List Nat
  | 0 => []
  | fuel + 1 =>
    let e := Memory.readN s.mem list 16
    rangeStacks (bits e 48 48) (bits e 0 48)
      ++ if e / 2 ^ 127 = 1 then [] else extentStacks s (list + 16) fuel

/-- R398: whether every stack that a task's working set needs is in service. -/
def stacksReady (s : State) (t : Task) : Bool :=
  let linear := (t.objects.filter fun e => entryStage e.1).flatMap fun e =>
    match objFind s t.ctx e.2 with
    | some o => if o.kind = 1 ∧ o.homeKind = 0 ∧ o.scratch.isNone = true then extentStacks s o.root 4096
        else []
    | none => []
  let paged := (stagedPages s t).flatMap fun e => e.2.2.flatMap fun p =>
    match walkPage s e.2.1 t.ctx e.1 p false with
    | some d => if descState d = 1 ∧ descPkg d = s.pkgnum.toNat then rangeStacks (descBase d) 1 else []
    | none => []
  (linear ++ paged).all fun k => inService s k

/-- R283: whether a page of the working set is in HBM. -/
def pageStaged (s : State) (ctx : BitVec 12) (e : BitVec 24 × ObjEntry × List Nat) (p : Nat) : Bool :=
  match pageState s e.2.1 ctx e.1 p with
  | some st => decide (st = 1 ∨ st = 2 ∨ st = 3)
  | none => false

/-- R283: whether a task in STAGING comes before every other of its queue that is staged: it waits at the head of its
queue. -/
def stagingTurn (s : State) (t : Task) : Bool :=
  s.tasks.all fun u => !(u.queue = t.queue && decide (u.state = .staging) && decide (u.seqNo < t.seqNo))

/-- R281: whether the staging pins of a task keep to both limits. -/
def pinsFit (s : State) (t : Task) : Bool :=
  let es := stagedPages s t
  decide (pinsBy s t.tid + (es.map fun e => e.2.2.length).sum ≤ 65536)
    && es.all fun e => e.2.2.all fun p => decide (pinsOn s t.ctx e.1 p < 65535)

/-- R283: whether a task at the head of its queue has its working set resident, in stacks that serve, with room for its
pins. -/
def stageable (s : State) (t : Task) : Bool :=
  decide (t.state = .staging) && stagingTurn s t && stacksReady s t && pinsFit s t
    && (stagedPages s t).all fun e => e.2.2.all (pageStaged s t.ctx e)

/-- R283: whether the command processor can stage a task at the head of its queue: what its working set still lacks in
HBM are ABSENT pages of CAPACITY objects. -/
def stagingOpen (s : State) (t : Task) : Bool :=
  decide (t.state = .staging) && stagingTurn s t && stacksReady s t && pinsFit s t
    && (stagedPages s t).all fun e => e.2.2.all fun p =>
      pageStaged s t.ctx e p || (e.2.1.capacity && decide (pageState s e.2.1 t.ctx e.1 p = some 0))

/-- R283: whether no other task that the command processor can stage would be placed before one. -/
def stagingNext (s : State) (t : Task) : Bool :=
  s.tasks.all fun u => !(stagingOpen s u && decide (u.tid ≠ t.tid) && u.before' t s)

/-- R283: whether the command processor ends a task's staging now. -/
def stagingReady (s : State) (t : Task) : Bool := cpReady s && stageable s t && stagingNext s t

/-- R283: a task's working set is resident; its pages are pinned and the task is READY. Absent pages of
CAPACITY objects are asked for. -/
def execStagingComplete (tid : BitVec 32) (s : State) : Answer :=
  match taskFind s tid with
  | none => .next s
  | some t =>
    let es := stagedPages s t
    if stagingReady s t then
      let s := es.foldl (fun s e => e.2.2.foldl (fun s p => addPin s tid t.ctx e.1 p) s) s
      .next (updT s tid fun t => { t with state := .ready })
    else if cpReady s ∧ t.state = .staging ∧ stagingTurn s t = true ∧ stagingNext s t = true then
      .next (es.foldl (fun s e => if e.2.1.capacity then askStage s e.2.1 t.ctx e.1 e.2.2 else s) s)
    else .next s

/-! ### Free arrays and placements (R11, R305) -/

/-- R11: whether a list of arrays has the shape of a record's placement. -/
def shapeOk (r : Record) (l : List (Fin 32)) : Bool :=
  decide (l.length = r.arrays) && distinct (l.map (·.val))
    && if r.chain then distinct (l.map fun a => (dieOf a).val)
      else l.all fun a => l.all fun b => decide (clusterOf a = clusterOf b)

/-- The candidate that comes before every other of a list. -/
def firstOf (s : State) : List Task → Option Task
  | [] => none
  | t :: l =>
    match firstOf s l with
    | none => some t
    | some u => if u.before' t s then some u else some t

/-- R305: the task that the command processor places next. -/
def nextPlaced (s : State) : Option Task := firstOf s ((candidates s).filter (fits s))

/-- R305: whether a task may be placed on a list of arrays. -/
def placeOk (s : State) (tid : BitVec 32) (l : List (Fin 32)) : Bool :=
  cpReady s && match nextPlaced s with
    | some t => decide (t.tid = tid) && shapeOk t.record l && l.all (freeArr s)
    | none => false

/-! ### What a placement sets up -/

/-- R242: the banks granted with array `x` of a cluster. -/
def banksOf (x : Nat) : List (Fin 32) :=
  [finOf 31 (16 + 2 * x), finOf 31 (17 + 2 * x), finOf 31 (24 + 2 * x), finOf 31 (25 + 2 * x)]

/-- R178, R242: the banks of an array return to the roles of R242. -/
def restoreBanks (s : State) (a : Fin 32) : State :=
  (banksOf (inCluster a)).foldl (fun s n =>
    let b := Bank.placed n.val
    if vget s.clusters[clusterOf a].banks n.val = b then s else setRole s (clusterOf a) n b.role b.view) s

/-- R291: the barrier objects of an array are set retired. -/
def retireBarriers (s : State) (a : Fin 32) : State :=
  updC s (clusterOf a) fun c =>
    let v := (idRange (64 * inCluster a) 64).foldl (fun v k => vset v k Barrier.retired) c.barriers
    { c with barriers := v }

/-- R269, R275: the physical address of a byte of a bank of an array's cluster. -/
def bankByte (a : Fin 32) (bank off : Nat) : Nat :=
  2 * 2 ^ 44 + (clusterOf a).val * 2 ^ 27 + bank * 2 ^ 22 + off

/-- R275: bytes of a SCRATCH bank. -/
def bankSize : Nat := 3 * 2 ^ 20

/-- R275: the extents of a scratch object that starts at byte `off` of a member's two banks. -/
def scratchExtents (a : Fin 32) (off size : Nat) : List (Nat × Nat) :=
  let b := 16 + 2 * inCluster a
  if off + size ≤ bankSize then [(bankByte a b off, size)]
  else if bankSize ≤ off then [(bankByte a (b + 1) (off - bankSize), size)]
  else [(bankByte a b off, bankSize - off), (bankByte a (b + 1) 0, off + size - bankSize)]

/-- R275: lay out the scratch objects of one member in entry order. -/
def layScratch (s : State) (ctx : BitVec 12) (a : Fin 32) : Nat → List (BitVec 24) → State
  | _, [] => s
  | off, o :: t =>
    match objFind s ctx o with
    | none => layScratch s ctx a off t
    | some e =>
      let off := alignUp off
      let e' : ObjEntry := { e with scratch := some (scratchExtents a off e.size) }
      layScratch { s with objs := tableSet s.objs (objKey ctx o) e' } ctx a (off + e.size) t

/-- R275: the scratch objects of member `g` of a task. -/
def Task.scratchOf (t : Task) (g : Nat) : List (BitVec 24) :=
  (t.scratchObjs.filter fun e => e.2 = g).map fun e => e.1

/-- R275: the two SCRATCH banks of an array, as numbers of `State.fills`. -/
def scratchFills (a : Fin 32) : List Nat :=
  [32 * (clusterOf a).val + 16 + 2 * inCluster a, 32 * (clusterOf a).val + 17 + 2 * inCluster a]

/-- The contents of a member's two SCRATCH banks become those of a list of bytes by place. -/
def putScratch (s : State) (a : Fin 32) (p : BackPage) : State :=
  let b := 16 + 2 * inCluster a
  let low : BackPage := ⟨p.bytes.filter fun e => decide (e.1 < bankSize),
    p.poison.filter fun k => decide (32 * k < bankSize)⟩
  let high : BackPage := ⟨(p.bytes.filter fun e => decide (bankSize ≤ e.1)).map fun e => (e.1 - bankSize, e.2),
    (p.poison.filter fun k => decide (bankSize ≤ 32 * k)).map fun k => k - bankSize / 32⟩
  let s := putRange s (bankByte a b 0) bankSize low
  let s := putRange s (bankByte a (b + 1) 0) bankSize high
  { s with fills := s.fills.filter fun e => !(scratchFills a).contains e.1 }

/-- R275, R372: the scratch objects of a member are laid out, and zero where the task starts. -/
def startScratch (s : State) (t : Task) (g : Nat) (a : Fin 32) : State :=
  let l := t.scratchOf g
  if l.isEmpty then s
  else
    let s := layScratch (putScratch s a ⟨[], []⟩) t.ctx a 0 l
    l.foldl (fun s o => match objFind s t.ctx o with
      | some e => writeHeaders s t.ctx o e t.tid
      | none => s) s

/-- R224, R242: stream `q` bound by an entry of the record, on array `a`. -/
def boundStream (t : Task) (a : Fin 32) (d : BitVec 512) : Stream :=
  let q := streamReg d
  { mode := .bound
    desc := { streamDesc d with
      wrap := false, depth := 1024
      bank := finOf 31 (24 + 2 * inCluster a + q.val % 2), bufBase := 1024 * (q.val / 2) }
    cap := grantedCap t (streamCap d).val, reg := streamCap d
    seed := w64 (t.record.fld 1024 64), step := w64 (t.record.fld 1088 64)
    pos := 0, buf := [], held := [], gate := 0 }

/-- R12, R127, R298: the registers of a sequencer as its task starts. -/
def startRegs (t : Task) : SeqRegs :=
  let r := t.record
  let b := SeqRegs.start
  { b with
    s := Vector.ofFn fun k : Fin 32 => if k = 0 then 0 else r.scalar k.val
    h := Vector.ofFn fun k : Fin 16 => grantedCap t k.val
    orow := BitVec.ofNat 32 (r.fld 960 32), ocol := BitVec.ofNat 32 (r.fld 992 32)
    nseed := w64 (r.fld 1024 64), nstep := w64 (r.fld 1088 64)
    pc := BitVec.ofNat 48 r.entry }

/-- R12, R13, R127: array `a` as member `g` of a task that starts on a list of arrays. -/
def startArr (t : Task) (l : List (Fin 32)) (g : Nat) (a : Fin 32) : Arr :=
  let r := t.record
  let streams := r.streams.foldl (fun v d => v.set (streamReg d) (boundStream t a d)) Arr.start.streams
  let x := Arr.start
  { x with
    task := t.tid, ctx := t.ctx, grpIdx := g, group := l, kind := if r.chain then .chain else .cluster
    prog := t.prog, run := .boundary, due := w64 r.entry, regs := startRegs t, snap := startRegs t
    retIv := BitVec.ofNat 32 r.interval, retLeft := BitVec.ofNat 32 r.interval, streams := streams
    point := { CommitPoint.start with
      entry := BitVec.ofNat 48 r.entry, streams := streams.map Stream.point } }

/-- R154, R161: the tongs contexts of member `g` as its task starts. -/
def startTongs (s : State) (t : Task) (g : Nat) (a : Fin 32) : State :=
  (List.range 4).foldl (fun s e =>
    let l := t.record.schedule (4 * e + g)
    putTongs s (clusterOf a) (4 * e + inCluster a)
      { Tongs.start with schedule := if l.isEmpty then none else some l }) s

/-- R313: the task's sequencers join the lines of its sync groups. -/
def joinLines (s : State) (t : Task) (l : List (Fin 32)) : State :=
  t.record.syncs.foldl (fun s e =>
    let mine (n : SyncLine) : Bool := n.ctx = t.ctx && n.group = e.1
    let add (n : SyncLine) : SyncLine :=
      if mine n then { n with members := n.members ++ l.filter fun a => !n.members.contains a } else n
    if s.lines.any mine then { s with lines := s.lines.map add }
    else { s with lines := s.lines ++ [⟨t.ctx, e.1, e.2, l⟩] }) s

/-- R314, R315: the home completes the phase once every package expected has arrived and no absence is
held. -/
def DomainBarrier.settle (d : DomainBarrier) (now : Nat) : DomainBarrier :=
  if d.absent.isEmpty ∧ d.expected ≠ 0 ∧ d.expected ≤ d.arrived.length then
    { d with arrived := [], expected := d.nextExpected, completing := true, since := now }
  else d

/-- R314: a domain barrier of which nothing is known yet but its ID. -/
def DomainBarrier.unknown (id : BitVec 24) (home : BitVec 10) (now : Nat) : DomainBarrier :=
  { id := id, tid := 0, localObj := 0, home := home, expected := 0, nextExpected := 0, arrived := [], absent := [], dropped := []
    completing := false, entered := false, carried := false, timeout := 0, since := now }

/-- R314: the participating count becomes known; drops that came before lower that of later phases. -/
def DomainBarrier.count (d : DomainBarrier) (n : Nat) : DomainBarrier :=
  if d.expected = 0 then { d with expected := n, nextExpected := n - d.dropped.length } else d

/-- R314: the package takes part in the domain barrier that the record names. -/
def joinDomain (s : State) (t : Task) : State :=
  let d := t.record.domain
  if d = 0 then s
  else
    let n := bits d 51 11
    let obj := BitVec.ofNat 8 (bits d 72 8)
    let join (e : DomainBarrier) : DomainBarrier :=
      if e.id = t.record.domainId then
        ({ e with tid := t.tid, localObj := obj, timeout := BitVec.ofNat 32 (bits d 0 32) }.count n).settle s.ptime
      else e
    if s.domain.any fun e => e.id = t.record.domainId then { s with domain := s.domain.map join }
    else
      let e := DomainBarrier.unknown t.record.domainId (BitVec.ofNat 10 (bits d 62 10)) s.ptime
      let e : DomainBarrier := { e with tid := t.tid, localObj := obj, timeout := BitVec.ofNat 32 (bits d 0 32) }
      { s with domain := s.domain ++ [e.count n] }

/-- R306, R349: a request whose waiting task has been placed is withdrawn; members parked by it alone go
on. -/
def withdraw (s : State) (waiter : BitVec 32) : State :=
  (s.tasks.filter fun t => t.preempt = some waiter).foldl (fun s t =>
    let s := updT s t.tid fun t => { t with preempt := none }
    if t.switch then s
    else updAll s t.arrs fun x => if x.run = .parked then { x with run := .boundary } else x) s

/-- R235: a tail that is back with the command processor leaves the task that it was of. -/
def leaveTasks (s : State) (l : List (Fin 32)) : State :=
  dropLines { s with tasks := s.tasks.map fun t => { t with arrs := t.arrs.filter fun a => !l.contains a } } l

/-- R242, R291, R313, R314: what a placement sets up whether a task starts or resumes. -/
def prepare (s : State) (t : Task) (l : List (Fin 32)) : State :=
  let s := leaveTasks s l
  let around := (List.finRange 32).filter fun a =>
    (l.any fun b => decide (clusterOf a = clusterOf b)) && (l.contains a || freeArr s a)
  let s := around.foldl restoreBanks s
  let s := l.foldl retireBarriers s
  joinDomain (joinLines s t l) t

/-- R305, R308: what a placement changes of the task and of the queues' turns. -/
def notePlaced (s : State) (t : Task) (l : List (Fin 32)) : State :=
  let s := updT s t.tid fun t =>
    { t with
      state := .running, arrs := l, preempt := none, switch := false, placed := s.nextSeq
      deficit := min t.deficit 0 + 2 ^ 20 }
  let turns := if t.first then s.turns else vset s.turns t.prio ((t.queue + 1) % 65)
  withdraw { s with nextSeq := s.nextSeq + 1, turns := turns } t.tid

/-- The members of a placement with their places in the group. -/
def numbered (l : List (Fin 32)) : List (Nat × Fin 32) := (List.range l.length).zip l

/-- R305: a task starts on a list of arrays. -/
def startTask (s : State) (t : Task) (l : List (Fin 32)) : State :=
  let s := prepare s t l
  let s := (numbered l).foldl (fun s m =>
    let s := startTongs (startScratch s t m.1 m.2) t m.1 m.2
    setA s m.2 (startArr t l m.1 m.2)) s
  let s := if t.reruns = 0 then writeStatus s t.recAddr t.tid 0 2 else s
  notePlaced s t l

/-- R305: the command processor places a READY task whole on free arrays. -/
def execTaskPlacement (tid : BitVec 32) (l : List (Fin 32)) (s : State) : Answer :=
  match taskFind s tid with
  | some t => .next (if t.state = .ready ∧ placeOk s tid l = true then startTask s t l else s)
  | none => .next s

/-! ### Completion (R126) -/

/-- R268: the objects that only a completing task names and that a launch record created. -/
def orphans (s : State) (t : Task) : List (BitVec 24) :=
  t.named.filter fun o =>
    (match objFind s t.ctx o with | some e => !e.host | none => false)
      && s.tasks.all fun u => decide (u.tid = t.tid) || u.ctx != t.ctx || !u.named.contains o

/-- R314, R315: whether the home holds something of other packages for a domain barrier: arrivals, absence tokens, drops that
leave packages for later phases, or a phase on its way. -/
def DomainBarrier.inUse (d : DomainBarrier) (own : BitVec 10) : Bool :=
  decide (d.home = own) && (!d.arrived.isEmpty || (d.absent.any fun p => p != own)
    || (!d.dropped.isEmpty && decide (d.nextExpected ≠ 0)))

/-- R314: a task that completes leaves its domain barrier. The entry goes with the last task that names it, unless this package
is its home and others still take part (log entry 130). -/
def leaveDomain (s : State) (t : Task) : State :=
  let named := s.tasks.any fun u => u.tid != t.tid && decide (u.record.domain ≠ 0 ∧ u.record.domainId = t.record.domainId)
  let leave (d : DomainBarrier) : Option DomainBarrier :=
    if d.tid ≠ t.tid then some d
    else if named || d.inUse s.pkgnum then some { d with tid := 0, completing := false, absent := d.absent.filter fun p => p != s.pkgnum }
    else none
  { s with domain := s.domain.filterMap leave }

/-- R291, R243: the arrays of a task that leaves them are freed. -/
def freeTaskArrs (s : State) (l : List (Fin 32)) : State :=
  let s := l.foldl (fun s a => restoreBanks (retireBarriers s a) a) s
  let s := l.foldl (fun s a => (tongsOf a).foldl (fun s k => putTongs s (clusterOf a) k Tongs.start) s) s
  updAll s l fun _ => Arr.start

/-- R126: a task completes once every condition holds: its objects and holdings end, its events are signalled and
status 3 is written. -/
def execTaskCompletes (tid : BitVec 32) (s : State) : Answer :=
  match taskFind s tid with
  | none => .next s
  | some t =>
    if t.state = .running ∧ t.arrs.all (memberDone s) = true then
      let s := endHoldings (dropLines s t.arrs) t true
      let s := freeTaskArrs (leaveDomain s t) t.arrs
      let s := (orphans s t).foldl (fun s o => revoke s t.ctx o) s
      let s := { s with tasks := s.tasks.filter fun u => u.tid != tid }
      let s := t.record.signals.foldl (fun s n => signalEvent s t.ctx n) s
      let s := writeStatus s t.recAddr tid 0 3
      .next (raiseVector s t.queue t.interrupt)
    else .next s

/-! ### Pre-emption and switches (R306, R308) -/

/-- R306: whether a request from a task to one that runs is due. -/
def preemptDue (s : State) (tid waiter : BitVec 32) : Bool :=
  cpReady s && match (candidates s).find? fun t => t.tid = waiter with
    | some w => noRoom s w && (victims s w).any fun u => decide (u.tid = tid ∧ u.preempt = none)
    | none => false

/-- R306: the command processor posts a pre-emption request to one of the tasks it has picked. -/
def execPreemptionRequest (tid waiter : BitVec 32) (s : State) : Answer :=
  .next (if preemptDue s tid waiter then updT s tid fun t => { t with preempt := some waiter } else s)

/-- R308: whether a switch request is due. -/
def switchDue (s : State) (t : Task) : Bool :=
  cpReady s && decide (t.state = .running ∧ t.deficit ≤ 0) && !t.switch
    && (candidates s).any fun u => decide (u.prio = t.prio) && noRoom s u

/-- R308: a running task's deficit is used up and a task of its priority fits no free placement. -/
def execDeficitExpiry (tid : BitVec 32) (s : State) : Answer :=
  match taskFind s tid with
  | some t => .next (if switchDue s t then updT s tid fun t => { t with switch := true } else s)
  | none => .next s

end Sys2Proof.Machine
end

