-- ==== Sys2Proof/Machine/Save.lean ====
section
/-! DEFINITION. Saving a task and restoring it (R119, R211, R219, R241, R291, R314, R349 to R354): the images
as R351 to R353 lay them out. -/

namespace Sys2Proof.Machine

/-! ### Layout -/

/-- A section from the values at its byte offsets. -/
def packAt (l : List (Nat × Nat)) : Nat := (l.map fun e => e.2 * 2 ^ (8 * e.1)).sum

/-- `w` bits of a section from bit `b` of byte `off`. -/
def byteFld (n off b w : Nat) : Nat := bits n (8 * off + b) w

/-- R265: a capability as its 128 bits; an invalid one that is not of `H0`–`H15` is zero. -/
def Cap.pack (c : Cap) : Nat :=
  c.obj.toNat * 2 ^ 104 + c.rights.toNat * 2 ^ 96 + c.lower.toNat * 2 ^ 48 + c.len.toNat

/-- R265: a capability from its bits. -/
def Cap.unpack (n : Nat) (valid : Bool) : Cap :=
  ⟨valid, BitVec.ofNat 24 (bits n 104 24), BitVec.ofNat 8 (bits n 96 8), BitVec.ofNat 48 (bits n 48 48),
    BitVec.ofNat 48 (bits n 0 48)⟩

/-- A capability whose tag the image holds by its bits not being zero. -/
def Cap.packHeld (c : Cap) : Nat := if c.valid then c.pack else 0

/-- The inverse of `packHeld`. -/
def Cap.unpackHeld (n : Nat) : Cap := Cap.unpack n (n % 2 ^ 128 ≠ 0)

/-- R352: the state code of a stream. -/
def StreamMode.code : StreamMode → Nat
  | .unbound => 0 | .binding => 1 | .bound => 2 | .exhausted => 3 | .output => 4

/-- R352: the state a code names. -/
def StreamMode.ofCode : Nat → StreamMode
  | 2 => .bound | 3 => .exhausted | 4 => .output | _ => .unbound

/-- R149, R352: a stream with bank, base, depth and wrap resolved, its position and its state. -/
def Stream.pack (q : Stream) : Nat :=
  if q.mode = .unbound then 0
  else
    let d := q.desc
    d.base.toNat + (d.dims - 1) * 2 ^ 98 + d.noise.toNat * 2 ^ 100 + (if d.wrap then 2 ^ 103 else 0)
      + (d.depth / 64 - 1) * 2 ^ 104 + d.bank.val * 2 ^ 108 + d.bufBase * 2 ^ 128
      + ((List.finRange 4).map fun k =>
          ((d.extent[k] - 1) * 2 ^ 32 + wrap d.stride[k] 32) * 2 ^ (192 + 64 * k.val)).sum
      + q.pos % 2 ^ 32 * 2 ^ 448 + q.mode.code * 2 ^ 480

/-- R162, R352: the code of a shadow state. -/
def Shadow.code : Shadow → Nat
  | .empty => 0 | .loaded => 1 | .armed => 2

/-- R352: the shadow state that a code names. -/
def Shadow.ofCode : Nat → Shadow
  | 1 => .loaded | 2 => .armed | _ => .empty

/-! ### Writing an image (R351 to R353) -/

/-- R352: section A. -/
def Arr.sectionA (x : Arr) : Nat :=
  let r := x.regs
  let head := 1 + x.grpIdx * 2 ^ 8 + (if x.sorter.list.length = 256 then 2 ^ 10 else 0)
    + (if r.travel then 2 ^ 11 else 0) + r.ret.length * 2 ^ 12
  let preds := ((List.finRange 8).map fun k : Fin 8 => if k = 0 ∨ r.p[k] then 2 ^ k.val else 0).sum
  packAt ([(0, head), (256, preds)]
    ++ ((List.finRange 32).map fun k : Fin 32 => (8 * k.val, if k = 0 then 0 else r.s[k].toNat))
    ++ ((List.finRange 8).map fun k => (264 + 8 * k.val, r.m[k].toNat))
    ++ ((List.finRange 4).map fun k => (328 + 16 * k.val,
        r.l[k].count.toNat + r.l[k].start.toNat * 2 ^ 32 + r.l[k].stop.toNat * 2 ^ 80))
    ++ ((List.range 8).map fun k => (392 + 8 * k, (r.ret.getD k 0).toNat))
    ++ [(456, x.due.toNat), (464, r.xpc.toNat), (472, r.xnpc.toNat), (480, r.xsw.toNat),
        (488, x.acnt % 2 ^ 64), (496, x.fcnt % 2 ^ 64), (504, r.nseed.toNat), (512, r.nstep.toNat),
        (520, r.rsw.toNat), (528, r.orow.toNat), (532, r.ocol.toNat), (536, r.dthr.toNat),
        (540, r.nflg.toNat), (544, r.nctl.toNat), (548, r.dscl.toNat), (552, x.phNum.toNat),
        (556, x.retLeft.toNat), (560, x.clease.toNat), (564, x.north.pos.toNat), (568, x.west.pos.toNat),
        (572, (edgePos x.edge).toNat)]
    ++ ((List.finRange 16).map fun k => (1024 + 64 * k.val, x.streams[k].pack))
    ++ ((List.finRange 16).map fun k => (2048 + 32 * k.val,
        x.streams[k].seed.toNat + x.streams[k].step.toNat * 2 ^ 64)))

/-- The tongs contexts of an array, by engine. -/
def tongsBy (s : State) (a : Fin 32) (e : Nat) : Tongs :=
  vget s.clusters[clusterOf a].tongs (4 * e + inCluster a)

/-- R352: section B. -/
def sectionB (s : State) (a : Fin 32) : Nat :=
  let x := getA s a
  let tags := ((List.finRange 16).map fun k => if x.regs.h[k].valid then 2 ^ k.val else 0).sum
  packAt ([(256, tags), (768, x.prog.packHeld)]
    ++ ((List.finRange 16).map fun k => (16 * k.val, x.regs.h[k].pack))
    ++ ((List.finRange 16).map fun k => (512 + 16 * k.val, x.streams[k].cap.packHeld))
    ++ (List.range 4).flatMap fun e =>
      let t := tongsBy s a e
      let b := t.block.getD ⟨0, Cap.none, Cap.none, Cap.none⟩
      let o := 1024 + 128 * e
      [(o, b.src.packHeld), (o + 16, b.dst.packHeld), (o + 32, b.idx.packHeld), (o + 48, t.ring.packHeld)])

/-- R352: section C. -/
def sectionC (s : State) (a : Fin 32) : Nat :=
  let x := getA s a
  let regs (f : Feeder) (o : Nat) : List (Nat × Nat) :=
    (List.finRange 64).map fun k => (o + 32 * k.val, f.regs[k].bits.toNat)
  let tags (f : Feeder) (o : Nat) : List (Nat × Nat) :=
    (List.finRange 64).map fun k =>
      (o + 4 * k.val, f.tags[k].toNat + if f.regs[k].poison then 2 ^ 16 else 0)
  packAt (regs x.north 0 ++ regs x.west 2048 ++ tags x.north 4096 ++ tags x.west 4352
    ++ [(4608, x.north.rot.toNat), (4609, x.west.rot.toNat),
        (4612, (x.sorter.k - 1) + x.sorter.fmt.code * 2 ^ 8 + (if x.sorter.low then 2 ^ 12 else 0)
          + if x.sorter.poison then 2 ^ 13 else 0)]
    ++ ((List.range 256).map fun p => (4616 + 8 * p, match x.sorter.list[p]? with
        | some e => e.1.toNat + e.2.toNat * 2 ^ 32
        | none => 2 ^ 64 - 1))
    ++ (List.range 4).flatMap fun e =>
      let t := tongsBy s a e
      let o := 7168 + 256 * e
      [(o, (t.block.map fun b => b.bits.toNat).getD 0), (o + 64, t.shadow.code),
        (o + 72, if t.armed then t.lastOp + 1 else 0), (o + 80, t.timeline.toNat), (o + 88, t.schedIdx),
        (o + 89, t.released), (o + 90, if t.schedule.isSome then 1 else 0), (o + 96, t.ringOff),
        (o + 104, t.ringEntries)])

/-- R352: a barrier object as packed in section D. -/
def Barrier.pack (o : Barrier) : Nat :=
  o.exp + o.next * 2 ^ 17 + o.arr * 2 ^ 34 + wrap o.tx 41 * 2 ^ 51 + o.ph.toNat * 2 ^ 92
    + o.dropped.toNat * 2 ^ 124
    + ((List.finRange 4).map fun g => match o.lastPh[g] with
      | some p => (2 ^ 32 + p.toNat) * 2 ^ (128 + 33 * g.val)
      | none => 0).sum

/-- R352: section D. In a chain the head's image holds the barrier objects. -/
def sectionD (s : State) (a : Fin 32) : Nat :=
  let x := getA s a
  let c := s.clusters[clusterOf a]
  let bars := if x.kind = .cluster ∨ x.grpIdx = 0 then
      (List.range 64).map fun k => (64 * k, (vget c.barriers (64 * inCluster a + k)).pack)
    else []
  packAt (bars ++ [(4096, x.sq.toNat)]
    ++ (List.range 4).map fun k =>
      let b := vget c.banks ((banksOf (inCluster a)).getD k 0).val
      (4104 + k, b.role.code + 4 * b.view.code))

/-- R353: a cell's registers. -/
def Cell.pack (c : Cell) : Nat :=
  let poison := ((List.finRange 16).map fun k => if c.f[k].poison then 2 ^ k.val else 0).sum
    + (if c.h.poison then 2 ^ 16 else 0) + if c.v.poison then 2 ^ 17 else 0
  packAt (((List.finRange 16).map fun k => (32 * k.val, c.f[k].bits.toNat))
    ++ [(512, c.h.bits.toNat), (544, c.v.bits.toNat), (584, c.g.toNat), (588, poison)]
    ++ (List.finRange 4).map fun k => (576 + 2 * k.val, c.k[k].toNat))

/-- R351: section F: the words of a live store that are not zero. -/
def Cell.words (key : Nat) (c : Cell) : List (Nat × Nat) :=
  (c.store.filter fun e => e.2.bits != 0).map fun e => (512 * key + e.1, e.2.bits.toNat)

/-- R351: section G: the poisoned words. -/
def Cell.poisoned (key : Nat) (c : Cell) : List Nat :=
  (c.store.filter fun e => e.2.poison).map fun e => 512 * key + e.1

/-- R178, R351: the bytes of one SCRATCH bank that are not zero, by place; a bank whose contents a change
of role left open is read byte by byte. -/
def bankBytes (s : State) (a : Fin 32) (bank : Nat) : List Host.Cell :=
  let base := bankByte a bank 0
  if (tableFind s.fills (32 * (clusterOf a).val + bank)).isNone then rangeBytes s base bankSize
  else (List.range bankSize).filterMap fun k =>
    let v := bytesAt s (base + k) 1
    if v = 0 then none else some (k, BitVec.ofNat 8 v)

/-- R351: section H. -/
def scratchImage (s : State) (a : Fin 32) : BackPage :=
  let b := 16 + 2 * inCluster a
  ⟨bankBytes s a b ++ (bankBytes s a (b + 1)).map fun e => (bankSize + e.1, e.2),
    rangePoison s (bankByte a b 0) bankSize
      ++ (rangePoison s (bankByte a (b + 1) 0) bankSize).map fun k => bankSize / 32 + k⟩

/-- R351: the image of member `g` of a task, under an image ID. -/
def takeImage (s : State) (t : Task) (id : BitVec 40) (g : Nat) (a : Fin 32) : Image :=
  let x := getA s a
  let h : BackPage := if (t.scratchOf g).isEmpty then ⟨[], []⟩ else scratchImage s a
  { id := id, a := x.sectionA, b := sectionB s a, c := sectionC s a, d := sectionD s a
    e := x.cells.map fun c => (c.1, c.2.pack)
    f := if t.record.live then x.cells.flatMap fun c => c.2.words c.1 else []
    g := if t.record.live then x.cells.flatMap fun c => c.2.poisoned c.1 else []
    h := h.bytes, hPoison := h.poison, rest := { x with cells := [], prev := [] } }

/-! ### The chunks of an image (R351) -/

/-- R351: a chunk of a section of 4 KiB or more that is held as one number. -/
def sectionChunk (n k : Nat) : Nat := n / 2 ^ (32768 * k) % 2 ^ 32768

/-- R351, R353: the chunk of section E that begins at byte `lo` of it: the registers of cells not at their task-start values
come from the list. -/
def cellsChunk (l : List (Nat × Nat)) (lo : Nat) : Nat :=
  packAt ((List.range 4096).map fun k =>
    (k, byteFld (tableGet l ((lo + k) / 640) Cell.start.pack) ((lo + k) % 640) 0 8))

/-- R351: the payload of chunk `k` of an image. Section F has room for words 0 to 255 of each cell (log entry 113). -/
def Image.chunk (i : Image) (k : Nat) : Nat :=
  if k = 0 then sectionChunk i.a 0
  else if k = 1 then sectionChunk i.b 0
  else if k < 4 then sectionChunk i.c (k - 2)
  else if k < 6 then sectionChunk i.d (k - 4)
  else if k < 646 then cellsChunk i.e (4096 * (k - 6))
  else if k < 8838 then
    packAt ((List.range 128).map fun w =>
      let n := 128 * (k - 646) + w
      (32 * w, tableGet i.f (512 * (n / 256) + n % 256) 0))
  else if k < 8902 then
    ((List.range 32768).map fun w => if i.g.contains (32768 * (k - 8838) + w) then 2 ^ w else 0).sum
  else
    let lo := 4096 * (k - 8902)
    packAt (i.h.filterMap fun c => if lo ≤ c.1 ∧ c.1 < lo + 4096 then some (c.1 - lo, c.2.toNat) else none)

/-- R351: whether an image holds chunk `k`: A to E always, F and G of a live cell store, H where an object is homed
there. -/
def chunkWritten (t : Task) (g k : Nat) : Bool :=
  decide (k < 646) || (decide (k < 8902) && t.record.live) || (decide (8902 ≤ k ∧ k < 10438) && !(t.scratchOf g).isEmpty)

/-- The sectors of chunk `k` of an image that carry poison. -/
def Image.spoilt (i : Image) (k : Nat) : List Nat :=
  i.hPoison.filterMap fun p => if 8902 + p / 128 = k then some (p % 128) else none

/-- R351, R376: the header of chunk `k`, as the save writes it. -/
def Image.header (i : Image) (tid : BitVec 32) (k : Nat) : Header :=
  { chunkId := BitVec.ofNat 64 (i.id.toNat * 2 ^ 24 + k), mark := touchmark 9 (i.chunk k), producer := tid, format := 9
    hops := 0, lastHop := 0, flags := if (i.spoilt k).isEmpty then 0 else 1, lost := false }

/-! ### The save area (R351) -/

/-- R351: the places of the sections that the image of member `g` has, from its first byte on. -/
def imageExtents (t : Task) (g b : Nat) : List (Nat × Nat) :=
  [(b, 646 * 4096)]
    ++ (if t.record.live then [(b + 646 * 4096, 8256 * 4096)] else [])
    ++ if (t.scratchOf g).isEmpty then [] else [(b + 8902 * 4096, 1536 * 4096)]

/-- R351, R376: one chunk is written, with the header that the save gives it. -/
def writeChunk (s : State) (tid : BitVec 32) (i : Image) (b k : Nat) : State :=
  let v := i.chunk k
  let bad := i.spoilt k
  let s := (List.range 128).foldl (fun s n =>
    writePhys s (b + 4096 * k + 32 * n) 32 (bits v (256 * n) 256) (bad.contains n)) s
  { s with headers := tableSet s.headers (b + 4096 * k) (i.header tid k) }

/-- R351: the image of member `g` is written from a byte of HBM on. -/
def writeImage (s : State) (t : Task) (g b : Nat) (i : Image) : State :=
  ((List.range 10438).filter (chunkWritten t g)).foldl (fun s k => writeChunk s t.tid i b k) s

/-- The extents of the list at `list`. -/
def extentList (s : State) (list : Nat) : Nat → List (Nat × Nat)
  | 0 => []
  | fuel + 1 =>
    let e := Memory.readN s.mem list 16
    (bits e 48 48, bits e 0 48) :: if e / 2 ^ 127 = 1 then [] else extentList s (list + 16) fuel

/-- The bytes of memory that objects of a port's table take, and those that pages are on their way to. -/
def takenRanges (s : State) : List (Nat × Nat) :=
  (objList s).flatMap (fun o =>
    let e := o.2.2
    if e.homeKind = 1 then []
    else if e.kind = 1 then e.scratch.getD (extentList s e.root 4096)
    else if e.kind = 2 then
      (List.range (ceilDiv e.size (2 ^ e.pageShift))).filterMap fun p =>
        match walkPage s e o.1 o.2.1 p false with
        | some d => if pageHere s o.1 o.2.1 p d then some (descBase d, 2 ^ e.pageShift) else none
        | none => none
    else [])
  ++ s.moves.map fun m => (m.target.toNat, 2 ^ 21)

/-- R351: whether the command processor may put `n` images from a byte of HBM on: it is in service there, and no object has
bytes among them (log entry 129). -/
def areaFree (s : State) (b n : Nat) : Bool :=
  let len := imageSpan * n
  decide (b % 65536 = 0 ∧ b + len ≤ 2 ^ 44) && physOk b && physOk (b + len - 1)
    && ((List.range (ceilDiv len 65536)).all fun k => homeReady s (b + 65536 * k) && !quarantinedAt s (b + 65536 * k))
    && (takenRanges s ++ takenRanges (swapPort s)).all fun r => decide (r.1 + r.2 ≤ b ∨ b + len ≤ r.1)

/-- R351: a task's images are written to its context's save area, which takes an object ID with its first. -/
def writeArea (s : State) (t : Task) (b : Nat) (is : List Image) : State :=
  let obj := match s.saveAreas.find? fun e => e.ctx = t.ctx with
    | some e => e.obj
    | none => BitVec.ofNat 24 (pickUnused (usedIds s t.ctx) (Config.objectId s.freeCtr) 0 (2 ^ 24 - 1))
  let bases := (List.range is.length).map fun g => b + imageSpan * g
  let new := (List.range is.length).flatMap fun g => imageExtents t g (b + imageSpan * g)
  let s := setArea (bump s) t.ctx obj (areaExtents s t.ctx obj ++ new)
  let s := ((List.range is.length).zip is).foldl (fun s m => writeImage s t m.1 (b + imageSpan * m.1) m.2) s
  { s with saveAreas := ⟨t.ctx, t.tid, obj, bases, is⟩ :: s.saveAreas }

/-- R351: an image as its chunks stand in memory. -/
def Image.read (s : State) (t : Task) (g b : Nat) (i : Image) : Image :=
  { i with
    a := bytesAt s b 4096, b := bytesAt s (b + 0x1000) 4096
    c := bytesAt s (b + 0x2000) 8192, d := bytesAt s (b + 0x4000) 8192
    e := (List.range 4096).map fun n => (n, bytesAt s (b + 0x6000 + 640 * n) 640)
    f := if t.record.live then
        ((List.range (2 ^ 20)).map fun n => (512 * (n / 256) + n % 256, bytesAt s (b + 0x286000 + 32 * n) 32))
          ++ i.f.filter fun e => decide (256 ≤ e.1 % 512)
      else []
    g := if t.record.live then
        (List.range (2 ^ 21)).filter fun n => (bytesAt s (b + 0x2286000 + n / 8) 1).testBit (n % 8)
      else []
    h := if (t.scratchOf g).isEmpty then []
      else (List.range (6 * 2 ^ 20)).map fun n => (n, BitVec.ofNat 8 (bytesAt s (b + 0x22C6000 + n) 1))
    hPoison := [] }

/-! ### Saving (R349, R350) -/

/-- R350: whether the feeder forms left are stalled and every write has landed. -/
def Feeder.quiet (f : Feeder) : Bool :=
  f.inbox.isEmpty && f.writes.isEmpty && match f.form with | some m => m.stalled | none => true

/-- R350: whether a parked member's steps, beats, forms and copies are complete. -/
def saveReady (s : State) (a : Fin 32) : Bool :=
  let x := getA s a
  decide (x.run = .parked ∨ x.run = .ended) && stepsDone s a && x.north.quiet && x.west.quiet
    && x.edgeCmds.isEmpty && x.captures.isEmpty && x.sorter.offers.isEmpty && !x.outstanding
    && (match x.edge with | none => true | some (.merge _ _ st) => st | some _ => false)
    && x.regPend.isEmpty && x.flagPend.isEmpty && x.sprints.isEmpty && copiesDone s a && !x.trapPending && !x.overdue

/-- R349: whether a task is to be saved. -/
def saveDue (s : State) (t : Task) : Bool :=
  cpReady s && decide (t.state = .running) && (t.preempt.isSome || t.switch) && t.arrs.all (saveReady s)
    && !t.arrs.all fun a => decide ((getA s a).run = .ended)

/-- R314, R315: an absence or presence of this package at a home that is this package; a token to another
package leaves it. -/
def noteAbsence (s : State) (t : Task) (absent : Bool) : State :=
  let note (d : DomainBarrier) : DomainBarrier :=
    if d.tid = t.tid ∧ d.home = s.pkgnum then
      let rest := d.absent.filter fun p => p != s.pkgnum
      if absent then { d with absent := rest ++ [s.pkgnum] }
      else { d with absent := rest, since := s.ptime }.settle s.ptime
    else d
  { s with domain := s.domain.map note }

/-- The key under which the headers of a saved member's scratch objects are kept. -/
def savedBase (tid : BitVec 32) (g : Nat) : Nat := 2 ^ 120 + (tid.toNat * 4 + g) * 2 ^ 23

/-- Move the headers of a member's SCRATCH banks to or from where a saved task's are kept. -/
def moveScratchHeaders (s : State) (a : Fin 32) (base : Nat) (out : Bool) : State :=
  let b := 16 + 2 * inCluster a
  let lo := bankByte a b 0
  let hi := bankByte a (b + 1) 0
  if out then rekeyHeaders (rekeyHeaders s lo base bankSize) hi (base + bankSize) bankSize
  else rekeyHeaders (rekeyHeaders s base lo bankSize) (base + bankSize) hi bankSize

/-- R351: the image ID that the command processor gives the image of member `g`, numbered with the tensor IDs. -/
def imageId (s : State) (g : Nat) : BitVec 40 :=
  BitVec.ofNat 40 (s.pkgnum.toNat * 2 ^ 30 + (s.nextSerial + g) % 2 ^ 30)

/-- R235, R351: the image of member `g`; of a tail that has gone back, that of a sequencer that has reached `TEND`. -/
def memberImage (s : State) (t : Task) (g : Nat) : Image :=
  match t.arrs.find? fun a => (getA s a).grpIdx = g with
  | some a => takeImage s t (imageId s g) g a
  | none =>
    let x : Arr := { Arr.start with run := .ended, ending := some 0, kind := .freed, grpIdx := g }
    ⟨imageId s g, x.sectionA, 0, 0, 0, [], [], [], [], [], x⟩

/-- R350: every member is parked: the task's images are written, from a byte of HBM that the command processor chooses, and
its arrays given up. Its pins are kept. -/
def execTaskSave : BitVec 32 × BitVec 48 → State → Answer
  | (tid, place), s =>
    match taskFind s tid with
    | none => .next s
    | some t =>
      if saveDue s t && areaFree s place.toNat t.record.arrays then
        let images := (List.range t.record.arrays).map (memberImage s t)
        let s := t.arrs.foldl (fun s a =>
          let g := (getA s a).grpIdx
          if (t.scratchOf g).isEmpty then s else moveScratchHeaders s a (savedBase tid g) true) s
        let s := writeArea (dropImages s t) t place.toNat images
        let s := freeTaskArrs (noteAbsence (endHoldings s t false) t true) t.arrs
        let gone (l : SyncLine) : SyncLine :=
          { l with members := l.members.filter fun a => !t.arrs.contains a }
        let s := { s with lines := s.lines.map gone, nextSerial := s.nextSerial + images.length }
        .next (updT s tid fun t => { t with state := .saved, arrs := [], preempt := none })
      else .next s

/-! ### Reading an image (R354) -/

/-- R242, R354: the bank that stands, in a placement on the arrays `l`, for a bank of member `g` in its old group: the one
with the same place among the banks of the same member. -/
def movedBank (old l : List (Fin 32)) (g : Nat) (n : Fin 32) : Fin 32 :=
  let mine (b : Fin 32) : Bool :=
    decide (clusterOf b = clusterOf (old.getD g 0) ∧ inCluster b = n.val % 8 / 2)
  match if 16 ≤ n.val then old.findIdx? mine else none with
  | some k => finOf 31 (n.val / 8 * 8 + 2 * inCluster (l.getD k 0) + n.val % 2)
  | none => n

/-- R352: stream `q` from sections A and B, with its buffer in the banks of the new placement (R242); it refetches from
its position (R241). -/
def unpackStream (i : Image) (l : List (Fin 32)) (g : Nat) (q : Fin 16) : Stream :=
  let n := byteFld i.a (1024 + 64 * q.val) 0 512
  let old := i.rest.streams[q]
  match StreamMode.ofCode (bits n 480 3) with
  | .unbound => Stream.unbound
  | m =>
    let d := readDesc (n % 2 ^ 448)
    { mode := m, desc := { d with bank := movedBank i.rest.group l g d.bank }, cap := Cap.unpackHeld (byteFld i.b (512 + 16 * q.val) 0 128)
      reg := old.reg, seed := w64 (byteFld i.a (2048 + 32 * q.val) 0 64)
      step := w64 (byteFld i.a (2056 + 32 * q.val) 0 64)
      pos := old.pos / 2 ^ 32 * 2 ^ 32 + bits n 448 32, buf := [], held := [], gate := i.rest.nextId }

/-- R352: the sequencer registers of an image. -/
def unpackRegs (i : Image) : SeqRegs :=
  let a (off w : Nat) : Nat := byteFld i.a off 0 w
  { s := Vector.ofFn fun k => if k = 0 then 0 else w64 (a (8 * k.val) 64)
    p := Vector.ofFn fun k => decide (k ≠ 0) && (a 256 8).testBit k.val
    h := Vector.ofFn fun k =>
      Cap.unpack (byteFld i.b (16 * k.val) 0 128) ((byteFld i.b 256 0 16).testBit k.val)
    m := Vector.ofFn fun k => w64 (a (264 + 8 * k.val) 64)
    l := Vector.ofFn fun k =>
      let o := 328 + 16 * k.val
      ⟨BitVec.ofNat 32 (a o 32), BitVec.ofNat 48 (byteFld i.a o 32 48), BitVec.ofNat 48 (byteFld i.a o 80 48)⟩
    ret := (List.range (byteFld i.a 0 12 4)).map fun k => BitVec.ofNat 48 (a (392 + 8 * k) 48)
    pc := BitVec.ofNat 48 (a 456 48), xpc := BitVec.ofNat 48 (a 464 48), xnpc := BitVec.ofNat 48 (a 472 48)
    xsw := w64 (a 480 64), nseed := w64 (a 504 64), nstep := w64 (a 512 64), rsw := w64 (a 520 64)
    travel := decide (byteFld i.a 0 11 1 = 1), orow := BitVec.ofNat 32 (a 528 32)
    ocol := BitVec.ofNat 32 (a 532 32), dthr := BitVec.ofNat 24 (a 536 24), nflg := BitVec.ofNat 32 (a 540 32)
    nctl := BitVec.ofNat 32 (a 544 32), dscl := BitVec.ofNat 32 (a 548 32) }

/-- R30, R211, R352: a feeder from section C; a stalled form goes on from its next beat. -/
def unpackFeeder (i : Image) (west : Bool) : Feeder :=
  let o := if west then 2048 else 0
  let t := if west then 4352 else 4096
  let old := if west then i.rest.west else i.rest.north
  let tags := Vector.ofFn fun k : Fin 64 => BitVec.ofNat 16 (byteFld i.c (t + 4 * k.val) 0 16)
  let next := BitVec.ofNat 16 (byteFld i.a (if west then 568 else 564) 0 16)
  { regs := Vector.ofFn fun k => ⟨BitVec.ofNat 256 (byteFld i.c (o + 32 * k.val) 0 256),
      decide (byteFld i.c (t + 4 * k.val) 16 1 = 1)⟩
    tags := tags
    implied := match old.form with
      | none => tags
      | some _ => old.implied
    rot := BitVec.ofNat 6 (byteFld i.c (if west then 4609 else 4608) 0 6)
    next := next
    impliedNext := match old.form with
      | none => next
      | some _ => old.impliedNext
    form := old.form, inbox := [], writes := []
    impliedWrites := match old.form with
      | none => []
      | some _ => old.impliedWrites }

/-- R352: the sorter from section C. -/
def unpackSorter (i : Image) : Sorter :=
  { k := byteFld i.c 4612 0 8 + 1, fmt := Fmt.ofCode (byteFld i.c 4612 8 4)
    low := decide (byteFld i.c 4612 12 1 = 1)
    list := (List.range i.rest.sorter.list.length).map fun p =>
      (BitVec.ofNat 32 (byteFld i.c (4616 + 8 * p) 0 32), BitVec.ofNat 32 (byteFld i.c (4620 + 8 * p) 0 32))
    poison := decide (byteFld i.c 4612 13 1 = 1), offers := [] }

/-- R219, R352: the merge that `EDGEPOS` shows. -/
def unpackEdge (i : Image) : Option EdgeForm :=
  if byteFld i.a 572 31 1 = 1 then
    some (.merge (finOf 15 (byteFld i.a 572 20 4)) (byteFld i.a 572 24 7) true)
  else none

/-- R352: a tongs context from sections B and C. -/
def unpackTongs (i : Image) (e : Nat) (sched : List (Nat × Nat)) : Tongs :=
  let o := 7168 + 256 * e
  let p := 1024 + 128 * e
  let cap (k : Nat) : Cap := Cap.unpackHeld (byteFld i.b (p + 16 * k) 0 128)
  let block := byteFld i.c o 0 512
  let timeline := byteFld i.c (o + 80) 0 64
  { active := none, shadow := Shadow.ofCode (byteFld i.c (o + 64) 0 2), order := []
    block := if block % 16 = 0 then none else some ⟨BitVec.ofNat 512 block, cap 0, cap 1, cap 2⟩
    armed := decide (byteFld i.c (o + 72) 0 64 ≠ 0), lastOp := timeline, timeline := w64 timeline
    schedule := if byteFld i.c (o + 90) 0 8 = 1 then some sched else none
    schedIdx := byteFld i.c (o + 88) 0 8, released := byteFld i.c (o + 89) 0 8, ring := cap 3
    ringOff := byteFld i.c (o + 96) 0 64, ringEntries := byteFld i.c (o + 104) 0 64, cache := [] }

/-- R352: barrier object `k` from section D; an arrival that was on its way stays so (R314). -/
def unpackBarrier (i : Image) (k : Nat) : Barrier :=
  let n := byteFld i.d (64 * k) 0 512
  let b : Barrier :=
    { exp := bits n 0 17, next := bits n 17 17, arr := bits n 34 17, tx := signed (n / 2 ^ 51) 41
      ph := BitVec.ofNat 32 (bits n 92 32), dropped := BitVec.ofNat 4 (bits n 124 4)
      lastPh := Vector.ofFn fun g =>
        if bits n (160 + 33 * g.val) 1 = 1 then some (BitVec.ofNat 32 (bits n (128 + 33 * g.val) 32)) else none
      sent := false }
  { b with sent := b.full }

/-- R13, R353: a cell from section E; its tiles and checkpoint tiles are at their task-start values. -/
def unpackCell (n : Nat) : Cell :=
  let c := Cell.start
  let poison := byteFld n 588 0 18
  { c with
    f := Vector.ofFn fun k => ⟨BitVec.ofNat 256 (byteFld n (32 * k.val) 0 256), poison.testBit k.val⟩
    h := ⟨BitVec.ofNat 256 (byteFld n 512 0 256), poison.testBit 16⟩
    v := ⟨BitVec.ofNat 256 (byteFld n 544 0 256), poison.testBit 17⟩
    k := Vector.ofFn fun k => BitVec.ofNat 9 (byteFld n (576 + 2 * k.val) 0 9)
    g := BitVec.ofNat 4 (byteFld n 584 0 4) }

/-- R351: one word of sections F and G put into the cells of an image. -/
def putStoreWord (i : Image) (t : List (Nat × Cell)) (k : Nat) : List (Nat × Cell) :=
  tableSet t (k / 512) ((tableGet t (k / 512) Cell.start).putWord (k % 512)
    ⟨BitVec.ofNat 256 (tableGet i.f k 0), i.g.contains k⟩)

/-- R13, R353, R354: the cells of an image. A store not declared live is undefined: its words are free. -/
def unpackCells (s : State) (i : Image) (a : Fin 32) (live : Bool) : List (Nat × Cell) :=
  let t := i.e.map fun e => (e.1, unpackCell e.2)
  if live then
    let t := i.f.foldl (fun t e => putStoreWord i t e.1) t
    i.g.foldl (fun t k => putStoreWord i t k) t
  else (List.range 4096).map fun k =>
    (k, { tableGet t k Cell.start with lost := some (s.freeCtr, 4096 * a.val + k) })

/-- R12, R119, R354: array `a` as member `g` of a task that resumes on a list of arrays. The steps before the save have
completed; their selector words stay those of R24. The setting of `SC.CHAIN`, for which R352 has no place, is that of the
array that parked (DESIGN CHOICE, log entry 116). -/
def resumeArr (s : State) (t : Task) (l : List (Fin 32)) (g : Nat) (a : Fin 32) (i : Image) : Arr :=
  let x := Arr.start
  let old := i.rest
  let regs := unpackRegs i
  let cells := unpackCells s i a t.record.live
  let streams := Vector.ofFn fun q => unpackStream i l g q
  let now (b : Fin 32) : Fin 32 := l.getD (old.group.idxOf b) b
  let back (f : Feeder) : Feeder := { f with form := f.form.map fun m => { m with owner := now m.owner } }
  let pop (e : QEntry) : QEntry :=
    match e.op with
    | .pop b w => { e with op := .pop (now b) w }
    | _ => e
  let held (e : PendingReposition) : PendingReposition :=
    { e with holds := e.holds.map fun h => (now h.1, h.2) }
  { x with
    task := t.tid, ctx := t.ctx, grpIdx := g, group := l, kind := old.kind
    prog := Cap.unpackHeld (byteFld i.b 768 0 128)
    run := if old.run = .ended then .ended else .boundary
    ending := old.ending, due := w64 (byteFld i.a 456 0 64), regs := regs, snap := regs
    acnt := byteFld i.a 488 0 64, fcnt := byteFld i.a 496 0 64
    retIv := BitVec.ofNat 32 t.record.interval, retLeft := BitVec.ofNat 32 (byteFld i.a 556 0 32)
    phNum := BitVec.ofNat 32 (byteFld i.a 552 0 32), phDirty := false, cancels := old.cancels
    clease := BitVec.ofNat 21 (byteFld i.a 560 0 21), scChain := old.scChain
    streams := streams, reposition := old.reposition.map held
    north := back (unpackFeeder i false), west := back (unpackFeeder i true)
    sorter := unpackSorter i, edge := unpackEdge i
    steps := old.steps.map fun w => { w with op := none, phase := false }
    cells := cells, prev := cells, queue := old.queue.map pop, nextId := old.nextId
    sq := w64 (byteFld i.d 4096 0 64)
    point := {
      entry := BitVec.ofNat 48 (byteFld i.a 456 0 48), streams := streams.map Stream.point
      tongs := Vector.ofFn fun e : Fin 4 =>
        let u := unpackTongs i e.val []
        ⟨u.released, u.shadow, u.block⟩
      firstEntry := old.nextId } }

/-- R178, R352, R354: the banks of the new placement take the roles and views of the image. -/
def restoreRoles (s : State) (a : Fin 32) (i : Image) : State :=
  (List.range 4).foldl (fun s k =>
    let n := (banksOf (inCluster a)).getD k 0
    let v := byteFld i.d (4104 + k) 0 8
    let r := Role.ofCode (v % 4)
    let w := View.ofCode (v / 4 % 4)
    if vget s.clusters[clusterOf a].banks n.val = ⟨r, w⟩ then s else setRole s (clusterOf a) n r w) s

/-- R354: load the image of member `g` onto array `a`. -/
def loadImage (s : State) (t : Task) (l : List (Fin 32)) (g : Nat) (a : Fin 32) (i : Image) : State :=
  let s := restoreRoles s a i
  let s := if (t.scratchOf g).isEmpty then s
    else
      let s := layScratch (putScratch s a ⟨i.h, i.hPoison⟩) t.ctx a 0 (t.scratchOf g)
      moveScratchHeaders s a (savedBase t.tid g) false
  let s := if i.rest.kind = .cluster ∨ g = 0 then
      (List.range 64).foldl (fun s k =>
        barrierPut s (clusterOf a, 64 * inCluster a + k) (unpackBarrier i k)) s
    else s
  let s := (List.range 4).foldl (fun s e =>
    putTongs s (clusterOf a) (4 * e + inCluster a) (unpackTongs i e (t.record.schedule (4 * e + g)))) s
  setA s a (resumeArr s t l g a i)

/-! ### Verification (R354) -/

/-- The bits that the fields of a record take, by byte, bit and width. -/
def fieldMask (l : List (Nat × Nat × Nat)) : Nat := (l.map fun e => (2 ^ e.2.2 - 1) * 2 ^ (8 * e.1 + e.2.1)).sum

/-- R149, R352: the bits of a saved stream that have a meaning. -/
def streamFields (o : Nat) : List (Nat × Nat × Nat) :=
  [(o, 0, 48), (o, 98, 15), (o, 128, 17), (o, 192, 48), (o, 256, 48), (o, 320, 48), (o, 384, 48), (o, 448, 35)]

/-- R352, R353: the bits of chunk `k` of an image that are not reserved. Sections F to H have no reserved bits. -/
def chunkFields (k : Nat) : Nat :=
  if k = 0 then
    fieldMask ([(0, 0, 16), (8, 0, 1984), (256, 0, 8), (264, 0, 1024)]
      ++ (List.range 8).map (fun n => (392 + 8 * n, 0, 48)) ++ [(456, 0, 960)]
      ++ (List.range 16).flatMap (fun n => streamFields (1024 + 64 * n))
      ++ (List.range 16).map fun n => (2048 + 32 * n, 0, 128))
  else if k = 1 then
    fieldMask ([(0, 0, 2064), (512, 0, 2176)] ++ (List.range 4).map fun e => (1024 + 128 * e, 0, 512))
  else if k = 2 then 2 ^ 32768 - 1
  else if k = 3 then
    fieldMask ((List.range 128).map (fun n => (4 * n, 0, 17)) ++ [(512, 0, 6), (513, 0, 6), (516, 0, 14), (520, 0, 16384)]
      ++ (List.range 4).flatMap fun e =>
        let o := 3072 + 256 * e
        [(o, 0, 512), (o + 64, 0, 2), (o + 72, 0, 144), (o + 90, 0, 1), (o + 96, 0, 128)])
  else if k = 4 then fieldMask ((List.range 64).map fun n => (64 * n, 0, 260))
  else if k = 5 then fieldMask [(0, 0, 64), (8, 0, 4), (9, 0, 4), (10, 0, 4), (11, 0, 4)]
  else if k < 646 then
    let lo := 4096 * (k - 6)
    let cell := fieldMask ([(0, 0, 4608), (584, 0, 4), (588, 0, 18)] ++ (List.range 4).map fun n => (576 + 2 * n, 0, 9))
    cellsChunk ((List.range 9).map fun n => (lo / 640 + n, cell)) lo
  else 2 ^ 32768 - 1

/-! ### Restoring (R354) -/

/-- R354: the fault of a chunk that its read leaves with a payload and a header: its touchmark, then its header. -/
def verifyRead (i : Image) (tid : BitVec 32) (k payload header : Nat) : Option RestoreFault :=
  let h := i.header tid k
  let fault (kind : BitVec 8) (seen : BitVec 64) : Option RestoreFault :=
    some ⟨h.chunkId, kind, BitVec.ofNat 64 (header / 2 ^ 64), seen⟩
  let seen := touchmark 9 payload
  if BitVec.ofNat 64 (header / 2 ^ 64) ≠ seen then fault 2 seen
  else if header ≠ h.pack - h.mark.toNat * 2 ^ 64 + bits header 64 64 * 2 ^ 64 then fault 3 seen
  else if payload &&& chunkFields k ≠ payload then fault 3 seen
  else none

/-- R354, R383: the fault that a pass of a restore finds as it reads chunk `k` of member `g`, with what an error of the read
makes of it: a poisoned sector or a header with an error is found by its ECC, then the touchmark and the header are checked. -/
def readFault (s : State) (t : Task) (g b : Nat) (i : Image) (k : Nat) (f : Option ImageFlaw) : Option RestoreFault :=
  let l := (List.range 128).map fun n => b + 4096 * k + 32 * n
  let h := (headerNow s (b + 4096 * k)).getD (i.header t.tid k)
  if !chunkWritten t g k then none
  else if sectorsPoisoned s l || h.lost then some ⟨h.chunkId, 1, h.mark, 0⟩
  else match f with
    | none => verifyRead i t.tid k (sectorBytes s l) h.pack
    | some .uncorrectable => some ⟨h.chunkId, 1, h.mark, 0⟩
    | some (.payload x) => verifyRead i t.tid k (sectorBytes s l ^^^ x.toNat) h.pack
    | some (.header x) => verifyRead i t.tid k (sectorBytes s l) (h.pack ^^^ x.toNat)

/-- R354: the fault that a restore of a task meets, if any: in either pass, chunk by chunk. `errors`: what the reads meet. -/
def restoreFault (s : State) (t : Task) (r : SaveArea) (errors : List ImageError) : Option RestoreFault :=
  let pass (inLoad : Bool) : Option RestoreFault :=
    ((List.range r.images.length).zip (r.bases.zip r.images)).findSome? fun m =>
      (List.range 10438).findSome? fun k =>
        readFault s t m.1 m.2.1 m.2.2 k ((errors.find? fun e =>
          decide (e.member.val = m.1 ∧ e.chunk = k ∧ e.inLoad = inLoad)).map fun e => e.flaw)
  (pass false).or (pass true)

/-- R344, R354: a restore fault: the context is lost with subcause 3. Nothing of it stays in an array, and its save area
is kept. -/
def restoreFail (s : State) (t : Task) (f : RestoreFault) : State :=
  fatalContext s t.ctx
    { subcause := 3, agent := 5, obj := 0, offset := f.expected, array := none, xsw := f.observed, pc := 0
      tid := t.tid, chunk := f.chunk, kind := f.kind }

/-- R354: every member's image is loaded onto its array of a placement. -/
def loadImages (s : State) (t : Task) (l : List (Fin 32)) (is : List Image) : State :=
  ((numbered l).zip is).foldl (fun s m => loadImage s t l m.1.1 m.1.2 m.2) (bump (prepare s t l))

/-- R315, R354: a SAVED task is restored onto a new placement, unless its images do not verify. `errors`: what the reads of
the two passes find wrong. -/
def execTaskRestore (tid : BitVec 32) (l : List (Fin 32)) (errors : List ImageError) (s : State) : Answer :=
  match taskFind s tid with
  | none => .next s
  | some t =>
    if t.state = .saved ∧ placeOk s tid l = true then
      match areaOf s t with
      | none => .next s
      | some r =>
        match restoreFault s t r errors with
        | some f => .next (restoreFail s t f)
        | none =>
          let is := ((List.range r.images.length).zip (r.bases.zip r.images)).map fun m => m.2.2.read s t m.1 m.2.1
          .next (notePlaced (noteAbsence (dropImages (loadImages s t l is) t) t false) t l)
    else .next s

end Sys2Proof.Machine
end

