-- ==== Sys2Proof/Machine/Power.lean ====
section
/-! DEFINITION. The power governor, standing leave, bellows leases, the slack tub and its alarms (R122, R123,
R316 to R318, R330, R355 to R360, R401). -/

namespace Sys2Proof.Machine

/-! ### The budget (R316, R358) -/

/-- R316: the amperes that standing leave of a class reserves at a level. -/
def reserve (cls level : Nat) : Nat :=
  match cls, level with
  | 0, 0 => 16 | 0, 1 => 20 | 0, 2 => 23 | 0, _ => 27
  | 1, 0 => 44 | 1, 1 => 55 | 1, 2 => 64 | 1, _ => 75
  | _, 0 => 68 | _, 1 => 85 | _, 2 => 99 | _, _ => 115

/-- R358: the voltage of a level, in hundredths of a volt. -/
def volt (level : Nat) : Nat :=
  match level with | 0 => 55 | 1 => 60 | 2 => 64 | _ => 68

/-- R356: the level of a cluster, from the leases that cover it. -/
def levelOf (ls : List Lease) (c : Fin 8) : Nat :=
  (ls.filter fun l => l.clusters.contains c).foldl (fun n l => max n l.level.toNat) 0

/-- What the governor counts: the class of leave claimed by each array, the levels and the ceilings. -/
structure Budget where
  claims : List (Fin 32 × Nat)
  leases : List Lease
  ceil : Vector Nat 4
  deriving DecidableEq, Repr

/-- R358: amperes reserved on a die. -/
def Budget.amps (b : Budget) (d : Fin 4) : Nat :=
  ((b.claims.filter fun c => dieOf c.1 = d).map fun c =>
    reserve c.2 (levelOf b.leases (clusterOf c.1))).sum

/-- R358: P in hundredths of a watt, with every stack's allotment at `hbm`. -/
def Budget.watts (b : Budget) (hbm : Nat) : Nat :=
  (b.claims.map fun c =>
    let l := levelOf b.leases (clusterOf c.1)
    reserve c.2 l * volt l).sum + 16 * hbm + 35000

/-- R358: the power limit in hundredths of a watt. No lease stands in a refreeze interval (R357). -/
def Budget.limit (b : Budget) : Nat := if b.leases.isEmpty then 200000 else 330000

/-- R358: whether the constraints hold with each allotment at its floor. -/
def Budget.holds (b : Budget) : Bool :=
  ((List.finRange 4).all fun d => decide (b.amps d ≤ b.ceil[d])) && decide (b.ceil.toList.sum ≤ 4000)
    && decide (b.watts 1400 ≤ b.limit)

/-- R317: the class that an array claims: its standing leave, and what dies have reserved for it. -/
def claimOf (s : State) (a : Fin 32) : Option Nat :=
  let x := getA s a
  let now := if x.leaveLeft = 0 then [] else [x.leaveClass.toNat]
  let held := (s.power.requests.filter fun r => r.arrs.contains a && r.reserved.contains (dieOf a)).map
    fun r => r.cls.toNat
  (now ++ held).foldl (fun m c => some (match m with | some k => max k c | none => c)) none

/-- The claims that stand. -/
def claims (s : State) : List (Fin 32 × Nat) :=
  (List.finRange 32).filterMap fun a => (claimOf s a).map fun c => (a, c)

/-- The budget as it stands. -/
def budget (s : State) : Budget := ⟨claims s, s.power.leases, s.power.ceil⟩

/-- R317: the budget with a request's arrays on die `d` claimed: a grant replaces the leave that stands, and
a chain's leave stands until the last die has reserved. -/
def budgetWith (s : State) (r : LeaveReq) (d : Fin 4) : Budget :=
  let mine := r.arrs.filter fun a => dieOf a = d
  let single := r.arrs.all fun a => dieOf a = d
  let cls (a : Fin 32) : Nat := match claimOf s a with
    | some c => if single then r.cls.toNat else max c r.cls.toNat
    | none => r.cls.toNat
  let others := (claims s).filter fun c => !mine.contains c.1
  ⟨others ++ mine.map fun a => (a, cls a), s.power.leases, s.power.ceil⟩

/-- R318: the budget with a request's leave the only one on its dies. -/
def budgetAlone (s : State) (r : LeaveReq) : Budget :=
  let dies := r.arrs.map dieOf
  ⟨((claims s).filter fun c => !dies.contains (dieOf c.1)) ++ r.arrs.map fun a => (a, r.cls.toNat),
    s.power.leases, s.power.ceil⟩

/-- R359: every allotment nominal, or lowered equally as far as P needs, never below the floor. -/
def settleHbm (s : State) : State :=
  let b := budget s
  let excess := b.watts 2800 - b.limit
  let h := max 1400 (2800 - ceilDiv excess 16)
  { s with power := { s.power with hbm := Vector.replicate 16 h } }

/-! ### Leases that end (R330, R356) -/

/-- R330: bits [63:16] of the lease-expiry trap's status word. -/
def leaseDetail (s : State) (l : Lease) (reason : Nat) : Nat :=
  (if reason = 0 then 0 else l.left s.ptime % 2 ^ 14) + reason * 2 ^ 14 + l.level.toNat * 2 ^ 16
    + s.power.melt.toNat * 2 ^ 18

/-- R330, R356: a lease ends with the trap to every sequencer of the task that holds it. -/
def endLease (s : State) (l : Lease) (reason : Nat) : State :=
  let d := leaseDetail s l reason
  let as := match taskFind s l.tid with
    | some t => t.arrs.filter fun a => (getA s a).run != .off
    | none => []
  let s := { s with power := { s.power with leases := s.power.leases.filter fun m => m.tid != l.tid } }
  updAll s as fun x => x.raise .leaseExpiry d

/-- The youngest lease that covers a cluster of some dies. -/
def youngest (ls : List Lease) (dies : List (Fin 4)) : Option Lease :=
  (ls.filter fun l => l.clusters.any fun c => dies.any fun d => decide (c.val / 2 = d.val)).foldl
    (fun m l => match m with
      | some k => if k.start ≤ l.start then some l else some k
      | none => some l) none

/-- R318, R360: revoke leases that cover clusters of some dies, youngest first and with reason 2, until a
condition holds. -/
def revokeUntil (s : State) (dies : List (Fin 4)) (ok : State → Bool) : Nat → State
  | 0 => s
  | n + 1 =>
    if ok s then s
    else match youngest s.power.leases dies with
      | some l => revokeUntil (endLease s l 2) dies ok n
      | none => s

/-- R398: whether the governor and slack-tub controller are in service. -/
def governorReady (s : State) : Bool := inService s 46

/-! ### Leave (R122, R317, R318) -/

/-- R317: the request that die `d` is to reserve next. -/
def nextRequest (s : State) (d : Fin 4) : Option LeaveReq :=
  s.power.requests.find? fun r => (r.arrs.any fun a => dieOf a = d) && !r.reserved.contains d

/-- R317: whether every die of a request has reserved it. -/
def LeaveReq.complete (r : LeaveReq) : Bool := r.arrs.all fun a => r.reserved.contains (dieOf a)

/-- R122, R317: die `d` reserves a request; the last die's reservation starts the leave. -/
def reserveLeave (s : State) (r : LeaveReq) (d : Fin 4) : State :=
  let r' : LeaveReq := { r with reserved := d :: r.reserved }
  if r'.complete then
    let s := { s with power := { s.power with
      requests := s.power.requests.filter fun q => q.number != r.number } }
    settleHbm (updAll s r.arrs fun x => { x with leaveClass := r.cls, leaveLeft := r.cycles })
  else
    let put (q : LeaveReq) : LeaveReq := if q.number = r.number then r' else q
    { s with power := { s.power with requests := s.power.requests.map put } }

/-- R317, R318: the governor of a die grants the request at the head of its order where the budget allows;
one that would not fit alone has leases revoked until it would. -/
def execLeaveGrant (d : Fin 4) (s : State) : Answer :=
  match nextRequest s d with
  | none => .next s
  | some r =>
    if governorReady s then
      let s := revokeUntil s (r.arrs.map dieOf) (fun s => (budgetAlone s r).holds) s.power.leases.length
      .next (if (budgetWith s r d).holds then reserveLeave s r d else s)
    else .next s

/-- R122: a leave whose cycles have run out stands no longer, and the governor counts it no more. -/
def execLeaveExpiry (a : Fin 32) (s : State) : Answer :=
  if (getA s a).leaveLeft = 0 then .next (settleHbm (updA s a fun x => { x with leaveClass := 0 }))
  else .next s

/-! ### Sprints (R123, R356, R358) -/

/-- R123: the clusters that a lease of an array's task covers. -/
def sprintClusters (s : State) (a : Fin 32) : List (Fin 8) :=
  if (getA s a).kind = .chain then (members s a).map clusterOf else [clusterOf a]

/-- R358: the projected melt of a lease of `ms` milliseconds. -/
def projectedMelt (s : State) (b : Budget) (ms : Nat) : Nat :=
  let p := if b.watts 2800 ≤ 330000 then b.watts 2800 else max 330000 (b.watts 1400)
  s.power.melt.toNat + ceilDiv (1024 * (p - 200000) * ms) 5200000000

/-- R123, R357, R358: whether the controller grants a lease. -/
def sprintOk (s : State) (a : Fin 32) (l : Lease) : Bool :=
  let b : Budget := ⟨claims s, l :: s.power.leases.filter fun m => m.tid != (getA s a).task, s.power.ceil⟩
  governorReady s && s.power.refreeze.isNone && b.holds && decide (projectedMelt s b l.ms ≤ 1000)

/-- R123: the answer to the first `SPRINT` outstanding lands in its predicate; a grant replaces any lease that the task holds. -/
def execSprintAnswer (a : Fin 32) (s : State) : Answer :=
  match (getA s a).sprints with
  | [] => .next s
  | t :: _ =>
    let l : Lease := ⟨(getA s a).task, sprintClusters s a, t.level, s.ptime, t.ms.toNat⟩
    let ok := sprintOk s a l
    let s := updA s a fun x => x.landSprint ok
    if ok then
      .next (settleHbm { s with power := { s.power with
        leases := s.power.leases.filter (fun m => m.tid != l.tid) ++ [l] } })
    else .next s

/-- R356: every cluster whose level has changed switches its clock on one tick. -/
def execClockLevelChange (s : State) : Answer :=
  .next { s with clusters := Vector.ofFn fun c : Fin 8 =>
    { s.clusters[c] with level := BitVec.ofNat 2 (levelOf s.power.leases c) } }

/-- R356: a lease's time has run out. -/
def execBellowsLeaseExpiry (tid : BitVec 32) (s : State) : Answer :=
  match leaseOf s tid with
  | some l => .next (if l.start + l.ms * 1000000 ≤ s.ptime then settleHbm (endLease s l 0) else s)
  | none => .next s

/-! ### The slack tub (R355, R357) -/

/-- R357: the refreeze interval begins, and every lease is revoked with reason 1. -/
def startRefreeze (s : State) : State :=
  if s.power.refreeze.isSome then s
  else
    let s := s.power.leases.foldl (fun s l => endLease s l 1) s
    settleHbm { s with power := { s.power with refreeze := some s.ptime } }

/-- R355: a unit of `MELT` in microjoules. -/
def meltUnit : Int := 50781250

/-- R355: `MELT` after 100 µs at a package power, with the lid sensors' correction. -/
def Power.melted (p : Power) (watts : Nat) (correction : Int) : Power :=
  let acc := p.meltAcc + ((watts : Int) - 2000) * 100
  let m := (p.melt.toNat : Int) + acc / meltUnit + max (-8) (min 8 correction)
  if m < 0 then { p with melt := 0, meltAcc := 0 }
  else if 1023 < m then { p with melt := 1023, meltAcc := 0 }
  else { p with melt := BitVec.ofNat 10 m.toNat, meltAcc := acc % meltUnit }

/-- R355, R357: the controller updates `MELT`; at 1,000 the refreeze interval begins. -/
def execMeltUpdate (watts : Nat) (correction : Int) (s : State) : Answer :=
  let s := { s with power := s.power.melted watts correction }
  .next (if 1000 ≤ s.power.melt.toNat then startRefreeze s else s)

/-- R357: whether a condition that forces the refreeze interval holds. -/
def Power.forced (p : Power) : Bool := (p.lid.toList.any fun c => decide (75 ≤ c)) || decide (p.flow < 25)

/-- R357: the refreeze interval ends once its three conditions hold. -/
def execRefreezeEnd (s : State) : Answer :=
  match s.power.refreeze with
  | none => .next s
  | some t =>
    if s.power.melt.toNat ≤ s.refthr.toNat ∧ t + 20000000000 ≤ s.ptime ∧ s.power.forced = false then
      .next { s with power := { s.power with refreeze := none } }
    else .next s

/-! ### Alarms (R360, R392, R395, R401) -/

/-- R392, R395: a bit of `ALARM` is set and vector 66 is raised. -/
def setAlarm (s : State) (bit : Nat) : State :=
  { s with alarm := s.alarm ||| BitVec.ofNat 32 (2 ^ bit), msix := 66 :: s.msix }

/-- R360: an alarm lowers a die's ceiling, never below 544 A, and leases are revoked until what is reserved
fits. -/
def lowerCeil (s : State) (d : Fin 4) (c : Nat) : State :=
  let s := { s with power := { s.power with ceil := s.power.ceil.set d (max 544 (min s.power.ceil[d] c)) } }
  settleHbm (revokeUntil s [d] (fun s => decide ((budget s).amps d ≤ s.power.ceil[d]))
    s.power.leases.length)

/-- R360, R401: a rail alarm of a die, with what its current sensor reads. -/
def execRailAlarm (d : Fin 4) : Nat × Nat → State → Answer
  | (c, amps), s =>
    let s := { s with power := { s.power with current := s.power.current.set d amps } }
    .next (lowerCeil (setAlarm s 0) d c)

/-- R357, R401: the coolant flow as its sensor reads it; a flow below 2.5 L/min raises the alarm and forces
the refreeze interval. -/
def execCoolantFlowAlarm (dl : Nat) (s : State) : Answer :=
  let s := { s with power := { s.power with flow := dl } }
  .next (if dl < 25 then startRefreeze (setAlarm s 2) else s)

/-- R357, R392: a lid sensor's reading; 75 °C or more raises the alarm and forces the refreeze interval. -/
def execLidSensorAlarm (k : Fin 8) (c : Nat) (s : State) : Answer :=
  let s := { s with power := { s.power with lid := s.power.lid.set k c } }
  .next (if 75 ≤ c then startRefreeze (setAlarm s 1) else s)

/-- R401: power is removed from the package, and the host sees the UCIe link go down. -/
def removePower (s : State) : State :=
  { s with powered := false, ucie := 0, ready := s.ready &&& ~~~(BitVec.ofNat 64 (255 * 2 ^ 48)) }

/-- R360, R401: a die junction's reading; 105 °C raises the alarm and lowers the ceiling, by what the alarm asks and by an
ampere at least, 120 °C removes power from the package. -/
def execJunctionAlarm (d : Fin 4) (c ceiling : Nat) (s : State) : Answer :=
  if c < 105 then .next s
  else
    let s := lowerCeil (setAlarm s 3) d (min ceiling (s.power.ceil[d] - 1))
    .next (if 120 ≤ c then removePower s else s)

end Sys2Proof.Machine
end

