-- ==== Sys2Proof/Machine/Domain.lean ====
section
/-! DEFINITION. Domain barriers (R314, R315): the home's count of packages, the completion at the local
object, absences and the timeout. -/

namespace Sys2Proof.Machine

/-- The domain barrier of an ID. -/
def domainFind (s : State) (id : BitVec 24) : Option DomainBarrier := s.domain.find? fun d => d.id = id

/-- Change a domain barrier. -/
def updD (s : State) (id : BitVec 24) (f : DomainBarrier → DomainBarrier) : State :=
  { s with domain := s.domain.map fun d => if d.id = id then f d else d }

/-- R314: the place of the local object of a domain barrier, where its member task is placed. -/
def localOf (s : State) (d : DomainBarrier) : Option (Fin 8 × Nat) :=
  match taskFind s d.tid with
  | some t =>
    match t.arrs with
    | a :: _ => barrierAt s a d.localObj
    | [] => none
  | none => none

/-- R314: the local object, if its member task is placed. -/
def localObject (s : State) (d : DomainBarrier) : Option Barrier := (localOf s d).map (barrierGet s)

/-- R314: whether the local object has sent its arrival. -/
def localSent (s : State) (d : DomainBarrier) : Bool :=
  match localObject s d with | some o => o.sent | none => false

/-- R314: whether a message about a package may reach this home: one of another package comes from
outside, its own when `own` holds. -/
def fromPackage (s : State) (pkg : BitVec 10) (own : Bool) : Bool := pkg != s.pkgnum || own

/-- R314: a message of another package about a domain barrier reaches this home, whether or not a member of its own is
placed: the home holds an entry from then on. -/
def heardOf (s : State) (id : BitVec 24) (pkg : BitVec 10) : State :=
  if (domainFind s id).isSome ∨ pkg = s.pkgnum then s
  else { s with domain := s.domain ++ [DomainBarrier.unknown id s.pkgnum s.ptime] }

/-- R314: the home counts a package's arrival; each package counts once in a phase. `count` is the participating count of
the sender's record. -/
def execDomainBarrierArrival (id : BitVec 24) : BitVec 10 × BitVec 11 → State → Answer
  | (pkg, count), s =>
    let s := heardOf s id pkg
    match domainFind s id with
    | some d =>
      if d.home = s.pkgnum ∧ d.arrived.contains pkg = false ∧ fromPackage s pkg (localSent s d && !d.completing) = true
      then .next (updD s id fun d => ({ d with arrived := d.arrived ++ [pkg] }.count count.toNat).settle s.ptime)
      else .next s
    | none => .next s

/-- R170, R314: a completion reaches the local object, whose phase completes and whose waits land. -/
def execDomainBarrierCompletion (id : BitVec 24) (s : State) : Answer :=
  match domainFind s id with
  | some d =>
    match localOf s d with
    | some k =>
      if (d.home ≠ s.pkgnum ∨ d.completing = true) ∧ (barrierGet s k).sent = true then
        .next (updD (barrierPut s k (barrierGet s k).advance) id fun d => { d with completing := false })
      else .next s
    | none => .next s
  | none => .next s

/-- R315: whether this package's member of a domain barrier is in a state. -/
def memberIs (s : State) (d : DomainBarrier) (st : TaskState) : Bool :=
  match taskFind s d.tid with
  | some t => decide (t.state = st)
  | none => false

/-- R315: the home holds the absence token of a package whose member was pre-empted. -/
def execAbsenceToken (id : BitVec 24) (pkg : BitVec 10) (s : State) : Answer :=
  let s := heardOf s id pkg
  match domainFind s id with
  | some d =>
    if d.home = s.pkgnum ∧ d.absent.contains pkg = false ∧ fromPackage s pkg (memberIs s d .saved) = true then
      .next (updD s id fun d => { d with absent := d.absent ++ [pkg] })
    else .next s
  | none => .next s

/-- R315: a resumed member's presence token ends its absence, and the timeout starts again from zero. -/
def execPresenceToken (id : BitVec 24) (pkg : BitVec 10) (s : State) : Answer :=
  match domainFind s id with
  | some d =>
    if d.home = s.pkgnum ∧ d.absent.contains pkg = true ∧ fromPackage s pkg (memberIs s d .running) = true then
      .next (updD s id fun d =>
        { d with absent := d.absent.filter fun p => p != pkg, since := s.ptime }.settle s.ptime)
    else .next s
  | none => .next s

/-- R315: whether the phase has stayed incomplete for the timeout with no absence held; at another home,
that package has found it so. -/
def timedOut (s : State) (d : DomainBarrier) : Bool :=
  d.home != s.pkgnum
    || (decide (d.timeout ≠ 0 ∧ d.since + 1000 * d.timeout.toNat ≤ s.ptime) && d.absent.isEmpty)

/-- R315, R395: the record of a domain-barrier timeout. -/
def timeoutRecord (s : State) (id : BitVec 24) : Nat :=
  2 + 6 * 2 ^ 16 + s.ptime % 2 ^ 64 * 2 ^ 64 + id.toNat * 2 ^ 128

/-- R315, R395: a timeout is reported: `ALARM`[4], and a record to every context concerned. The barrier stays
open. -/
def execDomainBarrierTimeout (id : BitVec 24) (s : State) : Answer :=
  match domainFind s id with
  | some d =>
    if timedOut s d then
      let ctxs := ((s.tasks.filter fun t => decide (t.record.domain ≠ 0 ∧ t.record.domainId = id)).map fun t =>
        t.ctx.toNat).foldl setInsert []
      let s := ctxs.foldl (fun s c => writeRing s (BitVec.ofNat 12 c) (timeoutRecord s id)) s
      .next (updD (setAlarm s 4) id fun d => { d with since := s.ptime })
    else .next s
  | none => .next s

/-- R314: a package drop lowers the home's expected count for later phases, once for each package. -/
def execDomainBarrierPackageDrop (id : BitVec 24) (pkg : BitVec 10) (s : State) : Answer :=
  let s := heardOf s id pkg
  match domainFind s id with
  | some d =>
    let out := match localObject s d with | some o => decide (o.next = 0 ∧ o.dropped ≠ 0) | none => false
    if d.home = s.pkgnum ∧ d.dropped.contains pkg = false ∧ fromPackage s pkg out = true then
      .next (updD s id fun d =>
        { d with dropped := d.dropped ++ [pkg], nextExpected := d.nextExpected - 1 })
    else .next s
  | none => .next s

end Sys2Proof.Machine
end

