-- ==== Sys2Proof/Machine/Digest.lean ====
section
/-! DEFINITION. SHA-256, which R399 and R400 name and the manual does not define (log entry 111): the digest of a message of
64 bytes. Byte 0 of a message or digest is its first, and the lowest of the number that holds it. -/

namespace Sys2Proof.Machine.Sha256

/-- The constants of the 64 rounds. -/
def constants : List Nat :=
  [0x428a2f98, 0x71374491, 0xb5c0fbcf, 0xe9b5dba5, 0x3956c25b, 0x59f111f1, 0x923f82a4, 0xab1c5ed5,
   0xd807aa98, 0x12835b01, 0x243185be, 0x550c7dc3, 0x72be5d74, 0x80deb1fe, 0x9bdc06a7, 0xc19bf174,
   0xe49b69c1, 0xefbe4786, 0x0fc19dc6, 0x240ca1cc, 0x2de92c6f, 0x4a7484aa, 0x5cb0a9dc, 0x76f988da,
   0x983e5152, 0xa831c66d, 0xb00327c8, 0xbf597fc7, 0xc6e00bf3, 0xd5a79147, 0x06ca6351, 0x14292967]
  ++ [0x27b70a85, 0x2e1b2138, 0x4d2c6dfc, 0x53380d13, 0x650a7354, 0x766a0abb, 0x81c2c92e, 0x92722c85,
   0xa2bfe8a1, 0xa81a664b, 0xc24b8b70, 0xc76c51a3, 0xd192e819, 0xd6990624, 0xf40e3585, 0x106aa070,
   0x19a4c116, 0x1e376c08, 0x2748774c, 0x34b0bcb5, 0x391c0cb3, 0x4ed8aa4a, 0x5b9cca4f, 0x682e6ff3,
   0x748f82ee, 0x78a5636f, 0x84c87814, 0x8cc70208, 0x90befffa, 0xa4506ceb, 0xbef9a3f7, 0xc67178f2]

/-- The hash value that a message starts from. -/
def start : List (BitVec 32) :=
  [0x6a09e667, 0xbb67ae85, 0x3c6ef372, 0xa54ff53a, 0x510e527f, 0x9b05688c, 0x1f83d9ab, 0x5be0cd19]

/-- The message schedule: each further word from those before it, the newest first. -/
def extend : Nat → List (BitVec 32) → List (BitVec 32)
  | 0, l => l
  | n + 1, l =>
    let w (k : Nat) : BitVec 32 := l[k - 1]?.getD 0
    let s0 := (w 15).rotateRight 7 ^^^ (w 15).rotateRight 18 ^^^ w 15 >>> 3
    let s1 := (w 2).rotateRight 17 ^^^ (w 2).rotateRight 19 ^^^ w 2 >>> 10
    extend n ((w 16 + s0 + w 7 + s1) :: l)

/-- One round: the eight working words with a word of the schedule and a constant. -/
def round (v : List (BitVec 32)) (wk : BitVec 32 × Nat) : List (BitVec 32) :=
  match v with
  | [a, b, c, d, e, f, g, h] =>
    let s1 := e.rotateRight 6 ^^^ e.rotateRight 11 ^^^ e.rotateRight 25
    let t1 := h + s1 + ((e &&& f) ^^^ (~~~e &&& g)) + BitVec.ofNat 32 wk.2 + wk.1
    let s0 := a.rotateRight 2 ^^^ a.rotateRight 13 ^^^ a.rotateRight 22
    [t1 + s0 + ((a &&& b) ^^^ (a &&& c) ^^^ (b &&& c)), a, b, c, d + t1, e, f, g]
  | _ => v

/-- The hash value after a block of 16 words. -/
def block (h w : List (BitVec 32)) : List (BitVec 32) :=
  let v := ((extend 48 w.reverse).reverse.zip constants).foldl round h
  (h.zip v).map fun p => p.1 + p.2

/-- Four bytes as the word they are, the first highest, or the other way round. -/
def swap (x : Nat) : Nat :=
  bits x 0 8 * 2 ^ 24 + bits x 8 8 * 2 ^ 16 + bits x 16 8 * 2 ^ 8 + bits x 24 8

/-- The digest of 64 bytes: a block of them, and a block of padding. -/
def digest (m : BitVec 512) : BitVec 256 :=
  let words := (List.range 16).map fun k => BitVec.ofNat 32 (swap (bits m.toNat (32 * k) 32))
  let padding : List (BitVec 32) := 0x80000000 :: List.replicate 14 0 ++ [512]
  BitVec.ofNat 256 (packLanes 32 ((block (block start words) padding).map fun w => swap w.toNat))

end Sys2Proof.Machine.Sha256
end

