-- ==== Sys2Proof/Machine/Network.lean ====
section
/-! DEFINITION. Reduction groups and their rounds, reports of mismatches, the Vitoen ports and accesses from other
packages (R274, R321, R361 to R369, R379 to R381, R391, R396, R397). -/

namespace Sys2Proof.Machine

/-! ### Hops (R364) -/

/-- R364: the hop ID of this package's link port. -/
def portHop (s : State) (port : Nat) : BitVec 16 := BitVec.ofNat 16 (s.pkgnum.toNat * 2 ^ 4 + port)

/-- R361, R364: the hop ID of the switch port at which a package is attached. -/
def switchHop (plane : Fin 16) (pkg : BitVec 10) : BitVec 16 :=
  BitVec.ofNat 16 (2 ^ 14 + plane.val * 2 ^ 10 + pkg.toNat)

/-- R364: the hop ID of a plane's reducing agent. -/
def reduceHop (plane : Fin 16) : BitVec 16 := BitVec.ofNat 16 (3 * 2 ^ 14 + plane.val * 2 ^ 10)

/-- R376: the format code of X128 data. -/
def x128 : Nat := 16

/-! ### Groups (R362, R365) -/

/-- The group of a number. -/
def groupFind (s : State) (n : BitVec 24) : Option RedGroup := s.groups.find? fun g => g.number = n

/-- Change a group. -/
def updG (s : State) (n : BitVec 24) (f : RedGroup → RedGroup) : State :=
  { s with groups := s.groups.map fun g => if g.number = n then f g else g }

/-- R362: the context and landing object of this package in a group. -/
def memberHere (s : State) (g : RedGroup) : Option (BitVec 12 × BitVec 24) :=
  (g.members.find? fun m => m.1 = s.pkgnum).map fun m => m.2

/-- R371: the chunk ID of chunk `k` of a group's window. -/
def windowChunk (g : RedGroup) (k : Nat) : BitVec 64 := BitVec.ofNat 64 (g.tensor.toNat * 2 ^ 24 + k)

/-- R365: whether the round of a chunk holds every member's contribution and has not closed. -/
def RedGroup.full (g : RedGroup) (k : Nat) : Bool := g.sent.any fun r => r.chunk = k

/-- R365: the sum of entry `e` over contributions. -/
def entrySum (cs : List Contribution) (e : Nat) : Int :=
  (cs.map fun c => signed (bits c.payload.toNat (128 * e) 128) 128).sum

/-- R365: whether a sum does not fit an X128 entry. -/
def overflows (x : Int) : Bool := decide (x < -(2 ^ 127) ∨ (2 ^ 127 : Int) ≤ x)

/-- R374: the sum of marks mod P. -/
def markTotal (cs : List Contribution) : BitVec 64 :=
  mkMark ((cs.map fun c => bits c.mark.toNat 0 32).sum % markPrime,
    (cs.map fun c => bits c.mark.toNat 32 32).sum % markPrime)

/-- R365, R376: the result of a round, and whether its mark still mismatches once it has been formed again. `slips` counts
how often the agent's own sum goes wrong; the payload that it forms wrongly twice is a free value. A round with a poisoned
contribution is not compared. -/
def roundResult (free k : Nat) (cs : List Contribution) (slips : Fin 3) : SentResult × Bool :=
  let sums := (List.range 256).map (entrySum cs)
  let right := BitVec.ofNat 32768 (packLanes 128 (sums.map fun x => wrap x 128))
  let payload := if slips.val = 2 then Config.slippedSum free else right
  let mark := touchmark x128 payload.toNat
  let poisonedIn := cs.any fun c => c.poisoned
  let bad := !poisonedIn && decide (mark ≠ markTotal cs)
  let again := !poisonedIn && (bad || decide (1 ≤ slips.val))
  ({ chunk := k, payload := payload, poisoned := poisonedIn || bad || sums.any overflows, mark := mark
     reformed := again, acks := [], resends := 0 }, bad)

/-- R365, R367: the last contribution of a round has arrived: the switch sums, checks and sends the result; a
mismatch after re-forming is reported to every member. -/
def closeRound (s : State) (g : RedGroup) (k : Nat) (slips : Fin 3) : State :=
  let cs := g.open'.filter fun c => c.chunk = k
  if g.members.all fun m => cs.any fun c => c.pkg = m.1 then
    let (r, bad) := roundResult s.freeCtr k cs slips
    let s := updG (bump s) g.number fun g =>
      { g with open' := g.open'.filter fun c => c.chunk != k, sent := g.sent ++ [r] }
    match memberHere s g with
    | some (ctx, _) =>
      if bad then { s with reports := s.reports ++ [{
        kind := 2, ctx := ctx, producer := 0xFFFFFFFF, chunkId := windowChunk g k
        detector := reduceHop g.plane, lastHop := reduceHop g.plane, hops := 1
        format := BitVec.ofNat 8 x128, expected := markTotal cs, observed := r.mark, copy := none }] }
      else s
    | none => s
  else s

/-- R365: the switch holds a verified contribution: in the round that collects, or for the next one where
the round holds every member's. A second one of a member is discarded. -/
def holdContribution (s : State) (g : RedGroup) (c : Contribution) (slips : Fin 3) : State :=
  if g.full c.chunk then
    if g.next.any fun d => d.pkg = c.pkg && decide (d.chunk = c.chunk) then s
    else updG s g.number fun g => { g with next := g.next ++ [c] }
  else if g.open'.any fun d => d.pkg = c.pkg && decide (d.chunk = c.chunk) then s
  else
    let g' : RedGroup := { g with open' := g.open' ++ [c] }
    closeRound (updG s g.number fun _ => g') g' c.chunk slips

/-- R364, R367: the switch ingress verifies an arriving chunk and passes it to the reducing agent, or
discards it and reports to the package of the last verified hop. -/
def ingress (s : State) (g : RedGroup) (ctx : BitVec 12) (c : Contribution) (slips : Fin 3)
    (copy : Option (Fin 8 × Fin 16 × Nat)) : State :=
  let formed := touchmark x128 c.payload.toNat
  let hop := switchHop g.plane c.pkg
  if c.poisoned then holdContribution s g c slips
  else if formed = c.mark then
    holdContribution s g { c with hopCount := nextHop c.hopCount, lastHop := hop } slips
  else if c.lastHop.toNat / 2 ^ 14 = 0 ∧ bits c.lastHop.toNat 4 10 = s.pkgnum.toNat then
    { s with reports := s.reports ++ [{
      kind := 1, ctx := ctx, producer := c.producer, chunkId := windowChunk g c.chunk, detector := hop
      lastHop := c.lastHop, hops := c.hopCount, format := BitVec.ofNat 8 x128, expected := c.mark
      observed := formed, copy := copy }] }
  else s

/-- R362, R363: the window chunk that an active copy of a context goes to. -/
def windowOf (s : State) (cl : Fin 8) (tc : Fin 16) : Option (RedGroup × Nat × Copy) :=
  let a := ownerOf cl tc
  match (vget s.clusters[cl].tongs tc.val).active with
  | none => none
  | some c =>
    match objFind s (getA s a).ctx c.block.dst.obj with
    | none => none
    | some e =>
      if e.window s then
        (groupFind s (BitVec.ofNat 24 e.group)).map fun g =>
          (g, c.block.dst.at (c.block.dstAt 0) / 4096, c)
      else none

/-- The tongs contexts of the part. -/
def allTongs : List (Fin 8 × Fin 16) := (List.finRange 8).flatMap fun c => (List.finRange 16).map fun t => (c, t)

/-- R363, R365: a copy of this package that is to send its contribution to a chunk. -/
def senderOf (s : State) (n : BitVec 24) (k : Nat) (first : Bool) : Option (Fin 8 × Fin 16) :=
  allTongs.find? fun p => match windowOf s p.1 p.2 with
    | some (g, m, c) =>
      g.number = n && decide (m = k) && c.checked && c.ended.isNone
        && (if first then decide (c.sends = 0) else true)
        && !s.reports.any fun r => r.copy = some (p.1, p.2, c.opNum)
    | none => false

/-- Change the active copy of a context. -/
def updCopy (s : State) (p : Fin 8 × Fin 16) (f : Copy → Copy) : State :=
  let t := vget s.clusters[p.1].tongs p.2.val
  putTongs s p.1 p.2.val { t with active := t.active.map f }

/-- What the sending port finds as it reads a source chunk: every sector on this package, or on another one; else the first
answer that stops it, with the offset of its sector. -/
inductive Source where
  | here
  | away
  | stopped (t : Target) (off : Nat)
  | refused (off : Nat)
  deriving DecidableEq, Repr

/-- R244, R273, R280, R287: the sending port looks up, checks and translates each sector of a source chunk. -/
def readSource (s : State) (ctx : BitVec 12) (obj : BitVec 24) (off : Nat) : State × Source :=
  (List.range 128).foldl (fun r k =>
    match r.2 with
    | .stopped _ _ | .refused _ => r
    | .here | .away =>
      match locate r.1 ctx obj (off + 32 * k) 32 [Right.read, Right.copy] false with
      | (s, .phys a _) => (s, if (bankRefuses s a).isSome then .refused (off + 32 * k) else r.2)
      | (s, .remote _) => (s, .away)
      | (s, t) => (s, .stopped t (off + 32 * k))) (s, .here)

/-- R371, R376: a source chunk as the sending port holds it: its header, the bytes and whether any is poisoned. A chunk of
another package comes with its header; nothing says what either holds (log entry 108). -/
def sourceChunk (s : State) (ctx : BitVec 12) (obj : BitVec 24) (e : ObjEntry) (chunk : Nat) (away : Bool) :
    State × Header × Nat × Bool :=
  let free := s.freeCtr
  let key := (chunkHome s ctx obj e chunk).getD (4096 * chunk)
  let arrived := arrivedHeader free key
  if away then
    (bump s, arrived, packLanes 256 ((List.range 128).map fun k => (Config.arrivedSector free k).toNat)
      , (List.range 128).any (Config.arrivedPoison free))
  else
    let l := chunkSectors s ctx obj e chunk
    (bump s, (headerNow s key).getD arrived, sectorBytes s l, sectorsPoisoned s l)

/-- R364, R380, R383: the sending link port sends a copy's contribution, with the payload as the wire delivers it. It reads and
verifies the source first: an access that fails its checks is the fatal error of R273 or R280, a page that is moving is tried
again, a bank of another role stops the copy. A mismatch is reported, and after the third the contribution is sent poisoned. -/
def sendOwn (s : State) (g : RedGroup) (c : Contribution) (slips : Fin 3) (p : Fin 8 × Fin 16) (y : Copy) : State :=
  let a := ownerOf p.1 p.2
  let ctx := (getA s a).ctx
  let obj := y.block.src.obj
  let from' := match y.row with | some r => r.1 | none => y.block.src.at (y.block.srcAt 0)
  let late := g.full c.chunk
  if !bytesServed s ctx obj from' 4096 then s
  else match readSource s ctx obj from' with
  | (s, .stopped .moved _) => s
  | (s, .stopped (.fail sub) off) => failAccess s a 4 sub obj off
  | (s, .stopped (.phys _ _) _) | (s, .stopped (.remote _) _) => s
  | (s, .refused off) => updCopy s p fun y => { y with ended := some (2, 1, y.detailOf off) }
  | (s, found) =>
    match objFind s ctx obj with
    | none => s
    | some e =>
      let (s, h, v, spoilt) := sourceChunk s ctx obj e (from' / 4096) (decide (found = .away))
      let formed := touchmark h.format.toNat (e.cut (from' / 4096) v)
      let poisoned := spoilt || decide (3 ≤ y.sends)
      let s := updCopy s p fun y => { y with sends := y.sends + 1, late := late }
      let mine := some (p.1, p.2, y.opNum)
      if poisoned = false ∧ h.differs formed = true then
        { s with reports := s.reports ++ [{
          kind := if h.lost then 4 else 1, ctx := ctx, producer := h.producer, chunkId := windowChunk g c.chunk
          detector := portHop s g.plane.val, lastHop := h.lastHop, hops := h.hops, format := h.format
          expected := h.mark, observed := if h.lost then 0 else formed, copy := mine }] }
      else
        ingress s g ctx { c with
          poisoned := poisoned, mark := touchmark x128 v, producer := h.producer
          hopCount := if poisoned then h.hops else nextHop h.hops
          lastHop := if poisoned then h.lastHop else portHop s g.plane.val } slips mine

/-- R364, R365, R397: a contribution on its way to the switch: of this package, the next copy that has one to
send, while the group's port is up; of another, as it arrives. `slips` counts how often the reducing agent's sum goes wrong,
where the contribution is the last of its round. -/
def execSwitchIngressVerify (n : BitVec 24) : Contribution × Fin 3 → State → Answer
  | (c, slips), s =>
    match groupFind s n with
    | none => .next s
    | some g =>
      if c.chunk < g.chunks ∧ (g.members.any fun m => m.1 = c.pkg) = true then
        if c.pkg = s.pkgnum then
          if s.ports[g.plane].up then
            let p := match senderOf s n c.chunk true with
              | some p => some p
              | none => senderOf s n c.chunk false
            match p with
            | some p =>
              match windowOf s p.1 p.2 with
              | some (_, _, y) =>
                if y.sends = 0 ∨ resend s c g y = true then .next (sendOwn s g c slips p y) else .next s
              | none => .next s
            | none => .next s
          else .next s
        else .next (ingress s g 0 c slips none)
      else .next s
where
  /-- R380: whether a contribution already sent was discarded by a mismatch. -/
  resend (s : State) (c : Contribution) (g : RedGroup) (y : Copy) : Bool :=
    let held (l : List Contribution) : Bool := l.any fun d => d.pkg = s.pkgnum && decide (d.chunk = c.chunk)
    !y.late && !g.full c.chunk && !held g.open'

/-! ### Landing (R366) -/

/-- R366: write a result to a chunk of the landing object, with its header. -/
def writeLanded (s : State) (g : RedGroup) (ctx : BitVec 12) (obj : BitVec 24) (r : SentResult) : State :=
  match objFind s ctx obj with
  | none => fatalContext s ctx
      { subcause := 2, agent := 4, obj := obj, offset := w64 (4096 * r.chunk), array := none, xsw := 0, pc := 0
        tid := 0, chunk := 0, kind := 0 }
  | some e =>
    let l := chunkSectors s ctx obj e r.chunk
    let s := ((List.range 128).zip l).foldl (fun s w =>
      writeRaw s w.2 32 (bits r.payload.toNat (256 * w.1) 256) r.poisoned 0xFFFFFFFF) s
    match chunkHome s ctx obj e r.chunk with
    | none => s
    | some key =>
      let h : Header := {
        chunkId := windowChunk g r.chunk, mark := r.mark, producer := 0xFFFFFFFF
        format := BitVec.ofNat 8 x128, hops := if r.poisoned then 1 else 2
        lastHop := if r.poisoned then reduceHop g.plane else portHop s g.plane.val
        flags := (if r.poisoned then 1 else 0) + (if r.reformed then 2 else 0), lost := false }
      { s with headers := tableSet s.headers key h, markMsgs := s.markMsgs.filter fun m => m.chunk != key }

/-- R366: the copies of this package whose contributions are in the round complete: 4,096 bytes written. -/
def completeWindows (s : State) (n : BitVec 24) (k : Nat) : State :=
  allTongs.foldl (fun s p => match windowOf s p.1 p.2 with
    | some (g, m, c) =>
      if g.number = n ∧ m = k ∧ c.sends ≠ 0 ∧ c.late = false ∧ c.ended.isNone then
        finishCopy s p.1 p.2 { c with written := 4096 } 0 0 0 0
      else s
    | none => s) s

/-- R366: a port that finds a mismatch reports it and asks for the result again, at most twice; the third
time the switch sends it poisoned. -/
def landingMismatch (s : State) (g : RedGroup) (ctx : BitVec 12) (r : SentResult) (observed : BitVec 64) :
    State :=
  let last := decide (2 ≤ r.resends)
  let again (q : SentResult) : SentResult :=
    if q.chunk = r.chunk then { q with resends := q.resends + 1, poisoned := q.poisoned || last } else q
  let s := updG s g.number fun g => { g with sent := g.sent.map again }
  { s with reports := s.reports ++ [{
    kind := if last then 3 else 1, ctx := ctx, producer := 0xFFFFFFFF, chunkId := windowChunk g r.chunk
    detector := portHop s g.plane.val, lastHop := reduceHop g.plane, hops := 1
    format := BitVec.ofNat 8 x128, expected := r.mark, observed := observed, copy := none }] }

/-- R365: the landing port of a package has acknowledged the result of a chunk. -/
def acknowledge (s : State) (n : BitVec 24) (k : Nat) (pkg : BitVec 10) : State :=
  let ack (q : SentResult) : SentResult :=
    if q.chunk = k ∧ q.acks.contains pkg = false then { q with acks := q.acks ++ [pkg] } else q
  updG s n fun g => { g with sent := g.sent.map ack }

/-- R365, R366: a landing port verifies the result it receives: this package's writes it and acknowledges; of another
package's port the acknowledgement reaches the switch. -/
def execLandingPortVerify (n : BitVec 24) : Nat × BitVec 10 → BitVec 32768 → State → Answer
  | (k, pkg), received, s =>
    match groupFind s n with
    | none => .next s
    | some g =>
      if pkg ≠ s.pkgnum then
        .next (if g.members.any fun m => m.1 = pkg then acknowledge s n k pkg else s)
      else match g.sent.find? fun r => r.chunk = k, memberHere s g with
      | some r, some (ctx, obj) =>
        if r.acks.contains s.pkgnum = false ∧ s.ports[g.plane].up = true then
          let formed := touchmark x128 received.toNat
          if r.poisoned = false ∧ formed ≠ r.mark then .next (landingMismatch s g ctx r formed)
          else
            let s := writeLanded s g ctx obj { r with payload := received }
            .next (completeWindows (acknowledge s n k s.pkgnum) n k)
        else .next s
      | _, _ => .next s

/-- R365: every landing port has acknowledged: the round closes, and the next opens with the contributions
held for it. Where they are every member's, `slips` counts how often the agent's sum goes wrong. -/
def execRoundClose (n : BitVec 24) : Nat × Fin 3 → State → Answer
  | (k, slips), s =>
  match groupFind s n with
  | none => .next s
  | some g =>
    match g.sent.find? fun r => r.chunk = k with
    | none => .next s
    | some r =>
      if g.members.all fun m => r.acks.contains m.1 then
        let g' : RedGroup := { g with
          sent := g.sent.filter fun q => q.chunk != k
          open' := g.open' ++ g.next.filter fun c => c.chunk = k
          next := g.next.filter fun c => c.chunk != k }
        let s := allTongs.foldl (fun s p => match windowOf s p.1 p.2 with
          | some (h, m, _) =>
            if h.number = n ∧ m = k then updCopy s p fun y => { y with late := false } else s
          | none => s) s
        .next (closeRound (updG s n fun _ => g') g' k slips)
      else .next s

/-! ### Reports (R368, R369, R379, R381) -/

/-- R369, R378, R381: the action of a report: 0 none, 1 the producer is placed again, 2 it is not. A task that runs or is
SAVED is running still; one that waits to be placed has produced nothing in this run (log entry 90). -/
def Report.action (r : Report) (s : State) : Nat :=
  if r.kind ≠ 1 ∧ r.kind ≠ 4 then 0
  else if r.producer = 0 ∨ r.producer = 0xFFFFFFFF then 0
  else match taskFind s r.producer with
    | some t =>
      if t.state ≠ .running ∧ t.state ≠ .saved then 0
      else if t.record.rerunnable ∧ t.reruns < 3 then 1
      else 2
    | none => 0

/-- R368: the record of a report. -/
def Report.record (r : Report) (s : State) (action : Nat) : Nat :=
  2 + r.kind.toNat * 2 ^ 16 + r.producer.toNat * 2 ^ 32 + s.ptime % 2 ^ 64 * 2 ^ 64
    + r.chunkId.toNat * 2 ^ 128
    + (r.detector.toNat + r.lastHop.toNat * 2 ^ 16 + r.hops.toNat * 2 ^ 32 + r.format.toNat * 2 ^ 40
      + action * 2 ^ 48) * 2 ^ 192
    + r.expected.toNat * 2 ^ 256 + r.observed.toNat * 2 ^ 320

/-- R369: the copy whose contribution is not to be sent again, if it is active still, ends with status 3. That of the task that
is placed again has been cancelled with its run. -/
def cancelSender (s : State) (k : Fin 8 × Fin 16 × Nat) : State :=
  updCopy s (k.1, k.2.1) fun c =>
    if c.opNum = k.2.2 ∧ c.ended = none then { c with ended := some (3, 0, 0) } else c

/-- R368, R369: the command processor writes a report to the fault ring of its context and acts on the
producer. -/
def execTouchmarkReport (k : Nat) (s : State) : Answer :=
  match s.reports[k]? with
  | none => .next s
  | some r =>
    if cpReady s then
      let action := r.action s
      let s := writeRing { s with reports := s.reports.eraseIdx k } r.ctx (r.record s action)
      match action, taskFind s r.producer with
      | 1, some t =>
        .next (match r.copy with
          | some k => cancelSender (rerun s t) k
          | none => rerun s t)
      | _, _ => .next s
    else .next s

/-! ### Ports and links (R321, R391, R396 to R398) -/

/-- R392, R398: a function leaves service or has failed. -/
def failFunction (s : State) (bit : Nat) : State :=
  let s := if inService s bit then setAlarm s 5 else s
  { s with ready := s.ready &&& ~~~(BitVec.ofNat 64 (2 ^ bit)), readyFail := s.readyFail ||| BitVec.ofNat 64 (2 ^ bit) }

/-- R397: a port goes down: its `READY` bit clears and its `READYFAIL` bit sets, and what it holds leaves by another. -/
def takePortDown (s : State) (p : Fin 16) : State :=
  rerouteFrom { failFunction s (24 + p.val) with ports := s.ports.set p { s.ports[p] with up := false, replays := 0 } } p

/-- R397: a port comes up: the packets that wait for one leave by it. -/
def bringPortUp (s : State) (p : Fin 16) : State :=
  (List.finRange 16).foldl rerouteFrom { s with ports := s.ports.set p { s.ports[p] with up := true, replays := 0 } }

/-- R397: a port loses lock, or has replayed one flit 16 times. -/
def execPortDown (p : Fin 16) (s : State) : Answer :=
  if s.ports[p].up then .next (takePortDown s p) else .next s

/-- R396: a flit of the packet on a port's link is through: the packet leaves the buffer with its last. -/
def Port.pass (x : Port) : Port :=
  match x.packets with
  | [] => { x with replays := 0 }
  | k :: rest =>
    if x.through < k.payload.length then { x with replays := 0, through := x.through + 1 }
    else { x with replays := 0, packets := rest, through := 0 }

/-- R396, R397: a flit fails its CRC and is replayed from the sender's buffer; the 16th replay of one takes the port down. One
that does not fail is through. -/
def execFlitCrcFail : Fin 16 × Bool → State → Answer
  | (p, fails), s =>
    if s.ports[p].up then
      if !fails then .next { s with ports := s.ports.set p s.ports[p].pass }
      else if 15 ≤ s.ports[p].replays then .next (takePortDown s p)
      else .next { s with ports := s.ports.set p { s.ports[p] with replays := s.ports[p].replays + 1 } }
    else .next s

/-- R321: a router input asserts stop on a virtual channel while its buffer holds 4 or fewer free flits, and
go otherwise. -/
def execRouterStop (input : Nat) (vc : Fin 6) (free : Nat) (s : State) : Answer :=
  let rest := s.stops.filter fun e => !decide (e = (input, vc))
  .next { s with stops := if free ≤ 4 then rest ++ [(input, vc)] else rest }

/-- R391, R398: whether a UCIe module remains on which the link runs. -/
def hostLinkUp (s : State) : Bool := (List.range 8).any fun k => s.ucie.getLsbD k && inService s (48 + k)

/-- R391, R398: a UCIe module fails training and stays out of service. -/
def execUcieTrainingFail (m : Fin 8) (s : State) : Answer :=
  .next { failFunction s (48 + m.val) with ucie := s.ucie &&& ~~~(BitVec.ofNat 8 (2 ^ m.val)) }

/-! ### Memory controllers (R384, R387 to R389) -/

/-- R383: an error that cannot be corrected is found in the header of a chunk. -/
def loseHeader (s : State) (key : Nat) : State :=
  match tableFind s.headers key with
  | some h => { s with headers := tableSet s.headers key { h with lost := true } }
  | none => s

/-- R383, R384: the controller scrubs a 64-byte sector of its stack; halves that it cannot correct are entered. `header`:
the key of a chunk header in which an error is found that cannot be corrected. -/
def execPatrolScrub (k : Fin 16) (sector : Nat) : BitVec 2 × Option Nat → State → Answer
  | (bad, header), s =>
    let s := poisonHalves s (k.val * 2 ^ 30 + sector % 2 ^ 30) bad
    .next (match header with | some key => loseHeader s key | none => s)

/-- R387: a row of a bank is activated a number of times: its counter counts them, and refresh management is issued each
time it reaches 512, which starts the count again. -/
def execRefreshManagement (k : Fin 16) (bank : Nat) : Nat × Nat → State → Answer
  | (row, activations), s =>
    let x := s.stackCtl[k]
    let key := 2 ^ 32 * bank + row
    let count := tableGet x.activations key 0 + activations
    let x' : Stack := { x with
      activations := tableSet x.activations key (count % 512), refreshes := x.refreshes + count / 512 }
    .next { s with stackCtl := s.stackCtl.set k x' }

/-- R388: an alert back-off, at a bank whose controller has since postponed further refreshes, at most 8 in all. A bank
with 8 postponed has them issued first; then comes the refresh management that the back-off asks for. -/
def execAlertBackOff (k : Fin 16) : Nat × Nat → State → Answer
  | (bank, postponed), s =>
    let x := s.stackCtl[k]
    let owed := min 8 (tableGet x.postponed bank 0 + postponed)
    let x' : Stack :=
      if owed = 8 then
        { x with postponed := tableErase x.postponed bank, refreshes := x.refreshes + owed + 1 }
      else { x with postponed := tableSet x.postponed bank owed, refreshes := x.refreshes + 1 }
    .next { s with stackCtl := s.stackCtl.set k x' }

/-- R376, R389: the format of a mirror chunk, and how many entries of 8 bytes (log entry 110) it holds. -/
def mirrorFormat : Nat := 9
/-- R389. -/
def mirrorEntries : Nat := 512

/-- R373, R389: the touchmark of chunk `c` of a mirror. -/
def mirrorMark (m : List (Nat × Nat)) (c : Nat) : BitVec 64 :=
  touchmark mirrorFormat (packLanes 64 ((List.range mirrorEntries).map fun n => tableGet m (mirrorEntries * c + n) 0 % 2 ^ 64))

/-- R389: whether chunk `c` of a mirror, as its rows are read, verifies. -/
def Stack.mirrorOk (x : Stack) (read : List (Nat × Nat)) (c : Nat) : Bool :=
  decide (mirrorMark read c = tableGet x.mirrorMarks c 0)

/-- R389: the supervisor core writes an entry of the mirror, with the mark of its chunk. -/
def Stack.writeMirror (x : Stack) (n v : Nat) : Stack :=
  let m := tableSet x.mirror n (v % 2 ^ 64)
  let c := n / mirrorEntries
  { x with mirror := m, mirrorMarks := tableSet x.mirrorMarks c (mirrorMark m c) }

/-- R389: a row-remap entry cannot be corrected. The table is reloaded from its mirror, each chunk verified, or, where a mirror
chunk does not verify, the pseudo-channel is quarantined. `wrong`: the entries that the mirror's rows are found to hold
otherwise than they were written. `change`: the supervisor core changes an entry instead: it writes the mirror chunk and
verifies it, and only then writes the table. -/
def execRemapTableError (k : Fin 16) (pc : Nat) : List (Nat × Nat) × Option (Nat × Nat) → State → Answer
  | (wrong, change), s =>
    let x := s.stackCtl[k]
    let rows (x : Stack) : List (Nat × Nat) := wrong.foldl (fun m e => tableSet m e.1 (e.2 % 2 ^ 64)) x.mirror
    let put (x : Stack) : State := { s with stackCtl := s.stackCtl.set k x }
    match change with
    | some (n, v) =>
      if !supervisorReady s then .next s
      else
      let x := x.writeMirror n v
      let held : Stack := { x with mirror := rows x }
      .next (put (if x.mirrorOk (rows x) (n / mirrorEntries) then { held with remap := tableSet x.remap n (v % 2 ^ 64) } else held))
    | none =>
      let chunks := ((rows x).map fun e => e.1 / mirrorEntries).foldl setInsert []
      .next (if chunks.all (x.mirrorOk (rows x)) then put { x with mirror := rows x, remap := rows x }
        else quarantineChannel (put { x with mirror := rows x }) k pc)

/-- R344: a fatal context error that a unit reports to the command processor. -/
def execFatalContextError (ctx : BitVec 12) (i : FatalInfo) (s : State) : Answer :=
  .next (fatalContext s ctx i)

end Sys2Proof.Machine
end

