-- ==== Sys2Proof/Machine/HostBlock.lean ====
section
/-! DEFINITION. The host register block and its management commands, host accesses to memory, and bring-up
(R268, R309, R362, R391 to R395, R397 to R400). -/

namespace Sys2Proof.Machine

/-! ### Host accesses to memory (R392) -/

/-- R392: an object of context 4,095 that holds a 64-byte line and grants a right, and the line's offset in it. A page
that is moving still holds its lines (R276, R286). -/
def hostObject (s : State) (a right : Nat) : Option (BitVec 24 × Nat) :=
  s.objs.findSome? fun x =>
    if x.1 / 2 ^ 24 = 4095 then
      match offsetIn s 4095 (BitVec.ofNat 24 x.1) x.2 a with
      | some off =>
        if x.2.ceiling.testBit right ∧ off + 64 ≤ x.2.size then some (BitVec.ofNat 24 x.1, off) else none
      | none => none
    else none

/-- R392: an access that fails completes with a poison response and changes nothing. -/
def hostFails (s : State) : State := { s with hostReads := (0, true) :: s.hostReads }

/-- R262, R382, R383, R392: the host's access to a line of an object: the state after it, and, where the page is moving or what
holds it serves no access now, what is to be sent again (R286). -/
def hostLine (s : State) (obj : BitVec 24) (off : Nat) (write : Option (BitVec 512)) (mismatches : Fin 3) (bad : ReadError) :
    State × Option HostAccess :=
  let twice := decide (mismatches.val = 2)
  if !bytesServed s 4095 obj off 64 then (s, some (.resend obj off write))
  else match write with
  | some v =>
    match writeObj s 4095 obj off 32 [Right.write] (bits v.toNat 0 256) twice 0 with
    | (t, .done) =>
      (reportTwice (writeObj t 4095 obj (off + 32) 32 [Right.write] (bits v.toNat 256 256) twice 0).1 twice
        (unitReport s 4095 0 obj off), none)
    | (_, .moved) => (s, some (.resend obj off write))
    | _ => (hostFails s, none)
  | none =>
    match readBad s 4095 obj off 32 [Right.read] bad with
    | (t, .value lo p) =>
      match readObj t 4095 obj (off + 32) 32 [Right.read] with
      | (t, .value hi q) =>
        ({ t with hostReads := (BitVec.ofNat 512 (lo + hi * 2 ^ 256), p || q) :: t.hostReads }, none)
      | _ => (hostFails s, none)
    | (_, .moved) => (s, some (.resend obj off write))
    | _ => (hostFails s, none)

/-- R391, R392: the host's access to a line of HBM, by its offset. -/
def hostAccess (s : State) (offset : BitVec 40) (write : Option (BitVec 512)) (mismatches : Fin 3) (bad : ReadError) :
    State × Option HostAccess :=
  match hostObject s (offset.toNat / 64 * 64) (if write.isSome then Right.write else Right.read) with
  | some (obj, off) => hostLine s obj off write mismatches bad
  | none => (hostFails s, none)

/-! ### Submission queues (R393) -/

/-- Change a queue's registers. -/
def updQueue (s : State) (q : Fin 64) (f : SubQueue → SubQueue) : State :=
  { s with queues := s.queues.set q (f s.queues[q]) }

/-- R393: a write to `QBASE`. -/
def writeQbase (s : State) (q : Fin 64) (v : BitVec 64) : State :=
  updQueue s q fun x =>
    if x.enabled then { x with stat := x.stat ||| 2 }
    else { x with base := v.setWidth 48 &&& 0xFFFFFFFFFFC0 }

/-- R393: a write to `QTAIL`. The tail is taken mod 2^n where the command processor uses it (`queueReady`), under the n
that holds then. -/
def writeQtail (s : State) (q : Fin 64) (v : BitVec 64) : State :=
  updQueue s q fun x => { x with tail := v.setWidth 12 }

/-- R393: a write to `QCFG`. While the queue is enabled only a clear enable bit acts; a write that sets
enable with n from 13 to 15 is ignored. -/
def writeQcfg (s : State) (q : Fin 64) (v : BitVec 64) : State :=
  updQueue s q fun x =>
    if x.enabled then
      if v.getLsbD 31 then { x with stat := x.stat ||| 2 } else { x with cfg := x.cfg &&& 0x7FFFFFFF }
    else if v.getLsbD 31 = true ∧ 13 ≤ bits v.toNat 0 4 then { x with stat := x.stat ||| 4 }
    else { x with cfg := v.setWidth 32 &&& 0xBFFF000F }

/-! ### Registers of the block (R392, R394) -/

/-- R309, R392: a write to `EVSIG` signals an event. -/
def writeEvsig (s : State) (v : Nat) : State :=
  signalEvent s (BitVec.ofNat 12 (bits v 16 12)) (BitVec.ofNat 16 v)

/-- R392: a one written to a bit of `ALARM` clears it. -/
def writeAlarm (s : State) (v : BitVec 32) : State := { s with alarm := s.alarm &&& ~~~v }

/-- R392: a port whose bit a write to `LINKEN` clears goes down (R397). -/
def writeLinken (s : State) (v : BitVec 16) : State :=
  let drop (s : State) (p : Fin 16) : State :=
    if s.linken.getLsbD p.val = true ∧ v.getLsbD p.val = false ∧ s.ports[p].up = true then takePortDown s p
    else s
  { (List.finRange 16).foldl drop s with linken := v }

/-- R394: a write to word `w` of a context entry. -/
def Context.put (c : Context) (w : Nat) (v : BitVec 64) : Context :=
  match w with
  | 0 => { c with
    domain := BitVec.ofNat 12 (bits v.toNat 0 12), enable := v.getLsbD 12
    quota := BitVec.ofNat 32 (bits v.toNat 32 32) }
  | 1 => { c with ring := v.setWidth 48 &&& 0xFFFFFFFFFFC0 }
  | 2 => { c with entries := v.setWidth 16 }
  | _ => c

/-- R394: the host writes a context entry. -/
def writeContext (s : State) (c w : Nat) (v : BitVec 64) : State :=
  { s with contexts := tableSet s.contexts c ((tableGet s.contexts c default).put w v) }

/-- R395: whether the management block is busy. -/
def mgmtBusy (s : State) : Bool := s.mgmtStatus.getLsbD 0

/-- R395: a doorbell write starts the command, unless the block is busy. -/
def ringDoorbell (s : State) : State := if mgmtBusy s then s else { s with mgmtStatus := 1 }

/-- Put 64 bits into the command. -/
def putCommand (c : BitVec 512) (k : Nat) (v : BitVec 64) : BitVec 512 :=
  BitVec.ofNat 512 (c.toNat - bits c.toNat (64 * k) 64 * 2 ^ (64 * k) + v.toNat * 2 ^ (64 * k))

/-- R392 to R395: what a write of 8 bytes to the register block does. A register that is read-only keeps its
value. -/
def writeRegister (s : State) (offset : BitVec 20) (v : BitVec 64) : State :=
  let o := offset.toNat / 8 * 8
  if o = 0x200 then
    if bits v.toNat 0 10 ≤ 999 then { s with refthr := v.setWidth 10 } else s
  else if o = 0x208 then writeAlarm s (v.setWidth 32)
  else if o = 0x210 then if s.linken = 0 then { s with pkgnum := v.setWidth 10 } else s
  else if o = 0x218 then writeLinken s (v.setWidth 16)
  else if 0x1000 ≤ o ∧ o < 0x1040 then { s with command := putCommand s.command ((o - 0x1000) / 8) v }
  else if o = 0x1040 then ringDoorbell s
  else if 0x10000 ≤ o ∧ o < 0x11000 then
    let q := finOf 63 ((o - 0x10000) / 64)
    match o % 64 with
    | 0 => writeQbase s q v
    | 8 => writeQcfg s q v
    | 24 => writeQtail s q v
    | _ => s
  else if 0x20000 ≤ o ∧ o < 0x20000 + 32 * 4095 then
    writeContext s ((o - 0x20000) / 32) (o % 32 / 8) v
  else if o = 0x40000 then writeEvsig s v.toNat
  else s

/-- R392 to R395: what a read of 8 bytes of the register block answers: reserved bits and a write-only register read as
zero (R7). -/
def readRegister (s : State) (offset : BitVec 20) : BitVec 64 :=
  let o := offset.toNat / 8 * 8
  if o = 0 then BitVec.ofNat 64 (0x4B5A + Config.revision.toNat * 2 ^ 16)
  else if o = 0x100 then s.ready
  else if o = 0x108 then s.readyFail
  else if o = 0x200 then s.refthr.setWidth 64
  else if o = 0x208 then s.alarm.setWidth 64
  else if o = 0x210 then s.pkgnum.setWidth 64
  else if o = 0x218 then s.linken.setWidth 64
  else if 0x1000 ≤ o ∧ o < 0x1040 then BitVec.ofNat 64 (bits s.command.toNat (8 * (o - 0x1000)) 64)
  else if o = 0x1048 then s.mgmtStatus
  else if 0x10000 ≤ o ∧ o < 0x11000 then
    let q := s.queues[finOf 63 ((o - 0x10000) / 64)]
    match o % 64 with
    | 0 => q.base.setWidth 64
    | 8 => q.cfg.setWidth 64
    | 16 => q.head.setWidth 64
    | 24 => q.tail.setWidth 64
    | 32 => q.stat.setWidth 64
    | _ => 0
  else if 0x20000 ≤ o ∧ o < 0x20000 + 32 * 4095 then
    let c := tableGet s.contexts ((o - 0x20000) / 32) default
    match o % 32 / 8 with
    | 0 => BitVec.ofNat 64 (c.domain.toNat + (if c.enable then 2 ^ 12 else 0) + c.quota.toNat * 2 ^ 32)
    | 1 => c.ring.setWidth 64
    | 2 => c.entries.setWidth 64
    | _ => 0
  else 0

/-! ### The order of host accesses (R262) -/

/-- R262: an access that has crossed the port is performed, or is to be sent again. -/
def performHost (s : State) : HostAccess → State × Option HostAccess
  | .line offset write mismatches bad => hostAccess s offset write mismatches bad
  | .resend obj off write => hostLine s obj off write 0 .clean
  | .register offset (some v) => (writeRegister s offset v, none)
  | .register offset none => ({ s with hostReads := ((readRegister s offset).setWidth 512, false) :: s.hostReads }, none)

/-- R262, R391: a host access crosses the port, where the link is up: each is performed before the next, so it waits for any
that waits. -/
def crossing (s : State) (x : HostAccess) : State :=
  if !hostLinkUp s then s
  else if s.hostPort.isEmpty then
    match performHost s x with
    | (t, some y) => { t with hostPort := [y] }
    | (t, none) => t
  else { s with hostPort := s.hostPort ++ [x] }

/-- R262, R286: the oldest host access that waits is tried again. -/
def hostDrain (s : State) : State :=
  match s.hostPort with
  | [] => s
  | x :: rest =>
    match performHost { s with hostPort := rest } x with
    | (t, some y) => { t with hostPort := y :: rest }
    | (t, none) => t

/-- R391, R392: the host accesses a line of HBM at an offset, or 8 bytes of the register block, through the port. `behind`: the
host changes a line of the memory behind its own die instead, byte `die` · 2^40 + `offset` of region 0x1 (R269), which
reaches no port of the part. -/
def execHostCxlMemAccess : HostPlace × Fin 3 × ReadError → Option (BitVec 512) → State → Answer
  | (.hbm offset, mismatches, bad), write, s => .next (crossing s (.line offset write mismatches bad))
  | (.register offset, _, _), write, s => .next (crossing s (.register offset (write.map fun v => v.setWidth 64)))
  | (.behind die offset, _, _), some v, s =>
    let a := 2 ^ 44 + die.toNat * 2 ^ 40 + offset.toNat / 64 * 64
    .next (writePhys (writePhys s a 32 (bits v.toNat 0 256) false) (a + 32) 32 (bits v.toNat 256 256) false)
  | (.behind _ _, _, _), none, s => .next s

/-- R392 to R395: a host write of 8 bytes to the register block. -/
def execRegisterWrite (offset : BitVec 20) (v : BitVec 64) (s : State) : Answer :=
  .next (crossing s (.register offset (some v)))

/-- R393: the host writes a queue's tail. -/
def execQtailWrite (q : Fin 64) (v : BitVec 64) (s : State) : Answer :=
  .next (crossing s (.register (BitVec.ofNat 20 (0x10000 + 64 * q.val + 24)) (some v)))

/-- R393: the host writes a queue's configuration. -/
def execQcfgWrite (q : Fin 64) (v : BitVec 64) (s : State) : Answer :=
  .next (crossing s (.register (BitVec.ofNat 20 (0x10000 + 64 * q.val + 8)) (some v)))

/-- R392: the host signals an event. -/
def execEvsigWrite (v : BitVec 32) (s : State) : Answer := .next (crossing s (.register 0x40000 (some (v.setWidth 64))))

/-- R392: the host clears alarms. -/
def execAlarmWrite (v : BitVec 32) (s : State) : Answer := .next (crossing s (.register 0x208 (some (v.setWidth 64))))

/-- R392: the host enables and disables ports. -/
def execLinkenWrite (v : BitVec 32) (s : State) : Answer := .next (crossing s (.register 0x218 (some (v.setWidth 64))))

/-! ### Management commands (R395) -/

/-- R395: bytes `k` to `k + n - 1` of the command. -/
def cmdBytes (s : State) (k n : Nat) : Nat := bits s.command.toNat (8 * k) (8 * n)

/-- R395, R398: whether the management block has command `code` to carry out. -/
def cmdDue (s : State) (code : Nat) : Bool := cpReady s && mgmtBusy s && decide (cmdBytes s 0 1 = code)

/-- R395: completion sets the status and raises vector 65. -/
def finishCommand (s : State) (result value : Nat) : State :=
  { s with mgmtStatus := BitVec.ofNat 64 (result * 2 ^ 8 + value % 2 ^ 48 * 2 ^ 16), msix := 65 :: s.msix }

/-- R395: carry out command `code` when it is due. Its reserved bytes are ignored (R7). -/
def command (s : State) (code : Nat) (act : State) : Answer :=
  if cmdDue s code then .next act else .next s

/-- R300, R395: the reserved fields of an entry, and the fields that a host object has zero. -/
def hostEntryOk (s : State) (e : BitVec 256) : Bool :=
  decide (entryFld e 208 48 = 0 ∧ entryFld e 32 52 = 0 ∧ entryFld e 18 3 = 0 ∧ entryFld e 11 5 = 0
    ∧ entryFld e 4 4 = 0)
    && !entryExisting e && !entryProg e && newEntryOk s e 0

/-- R395: enter an object of a context under the same ID for context 4,095. -/
def shareHost (s : State) (ctx : BitVec 12) (id : BitVec 24) : State :=
  match objFind s ctx id with
  | some e => { s with objs := tableSet s.objs (objKey 4095 id) { e with sharedFrom := some ctx } }
  | none => s

/-- R370: whether the headers of a new object fit a context's HBM quota. Context 4,095 has no entry and no quota. -/
def hostQuotaOk (s : State) (ctx : BitVec 12) (e : BitVec 256) : Bool :=
  decide (ctx = 4095 ∨ entryHeaders e = 0) || decide (entryHeaders e + headerCharge s ctx
    ≤ 65536 * (tableGet s.contexts ctx.toNat default).quota.toNat)

/-- R267, R395: create an object for the host: an ID unused in its context and, where it is entered there,
in context 4,095. With no such ID, or with no room for its headers in the quota, there is no resource. -/
def createHost (s : State) (ctx : BitVec 12) (e : BitVec 256) (shared : Bool) : State :=
  let used := usedIds s ctx ++ if shared then usedIds s 4095 else []
  let id := pickUnused used (Config.objectId s.freeCtr) 0 (2 ^ 24 - 1)
  let keep := 2 ^ 208 - 2 ^ 84 + 2 ^ 18 - 1
  let o : ObjEntry := ⟨e &&& BitVec.ofNat 256 keep, true, none, none, false⟩
  if 2 ^ 24 ≤ id ∨ hostQuotaOk s ctx e = false then finishCommand s 2 0
  else
    let obj := BitVec.ofNat 24 id
    let s := bump { s with objs := tableSet s.objs (objKey ctx obj) o }
    let s := writeHeaders s ctx obj o 0
    finishCommand (if shared then shareHost s ctx obj else s) 0 id

/-- R395: management command 1. -/
def execCreateObject (s : State) : Answer :=
  let ctx := cmdBytes s 8 8
  let e := BitVec.ofNat 256 (cmdBytes s 16 32)
  command s 1 (
    if ctx < 4096 ∧ hostEntryOk s e = true then
      createHost s (BitVec.ofNat 12 ctx) e (s.command.getLsbD 8 && decide (ctx ≠ 4095))
    else finishCommand s 1 0)

/-- R268, R344, R395: management command 2: the object, which may be a save area, is revoked, and with it the entry of context 4,095 made by
the same command. -/
def execDestroyObject (s : State) : Answer :=
  let ctx : BitVec 12 := BitVec.ofNat 12 (cmdBytes s 8 8)
  let obj : BitVec 24 := BitVec.ofNat 24 (cmdBytes s 16 8)
  command s 2 (
    match if cmdBytes s 8 8 < 4096 ∧ cmdBytes s 16 8 < 2 ^ 24 then objFind s ctx obj else none with
    | some _ =>
      let s := revoke s ctx obj
      let s := { s with saveAreas := s.saveAreas.filter fun r => !(r.ctx = ctx && r.obj = obj) }
      finishCommand (if (objFind s 4095 obj).any fun x => x.sharedFrom = some ctx then revoke s 4095 obj else s) 0 0
    | none => finishCommand s 1 0)

/-- R309, R395: management command 3. -/
def execFreeEvent (s : State) : Answer :=
  command s 3 (
    if cmdBytes s 8 8 < 4096 ∧ cmdBytes s 16 8 < 2 ^ 16 then
      finishCommand (dropEvent s (BitVec.ofNat 12 (cmdBytes s 8 8)) (BitVec.ofNat 16 (cmdBytes s 16 8))) 0 0
    else finishCommand s 1 0)

/-- R362: the members of a group that is registered: entries of 8 bytes at a physical address. -/
def readMembers (s : State) (a n : Nat) : List (BitVec 10 × BitVec 12 × BitVec 24) :=
  (readMany s a 8 n).map fun m =>
    (BitVec.ofNat 10 (bits m 0 10), BitVec.ofNat 12 (bits m 16 12), BitVec.ofNat 24 (bits m 32 24))

/-- R362: whether a member's landing object, where it is this package's, is a local MARKED LINEAR object long
enough. -/
def landingOk (s : State) (chunks : Nat) (m : BitVec 10 × BitVec 12 × BitVec 24) : Bool :=
  m.1 != s.pkgnum || match objFind s m.2.1 m.2.2 with
    | some e => e.marked && decide (e.kind = 1 ∧ e.homeKind = 0 ∧ 4096 * chunks ≤ e.size)
    | none => false

/-- R362, R395: management command 4. -/
def execRegisterReductionGroup (s : State) : Answer :=
  let number : BitVec 24 := BitVec.ofNat 24 (cmdBytes s 8 3)
  let chunks := cmdBytes s 20 4
  let n := cmdBytes s 24 2
  let list := cmdBytes s 32 8
  let members := readMembers s list (min n 1024)
  command s 4 (
    if cmdBytes s 11 1 < 16 ∧ 1 ≤ chunks ∧ chunks ≤ 2 ^ 24 ∧ 2 ≤ n ∧ n ≤ 1024 ∧ list < 2 ^ 48
        ∧ physOk list = true ∧ (groupFind s number).isNone = true
        ∧ distinct (members.map fun m => m.1.toNat) = true
        ∧ (members.all fun m => landingOk s chunks m) = true then
      let g : RedGroup := {
        number := number, plane := finOf 15 (cmdBytes s 11 1), tensor := BitVec.ofNat 40 (cmdBytes s 12 5)
        chunks := chunks, members := members, open' := [], next := [], sent := [] }
      finishCommand { s with groups := s.groups ++ [g] } 0 number.toNat
    else finishCommand s 1 0)

/-- R395: management command 5. -/
def execReleaseReductionGroup (s : State) : Answer :=
  let number : BitVec 24 := BitVec.ofNat 24 (cmdBytes s 8 8)
  command s 5 (
    if cmdBytes s 8 8 < 2 ^ 24 ∧ (groupFind s number).isSome = true then
      finishCommand { s with groups := s.groups.filter fun g => g.number != number } 0 0
    else finishCommand s 1 0)

/-- R395: an unassigned code. -/
def execBadCommand (s : State) : Answer :=
  let code := cmdBytes s 0 1
  if code = 0 ∨ code = 6 ∨ 8 ≤ code then command s code (finishCommand s 1 0) else .next s

/-- Write sectors of 32 bytes from a physical address. -/
def writeSectors (s : State) (a v : Nat) : Nat → State
  | 0 => s
  | n + 1 => writeSectors (writeHome s a 32 (v % 2 ^ 256)) (a + 32) (v / 2 ^ 256) n

/-- R400: the bytes of a report; the salt of the signature is a free value. -/
def attestReport (s : State) (nonce : Nat) : Nat :=
  let plain := nonce + s.measurement.toNat * 2 ^ 256 + s.ready.toNat * 2 ^ 512
    + Config.fusedVersion.toNat * 2 ^ 576
  plain + (Config.identitySign (Config.attestSalt s.freeCtr) (BitVec.ofNat 608 plain)).toNat * 2 ^ 608

/-- R398, R400: management command 7, which the security root serves once it is in service. -/
def execAttest (s : State) : Answer :=
  let a := cmdBytes s 40 8
  if !inService s 47 then .next s
  else command s 7 (
    if a < 2 ^ 45 ∧ a % 64 = 0 ∧ physOk a = true ∧ physOk (a + 511) = true then
      finishCommand (writeSectors (bump s) a (attestReport s (cmdBytes s 8 32)) 16) 0 0
    else finishCommand s 1 0)

/-! ### Bring-up (R398, R399) -/

/-- R277, R399: an image is measured; one that fails is not run; a walker engine's brings its walk routines. -/
def runImage (s : State) (i : FirmwareImage) : State :=
  let m := Sha256.digest (BitVec.ofNat 512 (s.measurement.toNat + i.digest.toNat * 2 ^ 256))
  let ok := i.signed && decide (Config.fusedVersion.toNat ≤ i.version.toNat)
  { s with
    measurement := m
    routines := if ok ∧ 40 ≤ i.func.val ∧ i.func.val < 44 then
        s.routines ++ (Config.routinesIn i.digest).filter fun r => !s.routines.contains r
      else s.routines
    images := if ok then s.images ||| BitVec.ofNat 64 (2 ^ i.func.val) else s.images &&& ~~~(BitVec.ofNat 64 (2 ^ i.func.val))
    readyFail := if ok then s.readyFail else s.readyFail ||| BitVec.ofNat 64 (2 ^ i.func.val) }

/-- R399: package reset: the part is as it is after reset but for what lies in memory and at the sensors, and
the security root loads the images. -/
def execPackageReset (images : List FirmwareImage) (s : State) : Answer :=
  let r := State.reset
  .next (images.foldl runImage (setAlarm { r with
    agenda := s.agenda, freeCtr := s.freeCtr, powered := s.powered, mem := s.mem, poison := s.poison
    stackCtl := s.stackCtl, backing := s.backing, fills := s.fills
    power := { r.power with lid := s.power.lid, flow := s.power.flow, current := s.power.current }
    ready := BitVec.ofNat 64 (2 ^ 47) } 5))

/-- R391, R392, R399: whether a function may come into service: a port whose bit of `LINKEN` is set, a UCIe
module that has trained, and firmware that the security root, in service, has loaded and passed. -/
def mayServe (s : State) (bit : Fin 64) : Bool :=
  if bit.val < 16 ∨ (40 ≤ bit.val ∧ bit.val < 47) then
    s.images.getLsbD bit.val && !s.readyFail.getLsbD bit.val && inService s 47
  else if bit.val < 24 then true
  else if bit.val < 40 then s.linken.getLsbD (bit.val - 24)
  else if bit.val < 48 then true
  else s.ucie.getLsbD (bit.val - 48)

/-- R398: change a `READY` bit; `ALARM`[5] notes a change. -/
def setReady (s : State) (bit : Fin 64) (on' : Bool) : State :=
  let mask : BitVec 64 := BitVec.ofNat 64 (2 ^ bit.val)
  let s := if inService s bit.val = on' then s else setAlarm s 5
  let s := { s with ready := if on' then s.ready ||| mask else s.ready &&& ~~~mask }
  if 24 ≤ bit.val ∧ bit.val < 40 then
    let p : Fin 16 := finOf 15 (bit.val - 24)
    if on' then bringPortUp s p
    else rerouteFrom { s with ports := s.ports.set p { s.ports[p] with up := false, replays := 0 } } p
  else s

/-- R398: a function sets or clears its `READY` bit, or fails. -/
def execFunctionReady (bit : Fin 64) (ready failed : Bool) (s : State) : Answer :=
  if 56 ≤ bit.val then .next s
  else if failed then
    .next (if 24 ≤ bit.val ∧ bit.val < 40 then takePortDown s (finOf 15 (bit.val - 24))
      else failFunction s bit.val)
  else if ready then
    if mayServe s bit then
      .next { setReady s bit true with readyFail := s.readyFail &&& ~~~(BitVec.ofNat 64 (2 ^ bit.val)) }
    else .next s
  else .next (setReady s bit false)

end Sys2Proof.Machine
end

