-- ==== Sys2Proof/Machine/Scalar.lean ====
section
/-! DEFINITION. The meanings of the `SCL` forms (R104, R105, R128 to R134). -/

namespace Sys2Proof.Machine

/-- R104, R128: a form of latency 1 that writes `Sd`. -/
def sclWrite (p : Fin 8) (d : Fin 32) (f : Arr → Word64) (s : State) : State :=
  gated p s fun s => updCur s fun x => x.ws d (f x)

/-- R104: a form of latency 3 that writes `Sd`; the cycle it lands on is free within the bound. -/
def sclWrite3 (p : Fin 8) (d : Fin 32) (f : Arr → Word64) (s : State) : State :=
  gated p s fun s =>
    bump (updCur s fun x => x.pendWrite (.s d (f x)) (landingCycle s x 3))

/-- R130: a comparison. -/
def ccHolds (cc : Cc) (a b : Word64) : Bool :=
  match cc with
  | .eq => decide (a = b)
  | .ne => decide (a ≠ b)
  | .lt => a.slt b
  | .ge => b.sle a
  | .lo => a.ult b
  | .hs => b.ule a

/-- R128: the count of leading zeros of the low `n` bits. -/
def leadingZeros (v : Word64) : Nat → Nat
  | 0 => 0
  | n + 1 => if v.getLsbD n then 0 else 1 + leadingZeros v n

/-- R128: the count of trailing zeros, from bit `64 - n` up. -/
def trailingZeros (v : Word64) : Nat → Nat
  | 0 => 0
  | n + 1 => if v.getLsbD (63 - n) then 0 else 1 + trailingZeros v n

/-- R128: the number of one bits. -/
def oneBits (v : Word64) : Nat := ((List.range 64).filter fun k => v.getLsbD k).length

/-- R128. -/
def execAdd (p : Fin 8) (d a b : Fin 32) (s : State) : Answer :=
  .next (sclWrite p d (fun x => x.rs a + x.rs b) s)

/-- R128. -/
def execSub (p : Fin 8) (d a b : Fin 32) (s : State) : Answer :=
  .next (sclWrite p d (fun x => x.rs a - x.rs b) s)

/-- R128, latency 3. -/
def execMul (p : Fin 8) (d a b : Fin 32) (s : State) : Answer :=
  .next (sclWrite3 p d (fun x => x.rs a * x.rs b) s)

/-- R128, latency 3: bits [127:64] of the signed product. -/
def execMulh (p : Fin 8) (d a b : Fin 32) (s : State) : Answer :=
  .next (sclWrite3 p d (fun x => w64 (wrap ((x.rs a).toInt * (x.rs b).toInt / 2 ^ 64) 64)) s)

/-- R128, latency 3: bits [127:64] of the unsigned product. -/
def execMulhz (p : Fin 8) (d a b : Fin 32) (s : State) : Answer :=
  .next (sclWrite3 p d (fun x => w64 ((x.rs a).toNat * (x.rs b).toNat / 2 ^ 64)) s)

/-- R128. -/
def execAnd (p : Fin 8) (d a b : Fin 32) (s : State) : Answer :=
  .next (sclWrite p d (fun x => x.rs a &&& x.rs b) s)

/-- R128. -/
def execAndn (p : Fin 8) (d a b : Fin 32) (s : State) : Answer :=
  .next (sclWrite p d (fun x => x.rs a &&& ~~~(x.rs b)) s)

/-- R128. -/
def execOr (p : Fin 8) (d a b : Fin 32) (s : State) : Answer :=
  .next (sclWrite p d (fun x => x.rs a ||| x.rs b) s)

/-- R128. -/
def execXor (p : Fin 8) (d a b : Fin 32) (s : State) : Answer :=
  .next (sclWrite p d (fun x => x.rs a ^^^ x.rs b) s)

/-- R128: the shift count is `Sb`[5:0]. -/
def shiftCount (v : Word64) : Nat := v.toNat % 64

/-- R128. -/
def execShl (p : Fin 8) (d a b : Fin 32) (s : State) : Answer :=
  .next (sclWrite p d (fun x => x.rs a <<< shiftCount (x.rs b)) s)

/-- R128. -/
def execShr (p : Fin 8) (d a b : Fin 32) (s : State) : Answer :=
  .next (sclWrite p d (fun x => x.rs a >>> shiftCount (x.rs b)) s)

/-- R128. -/
def execSar (p : Fin 8) (d a b : Fin 32) (s : State) : Answer :=
  .next (sclWrite p d (fun x => (x.rs a).sshiftRight (shiftCount (x.rs b))) s)

/-- R128. -/
def execRotl (p : Fin 8) (d a b : Fin 32) (s : State) : Answer :=
  .next (sclWrite p d (fun x => (x.rs a).rotateLeft (shiftCount (x.rs b))) s)

/-- R128: signed. -/
def execMin (p : Fin 8) (d a b : Fin 32) (s : State) : Answer :=
  .next (sclWrite p d (fun x => if (x.rs a).slt (x.rs b) then x.rs a else x.rs b) s)

/-- R128: signed. -/
def execMax (p : Fin 8) (d a b : Fin 32) (s : State) : Answer :=
  .next (sclWrite p d (fun x => if (x.rs a).slt (x.rs b) then x.rs b else x.rs a) s)

/-- R128: unsigned. -/
def execMinz (p : Fin 8) (d a b : Fin 32) (s : State) : Answer :=
  .next (sclWrite p d (fun x => if (x.rs a).ult (x.rs b) then x.rs a else x.rs b) s)

/-- R128: unsigned. -/
def execMaxz (p : Fin 8) (d a b : Fin 32) (s : State) : Answer :=
  .next (sclWrite p d (fun x => if (x.rs a).ult (x.rs b) then x.rs b else x.rs a) s)

/-- R128. -/
def execClz (p : Fin 8) (d a : Fin 32) (s : State) : Answer :=
  .next (sclWrite p d (fun x => w64 (leadingZeros (x.rs a) 64)) s)

/-- R128. -/
def execCtz (p : Fin 8) (d a : Fin 32) (s : State) : Answer :=
  .next (sclWrite p d (fun x => w64 (trailingZeros (x.rs a) 64)) s)

/-- R128. -/
def execPopc (p : Fin 8) (d a : Fin 32) (s : State) : Answer :=
  .next (sclWrite p d (fun x => w64 (oneBits (x.rs a))) s)

/-- R128. -/
def execMov (p : Fin 8) (d a : Fin 32) (s : State) : Answer :=
  .next (sclWrite p d (fun x => x.rs a) s)

/-- R129. -/
def execAddi (p : Fin 8) (d a : Fin 32) (i : BitVec 12) (s : State) : Answer :=
  .next (sclWrite p d (fun x => x.rs a + i.signExtend 64) s)

/-- R129. -/
def execLi (p : Fin 8) (d : Fin 32) (i : BitVec 17) (s : State) : Answer :=
  .next (sclWrite p d (fun _ => i.signExtend 64) s)

/-- R129: replace bits [16k+15:16k], keep the others. -/
def execLui (k : Fin 4) (p : Fin 8) (d : Fin 32) (i : BitVec 16) (s : State) : Answer :=
  .next (sclWrite p d (fun x =>
    (x.rs d &&& ~~~(0xFFFF#64 <<< (16 * k.val))) ||| (i.setWidth 64 <<< (16 * k.val))) s)

/-- R130. -/
def execCmp (p d : Fin 8) (cc : Cc) (a b : Fin 32) (s : State) : Answer :=
  .next (gated p s fun s => updCur s fun x => x.wp d (ccHolds cc (x.rs a) (x.rs b)))

/-- R130. -/
def execCmpi (p d : Fin 8) (cc : Cc) (a : Fin 32) (i : BitVec 11) (s : State) : Answer :=
  .next (gated p s fun s => updCur s fun x => x.wp d (ccHolds cc (x.rs a) (i.signExtend 64)))

/-- R130. -/
def execSel (p : Fin 8) (d : Fin 32) (pa : Fin 8) (a b : Fin 32) (s : State) : Answer :=
  .next (sclWrite p d (fun x => if x.rp pa then x.rs a else x.rs b) s)

/-- R130: bit (2 Pa + Pb) of the table. -/
def execPlog (p d pa pb : Fin 8) (t : BitVec 4) (s : State) : Answer :=
  .next (gated p s fun s => updCur s fun x =>
    x.wp d (t.getLsbD (2 * (x.rp pa).toNat + (x.rp pb).toNat)))

/-- Put a capability register. -/
def Arr.wh (x : Arr) (d : Fin 16) (c : Cap) : Arr := { x with regs := { x.regs with h := x.regs.h.set d c } }

/-- R131. -/
def execCapnarrow (p : Fin 8) (d h : Fin 16) (a b : Fin 32) (s : State) : Answer :=
  .next (gated p s fun s => updCur s fun x =>
    let c := x.rh h
    let lo := (x.rs a).toNat
    let n := (x.rs b).toNat
    if c.valid = false then x.capFault 1 1 h.val
    else if c.has Right.narrow = false then x.capFault 1 2 h.val
    else if 2 ^ 48 ≤ lo ∨ 2 ^ 48 ≤ n ∨ c.len.toNat < lo + n then x.capFault 1 3 h.val
    else x.wh d { c with lower := c.lower + BitVec.ofNat 48 lo, len := BitVec.ofNat 48 n })

/-- R131. -/
def execCapoff (p : Fin 8) (d h : Fin 16) (rm : BitVec 8) (s : State) : Answer :=
  .next (gated p s fun s => updCur s fun x =>
    let c := x.rh h
    if c.valid = false then x.capFault 1 1 h.val
    else x.wh d { c with rights := c.rights &&& ~~~rm })

/-- R132: an invalid capability reads 0 in every field. -/
def capInfo (c : Cap) (f : CapField) : Word64 :=
  if c.valid = false then 0
  else match f with
    | .base => c.lower.setWidth 64
    | .len => c.len.setWidth 64
    | .rights => c.rights.setWidth 64 <<< 24 ||| c.obj.setWidth 64
    | .tag => 1

/-- R132. -/
def execCapinfo (p : Fin 8) (d : Fin 32) (h : Fin 16) (f : CapField) (s : State) : Answer :=
  .next (sclWrite p d (fun x => capInfo (x.rh h) f) s)

/-- R131: clear the valid tag. -/
def execCapdrop (p : Fin 8) (d : Fin 16) (s : State) : Answer :=
  .next (gated p s fun s => updCur s fun x => x.wh d { x.rh d with valid := false })

/-- R134. -/
def execMaskld (p d : Fin 8) (a : Fin 32) (s : State) : Answer :=
  .next (gated p s fun s => updCur s fun x =>
    { x with regs := { x.regs with m := x.regs.m.set d (x.rs a) } })

/-- R134: rotate left by `Sa`[5:0]. -/
def execMaskrot (p d ma : Fin 8) (a : Fin 32) (s : State) : Answer :=
  .next (gated p s fun s => updCur s fun x =>
    { x with regs := { x.regs with m := x.regs.m.set d (x.snap.m[ma].rotateLeft ((x.rs a).toNat % 64)) } })

end Sys2Proof.Machine
end

