-- ==== Sys2Proof/Machine/Dispatch.lean ====
section
/-! DEFINITION. One arm for each operation of the part: the meaning it calls. -/

namespace Sys2Proof.Machine

def exec (i : Instr) (s : State) : Host.Outcome State Fault Refusal :=
  match i with
  | .nop => Sys2Proof.Machine.execNop s
  | .br p off => Sys2Proof.Machine.execBr p off s
  | .brp p n sense off => Sys2Proof.Machine.execBrp p n sense off s
  | .jmpi p a => Sys2Proof.Machine.execJmpi p a s
  | .call p off => Sys2Proof.Machine.execCall p off s
  | .ret p => Sys2Proof.Machine.execRet p s
  | .loop p l a off => Sys2Proof.Machine.execLoop p l a off s
  | .endloop p l => Sys2Proof.Machine.execEndloop p l s
  | .flagbr p g all sense off => Sys2Proof.Machine.execFlagbr p g all sense off s
  | .scope p s1 => Sys2Proof.Machine.execScope p s1 s
  | .sync p g => Sys2Proof.Machine.execSync p g s
  | .realign p => Sys2Proof.Machine.execRealign p s
  | .freeze p n => Sys2Proof.Machine.execFreeze p n s
  | .swait p q n => Sys2Proof.Machine.execSwait p q n s
  | .phase p => Sys2Proof.Machine.execPhase p s
  | .phcancel p => Sys2Proof.Machine.execPhcancel p s
  | .retire p => Sys2Proof.Machine.execRetire p s
  | .lease p n => Sys2Proof.Machine.execLease p n s
  | .lfree p => Sys2Proof.Machine.execLfree p s
  | .sprint p d level ms => Sys2Proof.Machine.execSprint p d level ms s
  | .sprfree p => Sys2Proof.Machine.execSprfree p s
  | .leave p c n => Sys2Proof.Machine.execLeave p c n s
  | .trap p code => Sys2Proof.Machine.execTrap p code s
  | .xret p => Sys2Proof.Machine.execXret p s
  | .brk p code => Sys2Proof.Machine.execBrk p code s
  | .csrr p d c => Sys2Proof.Machine.execCsrr p d c s
  | .csrw p a c => Sys2Proof.Machine.execCsrw p a c s
  | .csrs p a c => Sys2Proof.Machine.execCsrs p a c s
  | .csrc p a c => Sys2Proof.Machine.execCsrc p a c s
  | .tend p => Sys2Proof.Machine.execTend p s
  | .add p d a b => Sys2Proof.Machine.execAdd p d a b s
  | .sub p d a b => Sys2Proof.Machine.execSub p d a b s
  | .mul p d a b => Sys2Proof.Machine.execMul p d a b s
  | .mulh p d a b => Sys2Proof.Machine.execMulh p d a b s
  | .mulhz p d a b => Sys2Proof.Machine.execMulhz p d a b s
  | .and p d a b => Sys2Proof.Machine.execAnd p d a b s
  | .andn p d a b => Sys2Proof.Machine.execAndn p d a b s
  | .or p d a b => Sys2Proof.Machine.execOr p d a b s
  | .xor p d a b => Sys2Proof.Machine.execXor p d a b s
  | .shl p d a b => Sys2Proof.Machine.execShl p d a b s
  | .shr p d a b => Sys2Proof.Machine.execShr p d a b s
  | .sar p d a b => Sys2Proof.Machine.execSar p d a b s
  | .rotl p d a b => Sys2Proof.Machine.execRotl p d a b s
  | .min p d a b => Sys2Proof.Machine.execMin p d a b s
  | .max p d a b => Sys2Proof.Machine.execMax p d a b s
  | .minz p d a b => Sys2Proof.Machine.execMinz p d a b s
  | .maxz p d a b => Sys2Proof.Machine.execMaxz p d a b s
  | .clz p d a => Sys2Proof.Machine.execClz p d a s
  | .ctz p d a => Sys2Proof.Machine.execCtz p d a s
  | .popc p d a => Sys2Proof.Machine.execPopc p d a s
  | .mov p d a => Sys2Proof.Machine.execMov p d a s
  | .addi p d a imm => Sys2Proof.Machine.execAddi p d a imm s
  | .li p d imm => Sys2Proof.Machine.execLi p d imm s
  | .lui k p d imm => Sys2Proof.Machine.execLui k p d imm s
  | .cmp p d cc a b => Sys2Proof.Machine.execCmp p d cc a b s
  | .cmpi p d cc a imm => Sys2Proof.Machine.execCmpi p d cc a imm s
  | .sel p d pa a b => Sys2Proof.Machine.execSel p d pa a b s
  | .plog p d pa pb t => Sys2Proof.Machine.execPlog p d pa pb t s
  | .capnarrow p d h a b => Sys2Proof.Machine.execCapnarrow p d h a b s
  | .capoff p d h rm => Sys2Proof.Machine.execCapoff p d h rm s
  | .capinfo p d h f => Sys2Proof.Machine.execCapinfo p d h f s
  | .capdrop p d => Sys2Proof.Machine.execCapdrop p d s
  | .maskld p d a => Sys2Proof.Machine.execMaskld p d a s
  | .maskrot p d ma a => Sys2Proof.Machine.execMaskrot p d ma a s
  | .ld p d h o w imm => Sys2Proof.Machine.execLd p d h o w imm s
  | .st p v h o w imm => Sys2Proof.Machine.execSt p v h o w imm s
  | .ldp p d h o imm => Sys2Proof.Machine.execLdp p d h o imm s
  | .stp p v h o imm => Sys2Proof.Machine.execStp p v h o imm s
  | .mark p => Sys2Proof.Machine.execMark p s
  | .fence p s1 => Sys2Proof.Machine.execFence p s1 s
  | .amoAdd p d h o v w => Sys2Proof.Machine.execAmoAdd p d h o v w s
  | .amoAnd p d h o v w => Sys2Proof.Machine.execAmoAnd p d h o v w s
  | .amoOr p d h o v w => Sys2Proof.Machine.execAmoOr p d h o v w s
  | .amoXor p d h o v w => Sys2Proof.Machine.execAmoXor p d h o v w s
  | .amoMin p d h o v w => Sys2Proof.Machine.execAmoMin p d h o v w s
  | .amoMax p d h o v w => Sys2Proof.Machine.execAmoMax p d h o v w s
  | .amoMinz p d h o v w => Sys2Proof.Machine.execAmoMinz p d h o v w s
  | .amoMaxz p d h o v w => Sys2Proof.Machine.execAmoMaxz p d h o v w s
  | .amoSwap p d h o v w => Sys2Proof.Machine.execAmoSwap p d h o v w s
  | .cas p d h o v w => Sys2Proof.Machine.execCas p d h o v w s
  | .redAdd p h o v w => Sys2Proof.Machine.execRedAdd p h o v w s
  | .redAnd p h o v w => Sys2Proof.Machine.execRedAnd p h o v w s
  | .redOr p h o v w => Sys2Proof.Machine.execRedOr p h o v w s
  | .redXor p h o v w => Sys2Proof.Machine.execRedXor p h o v w s
  | .redMin p h o v w => Sys2Proof.Machine.execRedMin p h o v w s
  | .redMax p h o v w => Sys2Proof.Machine.execRedMax p h o v w s
  | .redFadd p h o v => Sys2Proof.Machine.execRedFadd p h o v s
  | .strmBind p q h o hd => Sys2Proof.Machine.execStrmBind p q h o hd s
  | .strmAdv p q a => Sys2Proof.Machine.execStrmAdv p q a s
  | .strmLvl p d q => Sys2Proof.Machine.execStrmLvl p d q s
  | .strmRew p q => Sys2Proof.Machine.execStrmRew p q s
  | .cpySet p n h o => Sys2Proof.Machine.execCpySet p n h o s
  | .cpyGo p n => Sys2Proof.Machine.execCpyGo p n s
  | .cpyStage p n s1 => Sys2Proof.Machine.execCpyStage p n s1 s
  | .cpbinv p imm => Sys2Proof.Machine.execCpbinv p imm s
  | .tlWait p d t a => Sys2Proof.Machine.execTlWait p d t a s
  | .tlRead p d t => Sys2Proof.Machine.execTlRead p d t s
  | .tlBump p => Sys2Proof.Machine.execTlBump p s
  | .barInit p a b => Sys2Proof.Machine.execBarInit p a b s
  | .barArr p b => Sys2Proof.Machine.execBarArr p b s
  | .barDrop p b => Sys2Proof.Machine.execBarDrop p b s
  | .barXp p a b => Sys2Proof.Machine.execBarXp p a b s
  | .barWait p d b => Sys2Proof.Machine.execBarWait p d b s
  | .barTest p b d => Sys2Proof.Machine.execBarTest p b d s
  | .evSig p e => Sys2Proof.Machine.execEvSig p e s
  | .tlaunch p h o => Sys2Proof.Machine.execTlaunch p h o s
  | .probe p d h o l => Sys2Proof.Machine.execProbe p d h o l s
  | .unpin p h o l => Sys2Proof.Machine.execUnpin p h o l s
  | .prefetch p h o l => Sys2Proof.Machine.execPrefetch p h o l s
  | .evict p h o l => Sys2Proof.Machine.execEvict p h o l s
  | .role p n r v => Sys2Proof.Machine.execRole p n r v s
  | .fnPop p q k n => Sys2Proof.Machine.execFnPop p q k n s
  | .fnPopt p q k l n => Sys2Proof.Machine.execFnPopt p q k l n s
  | .fnZero p n => Sys2Proof.Machine.execFnZero p n s
  | .fnHold p => Sys2Proof.Machine.execFnHold p s
  | .fnBcast p q n => Sys2Proof.Machine.execFnBcast p q n s
  | .fnTag p a => Sys2Proof.Machine.execFnTag p a s
  | .fnSkew p k => Sys2Proof.Machine.execFnSkew p k s
  | .fwPop p q k n => Sys2Proof.Machine.execFwPop p q k n s
  | .fwPopt p q k l n => Sys2Proof.Machine.execFwPopt p q k l n s
  | .fwZero p n => Sys2Proof.Machine.execFwZero p n s
  | .fwHold p => Sys2Proof.Machine.execFwHold p s
  | .fwBcast p q n => Sys2Proof.Machine.execFwBcast p q n s
  | .fwTag p a => Sys2Proof.Machine.execFwTag p a s
  | .fwSkew p k => Sys2Proof.Machine.execFwSkew p k s
  | .waveMov n m d a e => Sys2Proof.Machine.execWaveMov n m d a e s
  | .movi n m d imm e => Sys2Proof.Machine.execMovi n m d imm e s
  | .waveAdd n m d a b e => Sys2Proof.Machine.execWaveAdd n m d a b e s
  | .waveSub n m d a b e => Sys2Proof.Machine.execWaveSub n m d a b e s
  | .waveMul n m d a b e => Sys2Proof.Machine.execWaveMul n m d a b e s
  | .fma n m d a b e => Sys2Proof.Machine.execFma n m d a b e s
  | .waveMin n m d a b e => Sys2Proof.Machine.execWaveMin n m d a b e s
  | .waveMax n m d a b e => Sys2Proof.Machine.execWaveMax n m d a b e s
  | .abs n m d a e => Sys2Proof.Machine.execAbs n m d a e s
  | .neg n m d a e => Sys2Proof.Machine.execNeg n m d a e s
  | .waveCmp n m cc g a b e => Sys2Proof.Machine.execWaveCmp n m cc g a b e s
  | .selg n m d a b g => Sys2Proof.Machine.execSelg n m d a b g s
  | .waveAnd n m d a b e => Sys2Proof.Machine.execWaveAnd n m d a b e s
  | .waveOr n m d a b e => Sys2Proof.Machine.execWaveOr n m d a b e s
  | .waveXor n m d a b e => Sys2Proof.Machine.execWaveXor n m d a b e s
  | .waveShl n m d a b e => Sys2Proof.Machine.execWaveShl n m d a b e s
  | .waveShr n m d a b e => Sys2Proof.Machine.execWaveShr n m d a b e s
  | .waveSar n m d a b e => Sys2Proof.Machine.execWaveSar n m d a b e s
  | .pack n m d a b l => Sys2Proof.Machine.execPack n m d a b l s
  | .unpk n m d a hi l => Sys2Proof.Machine.execUnpk n m d a hi l s
  | .mma n m pass t a b f => Sys2Proof.Machine.execMma n m pass t a b f s
  | .mmaz n m pass t a b f => Sys2Proof.Machine.execMmaz n m pass t a b f s
  | .mmas n m pass t a b f => Sys2Proof.Machine.execMmas n m pass t a b f s
  | .accz n m t w128 => Sys2Proof.Machine.execAccz n m t w128 s
  | .accld n m t k => Sys2Proof.Machine.execAccld n m t k s
  | .accst n m t k => Sys2Proof.Machine.execAccst n m t k s
  | .lds n m d k imm => Sys2Proof.Machine.execLds n m d k imm s
  | .sts n m k a imm => Sys2Proof.Machine.execSts n m k a imm s
  | .kset n m k imm => Sys2Proof.Machine.execKset n m k imm s
  | .kadd n m k imm => Sys2Proof.Machine.execKadd n m k imm s
  | .perm n m d a b l => Sys2Proof.Machine.execPerm n m d a b l s
  | .xpose n m d a l => Sys2Proof.Machine.execXpose n m d a l s
  | .shuf n m d a b pat => Sys2Proof.Machine.execShuf n m d a b pat s
  | .exp2 n m d a => Sys2Proof.Machine.execExp2 n m d a s
  | .log2 n m d a => Sys2Proof.Machine.execLog2 n m d a s
  | .rcp n m d a => Sys2Proof.Machine.execRcp n m d a s
  | .rsq n m d a => Sys2Proof.Machine.execRsq n m d a s
  | .rng n m d kind dom => Sys2Proof.Machine.execRng n m d kind dom s
  | .noise n m d e => Sys2Proof.Machine.execNoise n m d e s
  | .dot n m d a b e => Sys2Proof.Machine.execDot n m d a b e s
  | .sumr n m d a e => Sys2Proof.Machine.execSumr n m d a e s
  | .prefixSum n m d a b e => Sys2Proof.Machine.execPrefixSum n m d a b e s
  | .flag n m cc g a e => Sys2Proof.Machine.execFlag n m cc g a e s
  | .gset n m g v => Sys2Proof.Machine.execGset n m g v s
  | .tmk n m d a b cls => Sys2Proof.Machine.execTmk n m d a b cls s
  | .cvt f n m d a src r => Sys2Proof.Machine.execCvt f n m d a src r s
  | .drain f n m s1 x dr t a b r => Sys2Proof.Machine.execDrain f n m s1 x dr t a b r s
  | .rsSet p travel a => Sys2Proof.Machine.execRsSet p travel a s
  | .rsAll p => Sys2Proof.Machine.execRsAll p s
  | .rsNone p => Sys2Proof.Machine.execRsNone p s
  | .rsRow p imm => Sys2Proof.Machine.execRsRow p imm s
  | .rsBand p lo hi => Sys2Proof.Machine.execRsBand p lo hi s
  | .ecPush p q n => Sys2Proof.Machine.execEcPush p q n s
  | .scPush p q n => Sys2Proof.Machine.execScPush p q n s
  | .ecDisc p n => Sys2Proof.Machine.execEcDisc p n s
  | .ecTopk p n => Sys2Proof.Machine.execEcTopk p n s
  | .tkInit p k f low => Sys2Proof.Machine.execTkInit p k f low s
  | .tkMerge p q => Sys2Proof.Machine.execTkMerge p q s
  | .tkRead p q => Sys2Proof.Machine.execTkRead p q s
  | .tkCnt p d => Sys2Proof.Machine.execTkCnt p d s
  | .aggRd p d g k => Sys2Proof.Machine.execAggRd p d g k s
  | .ecTmk p q => Sys2Proof.Machine.execEcTmk p q s
  | .scChain p on => Sys2Proof.Machine.execScChain p on s
  | .loadLands a id => Sys2Proof.Machine.execLoadLands a id s
  | .freezeEnd a => Sys2Proof.Machine.execFreezeEnd a s
  | .syncRelease a => Sys2Proof.Machine.execSyncRelease a s
  | .streamDescriptorArrives a q => Sys2Proof.Machine.execStreamDescriptorArrives a q s
  | .streamFetch a q => Sys2Proof.Machine.execStreamFetch a q s
  | .copyBlockArrives a id => Sys2Proof.Machine.execCopyBlockArrives a id s
  | .scheduledCopyStart cl tc => Sys2Proof.Machine.execScheduledCopyStart cl tc s
  | .copyCompletes cl tc sectors mismatch => Sys2Proof.Machine.execCopyCompletes cl tc sectors mismatch s
  | .tlWaitLands a id => Sys2Proof.Machine.execTlWaitLands a id s
  | .barrierFormApplied a id => Sys2Proof.Machine.execBarrierFormApplied a id s
  | .barWaitLands a id => Sys2Proof.Machine.execBarWaitLands a id s
  | .storeArrivesAtHome a id => Sys2Proof.Machine.execStoreArrivesAtHome a id s
  | .atomicApplied a id mismatches => Sys2Proof.Machine.execAtomicApplied a id mismatches s
  | .markChangeArrives k => Sys2Proof.Machine.execMarkChangeArrives k s
  | .writeBack cl line => Sys2Proof.Machine.execWriteBack cl line s
  | .roleChangeApplied a id => Sys2Proof.Machine.execRoleChangeApplied a id s
  | .probeAnswer a id timeout => Sys2Proof.Machine.execProbeAnswer a id timeout s
  | .relocationCopyComplete ctx obj page => Sys2Proof.Machine.execRelocationCopyComplete ctx obj page s
  | .movedAnswer a id => Sys2Proof.Machine.execMovedAnswer a id s
  | .pageRetirementStep ctx obj page => Sys2Proof.Machine.execPageRetirementStep ctx obj page s
  | .retirementOverdue a => Sys2Proof.Machine.execRetirementOverdue a s
  | .trapTaken a => Sys2Proof.Machine.execTrapTaken a s
  | .automaticCancel a checker => Sys2Proof.Machine.execAutomaticCancel a checker s
  | .phaseRollback a => Sys2Proof.Machine.execPhaseRollback a s
  | .taskCompletes tid => Sys2Proof.Machine.execTaskCompletes tid s
  | .queueEntryRead q => Sys2Proof.Machine.execQueueEntryRead q s
  | .eventSignal ctx name => Sys2Proof.Machine.execEventSignal ctx name s
  | .stagingComplete tid => Sys2Proof.Machine.execStagingComplete tid s
  | .taskPlacement tid arrs => Sys2Proof.Machine.execTaskPlacement tid arrs s
  | .preemptionRequest tid waiter => Sys2Proof.Machine.execPreemptionRequest tid waiter s
  | .deficitExpiry tid => Sys2Proof.Machine.execDeficitExpiry tid s
  | .taskSave tid => Sys2Proof.Machine.execTaskSave tid s
  | .taskRestore tid arrs errors => Sys2Proof.Machine.execTaskRestore tid arrs errors s
  | .leaveGrant die => Sys2Proof.Machine.execLeaveGrant die s
  | .leaveExpiry a => Sys2Proof.Machine.execLeaveExpiry a s
  | .sprintAnswer a => Sys2Proof.Machine.execSprintAnswer a s
  | .bellowsLeaseExpiry tid => Sys2Proof.Machine.execBellowsLeaseExpiry tid s
  | .domainBarrierArrival id pkg => Sys2Proof.Machine.execDomainBarrierArrival id pkg s
  | .domainBarrierCompletion id => Sys2Proof.Machine.execDomainBarrierCompletion id s
  | .domainBarrierTimeout id => Sys2Proof.Machine.execDomainBarrierTimeout id s
  | .switchIngressVerify grp c => Sys2Proof.Machine.execSwitchIngressVerify grp c s
  | .landingPortVerify grp chunk received => Sys2Proof.Machine.execLandingPortVerify grp chunk received s
  | .roundClose grp chunk => Sys2Proof.Machine.execRoundClose grp chunk s
  | .touchmarkReport k => Sys2Proof.Machine.execTouchmarkReport k s
  | .pageQuarantine page => Sys2Proof.Machine.execPageQuarantine page s
  | .capacityPageEvicted ctx obj page => Sys2Proof.Machine.execCapacityPageEvicted ctx obj page s
  | .domainBarrierPackageDrop id pkg => Sys2Proof.Machine.execDomainBarrierPackageDrop id pkg s
  | .cellStepExecute a imm j => Sys2Proof.Machine.execCellStepExecute a imm j s
  | .feederBeat a west => Sys2Proof.Machine.execFeederBeat a west s
  | .popStallCompletes a west => Sys2Proof.Machine.execPopStallCompletes a west s
  | .collectorCapture a => Sys2Proof.Machine.execCollectorCapture a s
  | .swaitRelease a => Sys2Proof.Machine.execSwaitRelease a s
  | .cacheMissFill cl line bad => Sys2Proof.Machine.execCacheMissFill cl line bad s
  | .pageWalk ctx obj page wr => Sys2Proof.Machine.execPageWalk ctx obj page wr s
  | .translationInvalidate ctx obj page => Sys2Proof.Machine.execTranslationInvalidate ctx obj page s
  | .pageRelocation ctx obj page pkg base => Sys2Proof.Machine.execPageRelocation ctx obj page pkg base s
  | .activeArrayCycle a => Sys2Proof.Machine.execActiveArrayCycle a s
  | .frozenArrayCycle a => Sys2Proof.Machine.execFrozenArrayCycle a s
  | .fatalContextError ctx info => Sys2Proof.Machine.execFatalContextError ctx info s
  | .meltUpdate watts correction => Sys2Proof.Machine.execMeltUpdate watts correction s
  | .railAlarm die ceiling => Sys2Proof.Machine.execRailAlarm die ceiling s
  | .coolantFlowAlarm decilitres => Sys2Proof.Machine.execCoolantFlowAlarm decilitres s
  | .lidSensorAlarm sensor celsius => Sys2Proof.Machine.execLidSensorAlarm sensor celsius s
  | .junctionAlarm die celsius ceiling => Sys2Proof.Machine.execJunctionAlarm die celsius ceiling s
  | .absenceToken id pkg => Sys2Proof.Machine.execAbsenceToken id pkg s
  | .presenceToken id pkg => Sys2Proof.Machine.execPresenceToken id pkg s
  | .patrolScrub stack sector bad => Sys2Proof.Machine.execPatrolScrub stack sector bad s
  | .refreshManagement stack bank row => Sys2Proof.Machine.execRefreshManagement stack bank row s
  | .alertBackOff stack bank => Sys2Proof.Machine.execAlertBackOff stack bank s
  | .remapTableError stack pseudoChannel mirrorOk => Sys2Proof.Machine.execRemapTableError stack pseudoChannel mirrorOk s
  | .hostCxlMemAccess offset write => Sys2Proof.Machine.execHostCxlMemAccess offset write s
  | .qtailWrite q v => Sys2Proof.Machine.execQtailWrite q v s
  | .qcfgWrite q v => Sys2Proof.Machine.execQcfgWrite q v s
  | .evsigWrite v => Sys2Proof.Machine.execEvsigWrite v s
  | .alarmWrite v => Sys2Proof.Machine.execAlarmWrite v s
  | .linkenWrite v => Sys2Proof.Machine.execLinkenWrite v s
  | .registerWrite offset v => Sys2Proof.Machine.execRegisterWrite offset v s
  | .flitCrcFail port => Sys2Proof.Machine.execFlitCrcFail port s
  | .portDown port => Sys2Proof.Machine.execPortDown port s
  | .routerStop input vc freeFlits => Sys2Proof.Machine.execRouterStop input vc freeFlits s
  | .ucieTrainingFail m => Sys2Proof.Machine.execUcieTrainingFail m s
  | .packageReset images => Sys2Proof.Machine.execPackageReset images s
  | .functionReady bit ready failed => Sys2Proof.Machine.execFunctionReady bit ready failed s
  | .capacityPageStaged ctx obj page base => Sys2Proof.Machine.execCapacityPageStaged ctx obj page base s
  | .pageRetirementStart ctx obj page base => Sys2Proof.Machine.execPageRetirementStart ctx obj page base s
  | .remoteAccessArrives r => Sys2Proof.Machine.execRemoteAccessArrives r s
  | .deviceLaunch => Sys2Proof.Machine.execDeviceLaunch s
  | .clockLevelChange => Sys2Proof.Machine.execClockLevelChange s
  | .refreezeEnd => Sys2Proof.Machine.execRefreezeEnd s
  | .createObject => Sys2Proof.Machine.execCreateObject s
  | .destroyObject => Sys2Proof.Machine.execDestroyObject s
  | .freeEvent => Sys2Proof.Machine.execFreeEvent s
  | .registerReductionGroup => Sys2Proof.Machine.execRegisterReductionGroup s
  | .releaseReductionGroup => Sys2Proof.Machine.execReleaseReductionGroup s
  | .badCommand => Sys2Proof.Machine.execBadCommand s
  | .attest => Sys2Proof.Machine.execAttest s

end Sys2Proof.Machine
end

