-- ==== Sys2Proof/Machine/Schedule.lean ====
section
/-! DEFINITION. Which operation a step makes (R8, R15, R20, R32, R106, R108, R113, R120, R121, R335, R339): the slot of a
bundle that is issuing, the end of its cycle, or one of the operations that may happen next. -/

namespace Sys2Proof.Machine

/-! ### The slots of a bundle -/

/-- The slot that an array's sequencer has reached, where its bundle is issuing. -/
def Arr.slot (x : Arr) : Option Nat :=
  match x.run with
  | .issuing k => if k < 8 then some k else none
  | _ => none

/-- R15: the array whose bundle goes on: the one that moved last, or else another. -/
def issuingArr (s : State) : Option (Fin 32) :=
  if (curA s).slot.isSome then some s.cur else (List.finRange 32).find? fun a => (getA s a).slot.isSome

/-- R15, R39: slot `k` of the bundle that is issuing: its word is checked and its form runs. -/
def runSlot (s : State) (k : Nat) : Answer :=
  match slotPlan s k with
  | .pass => .next (updCur s fun x => x.advance k)
  | .fault x => .next (setA s s.cur x)
  | .run i =>
    match exec i s with
    | .next t => .next (updCur t fun x => x.advance k)
    | r => r

/-! ### Cycles of the arrays that act as one -/

/-- The model's free counter moves on, and time passes (R36). -/
def tick (s : State) : State := bump { s with ptime := s.ptime + Config.elapsed s.freeCtr }

/-- The unit whose bundles have issued, if any. -/
def endingUnit (s : State) : Option (List (Fin 32)) :=
  ((List.finRange 32).find? fun a => decide ((getA s a).run = .issuing 8)).map (lockstep s)

/-- What a sequencer does before the next cycle of its unit: answers due, traps, the end of a rollback or a wait. -/
def urgent (s : State) (m : Fin 32) : Option Instr :=
  let x := getA s m
  if let some i := x.answerDue m then some i
  else if x.overdue then some (.retirementOverdue m)
  else if x.trapsTaken && x.trapPending then some (.trapTaken m)
  else if decide (x.run = .rolling) && x.traps.any fun t => decide (t.cause.cls = .cancel) then
    some (.automaticCancel m none)
  else if (tall s m).all fun n => rollbackReady s n then
    some (.phaseRollback m)
  else if x.run = .waiting (.freeze 0) then some (.freezeEnd m)
  else none

/-- Whether anything of an array still moves. -/
def Arr.active (x : Arr) : Bool :=
  decide (x.run ≠ .off) || x.steps.any (fun w => w.op.isSome) || !x.captures.isEmpty
    || !x.north.writes.isEmpty || !x.west.writes.isEmpty || x.cells.any fun e => !e.2.pend.isEmpty

/-- One move of the unit of an array. -/
def moveUnit (s : State) (a : Fin 32) : Answer :=
  let us := lockstep s a
  match us.findSome? (urgent s) with
  | some i => exec i s
  | none =>
    match us.find? fun m => (syncRelease s m).isSome with
    | some m => exec (.syncRelease m) s
    | none => .next (beginCycle s us)

/-! ### Operations of the other agents -/

/-- What the agents behind a sequencer's queues and its streams may do next. -/
def arrayEvents (s : State) (a : Fin 32) : List Instr :=
  let x := getA s a
  (x.queue.flatMap fun e =>
    [.loadLands a (e.id, .clean), .tlWaitLands a e.id, .barrierFormApplied a (e.id, 0), .barWaitLands a e.id
    , .storeArrivesAtHome a (e.id, 0, false), .atomicApplied a e.id (0, .clean), .roleChangeApplied a e.id
    , .probeAnswer a e.id false, .copyBlockArrives a (e.id, .clean, .clean), .movedAnswer a e.id])
    ++ ((List.finRange 16).flatMap fun q => [.streamDescriptorArrives a (q, .clean, .clean), .streamFetch a (q, .clean, [])])
    ++ [.sprintAnswer a, .leaveExpiry a]
    ++ (x.queue.filterMap fun e => match e.op with
      | .evSig n => some (.eventSignal x.ctx n)
      | _ => none)

/-- R364: the contribution of a copy of this package to a window, as the wire delivers it unharmed. -/
def ownContribution (s : State) (cl : Fin 8) (tc : Fin 16) : List Instr :=
  match windowOf s cl tc with
  | none => []
  | some (g, m, c) =>
    let ctx := (getA s (ownerOf cl tc)).ctx
    match objFind s ctx c.block.src.obj with
    | none => []
    | some e =>
      let k := (match c.row with | some r => r.1 | none => c.block.src.at (c.block.srcAt 0)) / 4096
      let away := (remoteHome s ctx c.block.src.obj e (4096 * k)).isSome
      let v := (sourceChunk (bump s) ctx c.block.src.obj e k away).2.2.1
      [.switchIngressVerify g.number (⟨s.pkgnum, m, BitVec.ofNat 32768 v, false, 0, 0, 0, 0⟩, 0)]

/-- What the tongs and the clusters may do next. -/
def clusterEvents (s : State) : List Instr :=
  (allTongs.flatMap fun p =>
    [.scheduledCopyStart p.1 (p.2, .clean, .clean), .copyCompletes p.1 p.2 1 (false, .clean, 0)] ++ ownContribution s p.1 p.2)
    ++ ((List.finRange 8).flatMap fun c => 
      (s.clusters[c].lines.map fun l => .writeBack c l.1)
        ++ (s.clusters[c].writeBacks.map fun e => .writeBack c e.line)
        ++ s.clusters[c].misses.map fun e => .cacheMissFill c e.line 0)

/-- What the memory system and the network may do next. -/
def memoryEvents (s : State) : List Instr :=
  ((List.range s.markMsgs.length).map .markChangeArrives)
    ++ ((s.moves ++ s.port.moves).flatMap fun m =>
      [.pageRetirementStep m.ctx m.obj m.page, .relocationCopyComplete m.ctx m.obj m.page])
    ++ (s.evictJobs.map fun j => .capacityPageEvicted j.ctx j.obj j.page)
    ++ (s.toQuarantine.map .pageQuarantine)
    ++ (s.groups.flatMap fun g => g.sent.flatMap fun r =>
      [.landingPortVerify g.number (r.chunk, s.pkgnum) r.payload, .roundClose g.number (r.chunk, 0)])
    ++ ((List.range s.reports.length).map .touchmarkReport)

/-- R305: the placements that a task may be given. -/
def placements (s : State) (t : Task) : List (List (Fin 32)) :=
  (choose t.record.arrays (freeArrs s)).filter (shapeOk t.record)

/-- What the command processor, the governor and the slack-tub controller may do next. -/
def systemEvents (s : State) : List Instr :=
  ((List.finRange 64).map .queueEntryRead)
    ++ [.deviceLaunch, .createObject, .destroyObject, .freeEvent, .registerReductionGroup
      , .releaseReductionGroup, .badCommand, .attest, .clockLevelChange, .refreezeEnd]
    ++ (s.events.filterMap fun e => if e.leaving.isEmpty then none else some (.eventSignal e.ctx e.name))
    ++ (s.tasks.flatMap fun t =>
      [.taskCompletes t.tid, .stagingComplete t.tid, .deficitExpiry t.tid, .taskSave (t.tid, BitVec.ofNat 48 (65536 * Config.pick s.freeCtr))
      , .bellowsLeaseExpiry t.tid]
        ++ (s.tasks.map fun u => .preemptionRequest t.tid u.tid)
        ++ (placements s t).flatMap fun l => [.taskPlacement t.tid l, .taskRestore t.tid l []])
    ++ ((List.finRange 4).map .leaveGrant)
    ++ (s.domain.flatMap fun d =>
      if d.home = s.pkgnum then
        [.domainBarrierArrival d.id (s.pkgnum, BitVec.ofNat 11 d.expected), .domainBarrierCompletion d.id
        , .domainBarrierTimeout d.id, .domainBarrierPackageDrop d.id s.pkgnum]
      else [])

/-- R398: whether the cluster of an array is in service. -/
def clusterReady (s : State) (a : Fin 32) : Bool := inService s (16 + (clusterOf a).val)

/-- The operations that may happen next and have no need of anything from outside. One whose condition does
not hold has no effect. -/
def otherEvents (s : State) : List Instr :=
  ((List.finRange 32).filter (clusterReady s)).flatMap (arrayEvents s) ++ clusterEvents s ++ memoryEvents s ++ systemEvents s

/-- The arrays that may move next, each for its unit. One with an array in a cluster out of service stands still (R398). -/
def movingArrs (s : State) : List (Fin 32) := (List.finRange 32).filter fun a =>
  (lockstep s a).head? = some a && ((lockstep s a).any fun m => (getA s m).active) && (lockstep s a).all (clusterReady s)

/-- R8: with no bundle issuing, one of the operations that may happen next happens: a free value picks it. The last choices
are a host access that waits at the port (R262) and the next flit of each link port (R396). -/
def freeMove (s : State) : Answer :=
  let arrs := movingArrs s
  let events := otherEvents s
  let n := arrs.length + events.length
  let k := Config.pick s.freeCtr % (n + 17)
  match arrs[k]?, events[k - arrs.length]? with
  | some a, _ => moveUnit (tick s) a
  | none, some i => exec i (tick s)
  | none, none => if k = n then .next (hostDrain (tick s)) else execFlitCrcFail (finOf 15 (k - n - 1), false) (tick s)

/-- An operation of the agenda. The words of a bundle's slots are no operations of other agents. -/
def runAgenda (s : State) (i : Instr) (rest : List Instr) : Answer :=
  if (encode i).isSome then .refused .notAnEvent else exec i { s with agenda := rest }

/-- One step: the next operation of the agenda; else the next slot of a bundle that is issuing; else the end of
the cycle of bundles that have issued; else what a free value picks. -/
def stepOf (s : State) : Answer :=
  if s.powered = false then .fault .poweredOff
  else
    match s.agenda with
    | i :: rest => runAgenda s i rest
    | [] =>
      match issuingArr s with
      | some a =>
        let s := { s with cur := a }
        runSlot s ((curA s).slot.getD 0)
      | none =>
        match endingUnit s with
        | some us => .next (endUnit (tick s) us)
        | none => freeMove s

end Sys2Proof.Machine
end

