-- ==== Sys2Proof/Machine/Step.lean ====
section
/-! DEFINITION. One step of the part, and the placing of an instruction where the next step runs it. -/

namespace Sys2Proof.Machine

/-- One step of the part. -/
def step (s : State) : Host.Outcome State Fault Refusal := stepOf s

/-- The latch of the sequencer that moves next holds the instruction, its bundle has begun to issue, and the
instruction's slot is next. A lone slot word goes to its slot, with NOP in the others (R14). -/
def State.withFetchWord (s : State) (nbits w : Nat) : State :=
  match if nbits = 0 then none else bundleForm w with
  | none => s
  | some (k, _) =>
    let word := if w < 2 ^ 32 then w * 2 ^ (32 * k) else w
    let place (x : Arr) : Arr :=
      { x with latch := BitVec.ofNat 256 word, snap := x.regs, resume := 0, transfer := none, run := .issuing k }
    updCur { s with agenda := [] } place

end Sys2Proof.Machine
end

