-- ==== Sys2Proof/Safety.lean ====
section
/-! DEFINITION. What a safe run of the part is, and the terms that the claims about it are made in. -/

namespace Sys2Proof

/-! ### What a slot form names -/

/-- R17: the predicate of a slot form; `NOP` and the `WAVE` forms have none. -/
def Instr.predicate : Instr → Option (Fin 8)
  | .ret p | .realign p | .phase p | .phcancel p | .retire p | .lfree p | .sprfree p | .xret p | .tend p |
    .mark p | .tlBump p | .fnHold p | .fwHold p | .rsAll p | .rsNone p | .br p _ | .jmpi p _ | .call p _ |
    .endloop p _ | .scope p _ | .sync p _ | .freeze p _ | .lease p _ | .trap p _ | .brk p _ | .capdrop p _ |
    .fence p _ | .strmRew p _ | .cpyGo p _ | .cpbinv p _ | .barArr p _ | .barDrop p _ | .evSig p _ |
    .fnZero p _ | .fnTag p _ | .fnSkew p _ | .fwZero p _ | .fwTag p _ | .fwSkew p _ | .rsRow p _ |
    .ecDisc p _ | .ecTopk p _ | .tkMerge p _ | .tkRead p _ | .tkCnt p _ | .ecTmk p _ | .scChain p _ |
    .swait p _ _ | .leave p _ _ | .csrr p _ _ | .csrw p _ _ | .csrs p _ _ | .csrc p _ _ | .clz p _ _ |
    .ctz p _ _ | .popc p _ _ | .mov p _ _ | .li p _ _ | .maskld p _ _ | .strmAdv p _ _ | .strmLvl p _ _ |
    .cpyStage p _ _ | .tlRead p _ _ | .barInit p _ _ | .barXp p _ _ | .barWait p _ _ | .barTest p _ _ |
    .tlaunch p _ _ | .fnBcast p _ _ | .fwBcast p _ _ | .rsSet p _ _ | .rsBand p _ _ | .ecPush p _ _ |
    .scPush p _ _ | .brp p _ _ _ | .loop p _ _ _ | .sprint p _ _ _ | .add p _ _ _ | .sub p _ _ _ |
    .mul p _ _ _ | .mulh p _ _ _ | .mulhz p _ _ _ | .and p _ _ _ | .andn p _ _ _ | .or p _ _ _ | .xor p _ _ _ |
    .shl p _ _ _ | .shr p _ _ _ | .sar p _ _ _ | .rotl p _ _ _ | .min p _ _ _ | .max p _ _ _ | .minz p _ _ _ |
    .maxz p _ _ _ | .addi p _ _ _ | .capoff p _ _ _ | .capinfo p _ _ _ | .maskrot p _ _ _ | .redFadd p _ _ _ |
    .cpySet p _ _ _ | .tlWait p _ _ _ | .unpin p _ _ _ | .prefetch p _ _ _ | .evict p _ _ _ | .role p _ _ _ |
    .fnPop p _ _ _ | .fwPop p _ _ _ | .tkInit p _ _ _ | .aggRd p _ _ _ | .flagbr p _ _ _ _ | .cmp p _ _ _ _ |
    .cmpi p _ _ _ _ | .sel p _ _ _ _ | .plog p _ _ _ _ | .capnarrow p _ _ _ _ | .ldp p _ _ _ _ |
    .stp p _ _ _ _ | .redAdd p _ _ _ _ | .redAnd p _ _ _ _ | .redOr p _ _ _ _ | .redXor p _ _ _ _ |
    .redMin p _ _ _ _ | .redMax p _ _ _ _ | .strmBind p _ _ _ _ | .probe p _ _ _ _ | .fnPopt p _ _ _ _ |
    .fwPopt p _ _ _ _ | .ld p _ _ _ _ _ | .st p _ _ _ _ _ | .amoAdd p _ _ _ _ _ | .amoAnd p _ _ _ _ _ |
    .amoOr p _ _ _ _ _ | .amoXor p _ _ _ _ _ | .amoMin p _ _ _ _ _ | .amoMax p _ _ _ _ _ |
    .amoMinz p _ _ _ _ _ | .amoMaxz p _ _ _ _ _ | .amoSwap p _ _ _ _ _ | .cas p _ _ _ _ _ | .lui _ p _ _ => some p
  | _ => none

/-- R131: the capability registers that a slot form writes. -/
def Instr.writesH : Instr → List (Fin 16)
  | .capnarrow _ d _ _ _ | .capoff _ d _ _ | .capdrop _ d => [d]
  | _ => []

/-- R134: the column masks that a slot form writes. -/
def Instr.writesM : Instr → List (Fin 8)
  | .maskld _ d _ | .maskrot _ d _ _ => [d]
  | _ => []

/-- R111: the loop counters that a slot form writes. -/
def Instr.writesL : Instr → List (Fin 4)
  | .loop _ l _ _ | .endloop _ l => [l]
  | _ => []

/-- R127: whether a slot form writes a control and status register. -/
def Instr.writesCsr : Instr → Bool
  | .csrw _ _ _ | .csrs _ _ _ | .csrc _ _ _ => true
  | _ => false

/-- R213: whether a slot form writes the row selector. -/
def Instr.writesRsw : Instr → Bool
  | .rsSet _ _ _ | .rsAll _ | .rsNone _ | .rsRow _ _ | .rsBand _ _ _ => true
  | _ => false

/-- R110: whether a slot form moves the return stack. -/
def Instr.movesRet : Instr → Bool
  | .call _ _ | .ret _ => true
  | _ => false

end Sys2Proof

namespace Sys2Proof.Machine

/-! ### Safe runs -/

/-- What every step keeps: memory is in its canonical form, and the refreeze threshold that the host sets
stays within its range (R392). -/
structure State.Sound (s : State) : Prop where
  memory : Memory.wf s.mem = true
  threshold : s.refthr.toNat ≤ 999

/-- A run of `k` steps from a state is safe when it ends in neither a fault nor a refusal. -/
def SafeRun (k : Nat) (s : State) : Prop := ∃ t, Sys2Proof.core.run k s = .next t

/-! ### Terms of claims about a slot form -/

/-- R17: the predicate of the form that is issuing lets it act. -/
def State.lets (s : State) (p : Fin 8) : Prop := (curA s).rp p = true

/-- R12, R18: `s` after a result of latency 1: `Sd` of the issuing array holds `v`, a write to `S0` is
discarded, and no earlier result for `Sd` is still to land. Nothing else differs. -/
def wrote (s : State) (d : Fin 32) (v : Word64) : State :=
  updCur s fun x => { x with
    regs := { x.regs with s := if d = 0 then x.regs.s else x.regs.s.set d v }
    regPend := x.regPend.filter fun e => !e.isS d }

/-- R19, R135: `s` after a form has committed to the queue: a new last entry with the next number, in the scope
of the bundle, and markers at the head of the queue gone. Nothing else differs. -/
def queued (s : State) (op : QOp) (cap : Cap) (off : Nat) : State :=
  updCur s fun x => { x with
    queue := settleMarkers (x.queue ++ [⟨x.nextId, op, cap, off, x.scope, false⟩])
    nextId := x.nextId + 1 }

/-- R12, R19: `s` with the pending bit of `Sd` set, which every scalar register has. -/
def pended (s : State) (d : Fin 32) : State := updCur s fun x => { x with pendS := x.pendS.set d true }

/-- R139: `s` with `PHDIRTY` set. -/
def dirtied (s : State) : State := updCur s fun x => { x with phDirty := true }

/-- R15, R335: `s` after slot `k` has raised a trap: it is pending with the slot-resume it records and `XNPC`'s
value, and no later slot commits. -/
def trapped (s : State) (k resume : Nat) (c : Cause) (detail : BitVec 48) : State :=
  updCur s fun x => { x with
    slotTrap := some ⟨c, detail, resume, k, x.snap.pc, x.afterBundle.setWidth 48⟩
    run := .issuing 8 }

/-- R107: `s` with a transfer of control to byte `t` and `gap` cycles without a bundle. -/
def jumped (s : State) (t : Word64) (gap : Nat) : State :=
  updCur s fun x => { x with transfer := some t, gap := gap }

/-- R107: byte `32 k` from the bundle that is issuing, for a signed count of bundles `k`. -/
def bundlesFrom (s : State) (k : Int) : Word64 := BitVec.ofInt 64 ((curA s).snap.pc.toNat + 32 * k)

/-- R12, R30, R265: the object offset of an access: lower bound plus access offset. -/
def State.objectOffset (s : State) (h : Fin 16) (off : Nat) : Nat := ((curA s).rh h).lower.toNat + off

/-- R135: an access of `size` bytes at byte `off` of capability `h`, with the rights `need`, passes every check. -/
structure State.Permits (s : State) (h : Fin 16) (need : List Nat) (off size align : Nat) : Prop where
  valid : ((curA s).rh h).valid = true
  rights : ∀ r ∈ need, ((curA s).rh h).has r = true
  range : off < 2 ^ 48
  bounds : off + size ≤ ((curA s).rh h).len.toNat
  aligned : s.objectOffset h off % align = 0

/-- R20, R82: the beats less one and the number of the column mask of a `WAVE` form. -/
def waveFields : Instr → Option (Fin 16 × Fin 8)
  | .waveMov n m _ _ _ | .movi n m _ _ _ | .waveAdd n m _ _ _ _ | .waveSub n m _ _ _ _ | .waveMul n m _ _ _ _ |
    .fma n m _ _ _ _ | .waveMin n m _ _ _ _ | .waveMax n m _ _ _ _ | .abs n m _ _ _ | .neg n m _ _ _ |
    .waveCmp n m _ _ _ _ _ | .selg n m _ _ _ _ | .waveAnd n m _ _ _ _ | .waveOr n m _ _ _ _ |
    .waveXor n m _ _ _ _ | .waveShl n m _ _ _ _ | .waveShr n m _ _ _ _ | .waveSar n m _ _ _ _ |
    .pack n m _ _ _ _ | .unpk n m _ _ _ _ | .mma n m _ _ _ _ _ | .mmaz n m _ _ _ _ _ | .mmas n m _ _ _ _ _ |
    .accz n m _ _ | .accld n m _ _ | .accst n m _ _ | .lds n m _ _ _ | .sts n m _ _ _ | .kset n m _ _ |
    .kadd n m _ _ | .perm n m _ _ _ _ | .xpose n m _ _ _ | .shuf n m _ _ _ _ | .exp2 n m _ _ | .log2 n m _ _ |
    .rcp n m _ _ | .rsq n m _ _ | .rng n m _ _ _ | .noise n m _ _ | .dot n m _ _ _ _ | .sumr n m _ _ _ |
    .prefixSum n m _ _ _ _ | .flag n m _ _ _ _ | .gset n m _ _ | .tmk n m _ _ _ _ | .cvt _ n m _ _ _ _ |
    .drain _ n m _ _ _ _ _ _ _ => some (n, m)
  | _ => none

/-- R12, R127: what each CSR number reads as. -/
def csrTable (s : State) : List (BitVec 12 × Word64) :=
  let x := curA s
  let r := x.snap
  [(0x000#12, r.nflg.setWidth 64), (0x001#12, r.nctl.setWidth 64), (0x002#12, r.dscl.setWidth 64), (0x003#12, r.dthr.setWidth 64),
   (0x004#12, r.nseed), (0x005#12, r.nstep), (0x006#12, r.orow.signExtend 64), (0x007#12, r.ocol.signExtend 64),
   (0x008#12, r.rsw), (0x009#12, if r.travel then 1 else 0), (0x010#12, BitVec.ofNat 64 x.grpIdx),
   (0x011#12, BitVec.ofNat 64 (members s s.cur).length), (0x012#12, if x.kind = .chain then 1 else 0),
   (0x013#12, BitVec.ofNat 64 s.cur.val), (0x014#12, x.task.setWidth 64), (0x015#12, x.ctx.setWidth 64),
   (0x020#12, BitVec.ofNat 64 x.acnt), (0x021#12, BitVec.ofNat 64 x.fcnt), (0x022#12, BitVec.ofNat 64 s.ptime),
   (0x023#12, s.power.melt.setWidth 64), (0x024#12, r.xpc.setWidth 64), (0x025#12, r.xnpc.setWidth 64), (0x026#12, r.xsw),
   (0x028#12, x.north.pos.setWidth 64), (0x029#12, x.west.pos.setWidth 64),
   (0x02A#12, BitVec.ofNat 64 (x.sorter.list.length % 256)), (0x02B#12, (edgePos x.edge).setWidth 64),
   (0x030#12, x.phNum.setWidth 64), (0x031#12, if x.phDirty then 1 else 0), (0x032#12, x.retIv.setWidth 64),
   (0x033#12, x.retLeft.setWidth 64), (0x034#12, x.clease.setWidth 64), (0x035#12, leavest x), (0x036#12, sprst s x),
   (0x038#12, BitVec.ofNat 64 r.ret.length), (0x040#12, r.l[0].count.setWidth 64), (0x041#12, r.l[1].count.setWidth 64),
   (0x042#12, r.l[2].count.setWidth 64), (0x043#12, r.l[3].count.setWidth 64)]

/-! ### Terms of claims about a cell -/

/-- The cell (i, j) of array `a`; one never touched is as at task start. -/
def State.cell (s : State) (a : Fin 32) (i j : Nat) : Cell :=
  tableGet (getA s a).cells (64 * i + j) Cell.start

/-- R21: what the cycle under way of array `a`, and of the others of its chain, begins with has happened: the step it
issues has entered row 0. -/
def State.Begun (s : State) (a : Fin 32) : Prop := ∀ m ∈ lockstep s a, openMark ∈ (getA s m).done

/-- R22, R24, R179: cell (i, j) of array `a` executes wave step `w`, which carries the beat `f`, on the cycle that is
under way, and no phase was committed with it. -/
structure State.Executes (s : State) (a : Fin 32) (i j : Fin 64) (w : WaveStep) (f : WaveForm) : Prop where
  moves : cellsMove s a = true
  begun : s.Begun a
  offered : offered s a (getA s a).acnt i.val = some w
  op : w.op = some f
  selected : executes s a (getA s a).acnt w i.val j.val = true
  first : 64 * i.val + j.val ∉ (getA s a).done
  phase : w.phase = false

/-- R27, R28, R48: what cell (i, j) reads of an operand. -/
def State.reads (s : State) (a : Fin 32) (i j : Fin 64) (f : WaveForm) (x : Src) : PReg :=
  readSrc s a (getA s a).acnt (s.cell a i.val j.val) i.val j.val f.samples x

/-- R30, R77: the operand is not poisoned, and no feeder register that it reads carries another tag than the one
implied. -/
def State.clean (s : State) (a : Fin 32) (i j : Fin 64) (f : WaveForm) (x : Src) : Prop :=
  (s.reads a i j f x).poison = false ∧ staleFeeder (getA s a) i.val j.val x = none

/-- The operand that names the same register as a destination. -/
def asSrc : Dst → Src
  | .f k => .f k
  | .h => .h
  | .v => .v
  | .word k => .word k

/-- R179: what step `w` reads of its own destination: the register on the first beat that the cell executes, and what the
beat before gave it on a later one. -/
def State.addend (s : State) (a : Fin 32) (i j : Fin 64) (w : WaveStep) (f : WaveForm) (d : Dst) : PReg :=
  if (s.cell a i.val j.val).lastStep ≤ w.num - f.beat then s.reads a i j f (asSrc d)
  else (s.cell a i.val j.val).lastDst d

/-- R18, R26, R76, R182: from `s` to `t`, destination `d` of cell (i, j) takes `v`: `H` and `V` at the end of the cycle,
with the step's numeric flags; a fragment register or a cell-store word by a write that lands within `lat` cycles, with the
flags, and stands over every earlier one. -/
def Takes (s t : State) (a : Fin 32) (i j : Fin 64) (lat : Nat) (d : Dst) (v : PReg) (flags : BitVec 32) : Prop :=
  let c := s.cell a i.val j.val
  let c' := t.cell a i.val j.val
  let now := (getA s a).acnt
  let raised : Prop := (getA t (issuer s a)).flagPend
    = (getA s (issuer s a)).flagPend ++ if flags = 0 then [] else [(now, flags)]
  let under (w : CellWrite) : Prop := ∃ p ∈ c'.pend, p.write = w ∧ p.flags = flags ∧ now ≤ p.due ∧ p.due < now + lat
  match d with
  | .h => c'.h = v ∧ raised
  | .v => c'.v = v ∧ raised
  | .f k => under (.f k v) ∧ c'.lastF k = v
  | .word k => under (.word (Fin.ofNat 512 c.k[k].toNat) v) ∧ c'.lastWord c.k[k].toNat = v

/-- R18, R85, R182: from `s` to `t`, tile `k` of cell (i, j) takes `v` by a write that lands within `lat` cycles. -/
def TakesTile (s t : State) (a : Fin 32) (i j : Fin 64) (lat : Nat) (k : Fin 4) (v : Tile) : Prop :=
  let c' := t.cell a i.val j.val
  let now := (getA s a).acnt
  (∃ p ∈ c'.pend, p.write = .tile k v ∧ now ≤ p.due ∧ p.due < now + lat) ∧ c'.lastTile k = v

/-- R25, R179: what a step that writes register `d` of a cell leaves alone: the other registers that land at the end of the
cycle, the flags, the tiles, and whatever lands later. -/
structure Cell.Keeps (c c' : Cell) (d : Dst) : Prop where
  h : d ≠ .h → c'.h = c.h
  v : d ≠ .v → c'.v = c.v
  g : c'.g = c.g
  f : c'.f = c.f
  a : c'.a = c.a
  store : c'.store = c.store

/-- R210: no write is pending on a feeder, and no form is on its way to it. -/
structure Feeder.Idle (f : Feeder) : Prop where
  writes : f.writes = []
  implied : f.impliedWrites = []
  inbox : f.inbox = []

/-! ### Terms of claims about the agents behind the queues -/

/-- R253: entry `e` is the oldest in the queues of array `a`, and its access has not been answered moved. -/
structure State.AtHead (s : State) (a : Fin 32) (e : QEntry) : Prop where
  head : (getA s a).queue.head? = some e
  fresh : e.moved = false

/-- R244, R249, R273: the access of `n` bytes that entry `e` of array `a` makes passes the object table and reaches byte `p`
of this package, in `t` with the page's translation, and its slices and links serve it now; `mirror` is the second copy of a page under retirement. -/
structure State.Reaches (s t : State) (a : Fin 32) (e : QEntry) (n : Nat) (need : List Nat) (wr : Bool) (p : Nat)
    (mirror : Option Nat) : Prop where
  found : locate s (getA s a).ctx e.cap.obj e.off n need wr = (t, .phys p mirror)
  serves : bankRefuses t p = none
  served : bytesServed s (getA s a).ctx e.cap.obj e.off n = true

/-- An array after entry `id` has left its queues, with the markers that have then done their work. -/
def Arr.without (x : Arr) (id : Nat) : Arr :=
  { x with queue := settleMarkers (x.queue.filter fun e => e.id != id) }

/-- R12, R18, R19: an array after `v` has landed in `Sd`, past any result still to land there; `S0` stays zero. -/
def Arr.took (x : Arr) (d : Fin 32) (v : Word64) : Arr :=
  { x with
    regs := { x.regs with s := if d = 0 then x.regs.s else x.regs.s.set d v }
    regPend := x.regPend.filter fun e => !e.isS d
    pendS := x.pendS.set d false }

/-- R278: the entries that a walk of routine 0 reads from level 3 - `n` down, the descriptor's place last. -/
def walkPlaces (s : State) (table page : Nat) : Nat → List Nat
  | 0 => [table + 16 * bits page 0 8]
  | n + 1 =>
    let a := table + 16 * bits page (8 * (n + 1)) 8
    a :: match walkRead s a with
      | some e => walkPlaces s (bits e 12 36 * 4096) page n
      | none => []

/-- R277, R278: page `p` is owned by one context, and where a table of routine 0 holds its descriptor, it holds it alone, apart
from the entries above it and from the pages at the bases of a list, and no chunk has a header. -/
structure State.Placed (s : State) (e : ObjEntry) (ctx : BitVec 12) (obj : BitVec 24) (p : Nat) (bases : List Nat) : Prop where
  own : ownCtx s (ownCtx s ctx obj) obj = ownCtx s ctx obj
  alone : ∀ a, e.routine = 0 → e.foreign = false → walkTable s e.root p 3 = .at a →
    tableFind s.descs (pageKey (ownCtx s ctx obj) obj p) = none ∧ s.headers = [] ∧ e.marked = false
      ∧ (∀ x ∈ (walkPlaces s e.root p 3).dropLast, x + 16 ≤ a ∨ a + 16 ≤ x)
      ∧ ∀ x ∈ walkPlaces s e.root p 3, ∀ b ∈ bases, x + 16 ≤ b ∨ b + 2 ^ e.pageShift ≤ x

/-- R156, R157, R363: a copy that starts, with its initial check made: one that fails is over at once with fault 1, and one
into a window knows where its chunk begins. -/
def checked (s : State) (a : Fin 32) (c : Copy) : Copy :=
  { c with
    checked := true
    ended := (copyFail s a c.block).map fun d => (2, 1, d)
    row := if isWindow s a c.block then (windowFrom s a c.block).map fun f => (f, []) else none }

/-- No bundle is issuing on any array. -/
def State.quiet (s : State) : Prop := ∀ a : Fin 32, (getA s a).slot = none

/-- The slot form that step runs next: power is on, nothing of other agents is due, and the bundle of the
array that moves next has reached slot `k`. -/
structure State.AtSlot (s : State) (k : Nat) : Prop where
  powered : s.powered = true
  agenda : s.agenda = []
  slot : (curA s).slot = some k

end Sys2Proof.Machine
end

