-- ==== Sys2Proof/Certificates/Slice0/Obligations.lean ====
section
/-! DEFINITION. The statements for the provers. -/

open Sys2Proof Sys2Proof.Machine

/-! ### SCL forms -/

/-- R128, R129: sums, differences and immediates, the minimum and maximum, and `MOV`. Nothing but `Sd` changes.
R128, R129: the forms that work bit by bit. `LUI.k` replaces field k and keeps the other bits.
R128: shifts and rotates by `Sb`[5:0], and the counts of bits.
R104, R128: the products, of latency 3: the result is under way and lands for bundles within 3 active cycles. -/
def Obligations.ScalarForms : Prop :=
  (∀ (s : State) (p : Fin 8) (d a b : Fin 32) (i12 : BitVec 12) (i17 : BitVec 17), s.lets p →
    let x := (curA s).rs a
    let y := (curA s).rs b
    let Gives (i : Instr) (P : Word64 → Prop) : Prop := ∃ v, exec i s = .next (wrote s d v) ∧ P v
    Gives (.add p d a b) (fun v => v.toNat = (x.toNat + y.toNat) % 2 ^ 64)
    ∧ Gives (.sub p d a b) (fun v => (v.toNat + y.toNat) % 2 ^ 64 = x.toNat)
    ∧ Gives (.addi p d a i12) (fun v => (v.toNat : Int) = (x.toInt + i12.toInt) % 2 ^ 64)
    ∧ Gives (.li p d i17) (fun v => v.toInt = i17.toInt)
    ∧ Gives (.mov p d a) (fun v => v = x)
    ∧ Gives (.min p d a b) (fun v => v.toInt = min x.toInt y.toInt)
    ∧ Gives (.max p d a b) (fun v => v.toInt = max x.toInt y.toInt)
    ∧ Gives (.minz p d a b) (fun v => v.toNat = min x.toNat y.toNat)
    ∧ Gives (.maxz p d a b) (fun v => v.toNat = max x.toNat y.toNat))
  ∧ (∀ (s : State) (p : Fin 8) (d a b : Fin 32) (k : Fin 4) (i16 : BitVec 16), s.lets p →
    let x := (curA s).rs a
    let y := (curA s).rs b
    let Gives (i : Instr) (bit : Nat → Bool) : Prop :=
      ∃ v, exec i s = .next (wrote s d v) ∧ ∀ n, n < 64 → v.getLsbD n = bit n
    Gives (.and p d a b) (fun n => x.getLsbD n && y.getLsbD n)
    ∧ Gives (.andn p d a b) (fun n => x.getLsbD n && !y.getLsbD n)
    ∧ Gives (.or p d a b) (fun n => x.getLsbD n || y.getLsbD n)
    ∧ Gives (.xor p d a b) (fun n => x.getLsbD n != y.getLsbD n)
    ∧ Gives (.lui k p d i16) (fun n =>
        if n / 16 = k.val then i16.getLsbD (n % 16) else ((curA s).rs d).getLsbD n))
  ∧ (∀ (s : State) (p : Fin 8) (d a b : Fin 32), s.lets p →
    let x := (curA s).rs a
    let n := ((curA s).rs b).toNat % 64
    let Gives (i : Instr) (P : Word64 → Prop) : Prop := ∃ v, exec i s = .next (wrote s d v) ∧ P v
    Gives (.shl p d a b) (fun v => v.toNat = x.toNat * 2 ^ n % 2 ^ 64)
    ∧ Gives (.shr p d a b) (fun v => v.toNat = x.toNat / 2 ^ n)
    ∧ Gives (.sar p d a b) (fun v => v.toInt = x.toInt / 2 ^ n)
    ∧ Gives (.rotl p d a b) (fun v => ∀ k, k < 64 → v.getLsbD ((k + n) % 64) = x.getLsbD k)
    ∧ Gives (.clz p d a) (fun v => v.toNat ≤ 64 ∧ x.toNat < 2 ^ (64 - v.toNat)
        ∧ (v.toNat < 64 → 2 ^ (63 - v.toNat) ≤ x.toNat))
    ∧ Gives (.ctz p d a) (fun v => v.toNat ≤ 64 ∧ x.toNat % 2 ^ v.toNat = 0
        ∧ (v.toNat < 64 → x.getLsbD v.toNat = true))
    ∧ Gives (.popc p d a) (fun v => v.toNat = ((List.range 64).filter fun k => x.getLsbD k).length))
  ∧ (∀ (s : State) (p : Fin 8) (d a b : Fin 32), s.lets p →
    let x := (curA s).rs a
    let y := (curA s).rs b
    let Gives (i : Instr) (P : Word64 → Prop) : Prop :=
      ∃ t v due, exec i s = .next t ∧ P v
        ∧ (curA s).acnt < due ∧ due ≤ (curA s).acnt + 3
        ∧ t = { updCur s fun z => z.pendWrite (.s d v) due with freeCtr := s.freeCtr + 1 }
        ∧ (∀ e ∈ (curA t).regPend, e.isS d = true → e.due ≤ due)
        ∧ ⟨due, .s d v⟩ ∈ (curA t).regPend
    Gives (.mul p d a b) (fun v => v.toNat = x.toNat * y.toNat % 2 ^ 64)
    ∧ Gives (.mulh p d a b) (fun v => v.toInt = x.toInt * y.toInt / 2 ^ 64)
    ∧ Gives (.mulhz p d a b) (fun v => v.toNat = x.toNat * y.toNat / 2 ^ 64))

/-- R18, R130: comparisons and predicate logic write `Pd`, past every answer still to come for it; a write to `P0` is
discarded. `SEL` writes `Sd`.
R134: the column masks. -/
def Obligations.PredicatesAndMasks : Prop :=
  (∀ (s : State) (p pd pa pb : Fin 8) (cc : Cc) (d a b : Fin 32) (i11 : BitVec 11) (tt : BitVec 4), s.lets p →
    let x := (curA s).rs a
    let y := (curA s).rs b
    let holds (c : Cc) (u v : Word64) : Prop := match c with
      | .eq => u = v
      | .ne => u ≠ v
      | .lt => u.toInt < v.toInt
      | .ge => v.toInt ≤ u.toInt
      | .lo => u.toNat < v.toNat
      | .hs => v.toNat ≤ u.toNat
    let Gives (i : Instr) (P : Prop) : Prop :=
      ∃ v t, exec i s = .next t ∧ (v = true ↔ P)
        ∧ t = updCur s fun z => { z.supersedeP pd z.nextId z.sprints.length with
            regs := { z.regs with p := if pd = 0 then z.regs.p else z.regs.p.set pd v }
            regPend := z.regPend.filter fun e => !e.isP pd }
    Gives (.cmp p pd cc a b) (holds cc x y)
    ∧ Gives (.cmpi p pd cc a i11) (holds cc x (i11.signExtend 64))
    ∧ Gives (.plog p pd pa pb tt)
        (tt.getLsbD (2 * (if (curA s).rp pa = true then 1 else 0) + (if (curA s).rp pb = true then 1 else 0)) = true)
    ∧ exec (.sel p d pa a b) s = .next (wrote s d (if (curA s).rp pa = true then x else y)))
  ∧ (∀ (s : State) (p d ma : Fin 8) (a : Fin 32), s.lets p →
    let put (v : Word64) : State := updCur s fun x => { x with regs := { x.regs with m := x.regs.m.set d v } }
    exec (.maskld p d a) s = .next (put ((curA s).rs a))
    ∧ ∃ v, exec (.maskrot p d ma a) s = .next (put v)
        ∧ ∀ k, k < 64 → v.getLsbD ((k + ((curA s).rs a).toNat % 64) % 64) = ((curA s).snap.m[ma]).getLsbD k)

/-- R131, R132: the capability forms. `CAPNARROW` never leaves the window of its source.
R131, R338: where `CAPNARROW` or `CAPOFF` traps: an invalid capability, no `narrow` right, a window outside. -/
def Obligations.CapabilityForms : Prop :=
  (∀ (s : State) (p : Fin 8) (d h : Fin 16) (sd a b : Fin 32) (rm : BitVec 8), s.lets p →
    let c := (curA s).rh h
    let lo := ((curA s).rs a).toNat
    let n := ((curA s).rs b).toNat
    let put (v : Cap) : State := updCur s fun x => { x with regs := { x.regs with h := x.regs.h.set d v } }
    (c.valid = true → c.has Right.narrow = true → lo < 2 ^ 48 → n < 2 ^ 48 → lo + n ≤ c.len.toNat →
      exec (.capnarrow p d h a b) s
        = .next (put ⟨true, c.obj, c.rights, c.lower + BitVec.ofNat 48 lo, BitVec.ofNat 48 n⟩))
    ∧ (c.valid = true →
        exec (.capoff p d h rm) s = .next (put ⟨true, c.obj, c.rights &&& ~~~rm, c.lower, c.len⟩))
    ∧ exec (.capdrop p d) s = .next (put { (curA s).rh d with valid := false })
    ∧ exec (.capinfo p sd h .base) s = .next (wrote s sd (if c.valid then BitVec.ofNat 64 c.lower.toNat else 0))
    ∧ exec (.capinfo p sd h .len) s = .next (wrote s sd (if c.valid then BitVec.ofNat 64 c.len.toNat else 0))
    ∧ exec (.capinfo p sd h .rights) s
        = .next (wrote s sd (if c.valid then BitVec.ofNat 64 (c.rights.toNat * 2 ^ 24 + c.obj.toNat) else 0))
    ∧ exec (.capinfo p sd h .tag) s = .next (wrote s sd (if c.valid then 1 else 0)))
  ∧ (∀ (s : State) (p : Fin 8) (d h : Fin 16) (a b : Fin 32) (rm : BitVec 8), s.lets p →
    let c := (curA s).rh h
    let fault (sub : Nat) : State := trapped s 1 1 .capability (BitVec.ofNat 48 (sub + 256 * h.val))
    (c.valid = false → exec (.capnarrow p d h a b) s = .next (fault 1) ∧ exec (.capoff p d h rm) s = .next (fault 1))
    ∧ (c.valid = true → c.has Right.narrow = false → exec (.capnarrow p d h a b) s = .next (fault 2))
    ∧ (c.valid = true → c.has Right.narrow = true →
        (2 ^ 48 ≤ ((curA s).rs a).toNat ∨ 2 ^ 48 ≤ ((curA s).rs b).toNat
          ∨ c.len.toNat < ((curA s).rs a).toNat + ((curA s).rs b).toNat) →
        exec (.capnarrow p d h a b) s = .next (fault 3)))

/-! ### CTL forms -/

/-- R12, R106, R107, R110: the branches, `JMPI`, `CALL` and `RET`: where control goes and how many cycles issue no
bundle. `CALL` records the next bundle, and needs room; `RET` needs an address.
R111: `LOOP` and `ENDLOOP`.
R110, R338: a `CALL` with eight addresses held and a `RET` with none raise the illegal-instruction trap. -/
def Obligations.Branches : Prop :=
  (∀ (s : State) (p n : Fin 8) (sense : Bool) (a : Fin 32) (o22 : BitVec 22) (o18 : BitVec 18), s.lets p →
    let ret := (curA s).snap.ret
    exec (.br p o22) s = .next (jumped s (bundlesFrom s o22.toInt) 1)
    ∧ exec (.brp p n sense o18) s
        = .next (if (curA s).rp n = sense then jumped s (bundlesFrom s o18.toInt) 1 else s)
    ∧ exec (.jmpi p a) s = .next (jumped s ((curA s).rs a) 2)
    ∧ (ret.length ≠ 8 → exec (.call p o22) s
        = .next (updCur (jumped s (bundlesFrom s o22.toInt) 1) fun x =>
            { x with regs := { x.regs with ret := ret ++ [x.snap.pc + 32#48] } }))
    ∧ (∀ l t, ret = l ++ [t] → exec (.ret p) s
        = .next (updCur (jumped s (t.setWidth 64) 1) fun x => { x with regs := { x.regs with ret := l } })))
  ∧ (∀ (s : State) (p : Fin 8) (l : Fin 4) (a : Fin 32) (off : BitVec 15), s.lets p →
    let pc := (curA s).snap.pc
    let count := ((curA s).rs a).setWidth 32
    let stop := pc + BitVec.ofNat 48 (32 * off.toNat)
    let r := (curA s).snap.l[l]
    let put (v : LoopReg) : State := updCur s fun x => { x with regs := { x.regs with l := x.regs.l.set l v } }
    (count ≠ 0 → exec (.loop p l a off) s = .next (put ⟨count, pc + 32#48, stop⟩))
    ∧ (count = 0 → exec (.loop p l a off) s
        = .next (jumped (put ⟨0, pc + 32#48, stop⟩) ((stop + 32#48).setWidth 64) 1))
    ∧ (1 < r.count.toNat → exec (.endloop p l) s
        = .next (jumped (put ⟨r.count - 1, r.start, r.stop⟩) (r.start.setWidth 64) 0))
    ∧ (r.count.toNat ≤ 1 → exec (.endloop p l) s = .next (put ⟨0, r.start, r.stop⟩)))
  ∧ (∀ (s : State) (p : Fin 8) (o22 : BitVec 22), s.lets p →
    ((curA s).snap.ret.length = 8 →
      exec (.call p o22) s = .next (trapped s 0 0 .illegal (BitVec.ofNat 48 (2 + 512 * 0x04))))
    ∧ ((curA s).snap.ret = [] →
      exec (.ret p) s = .next (trapped s 0 0 .illegal (BitVec.ofNat 48 (3 + 512 * 0x05)))))

/-- R107, R109, R221: `FLAGBR` and `AGG.RD` act on the aggregates. Where no flag was written in the last cycles (`gLog` is
the model's record of late writes), they are the OR and the AND of the cells' flags as they stand; a cell that has
never run has its flags at 0. -/
def Obligations.FlagAggregates : Prop :=
  ∀ (s : State) (p : Fin 8) (d : Fin 32) (g : Fin 4) (sense : Bool) (off : BitVec 18),
    s.lets p → (curA s).kind = .cluster → (∀ e ∈ (curA s).cells, e.2.gLog = []) →
    let some' (at' : Nat → Prop) : Prop := ∃ e ∈ (curA s).cells, at' e.1 ∧ e.2.g.getLsbD g.val = true
    let one (i j : Nat) : Prop := ∃ c, tableFind (curA s).cells (64 * i + j) = some c ∧ c.g.getLsbD g.val = true
    let every : Prop := ∀ i j : Fin 64, one i.val j.val
    let Branches (all agg : Bool) : Prop := exec (.flagbr p g all sense off) s
      = .next { (if agg = sense then jumped s (bundlesFrom s off.toInt) 1 else s) with freeCtr := s.freeCtr + 1 }
    let Reads (k : AggKind) (P : Word64 → Prop) : Prop :=
      ∃ v, exec (.aggRd p d g k) s = .next { wrote s d v with freeCtr := s.freeCtr + 1 } ∧ P v
    (∃ agg, (agg = true ↔ some' fun _ => True) ∧ Branches false agg)
    ∧ (∃ agg, (agg = true ↔ every) ∧ Branches true agg)
    ∧ Reads .rowor (fun v => ∀ i, i < 64 → (v.getLsbD i = true ↔ some' fun key => key / 64 = i))
    ∧ Reads .rowand (fun v => ∀ i, i < 64 → (v.getLsbD i = true ↔ ∀ j : Fin 64, one i j.val))
    ∧ Reads .color (fun v => ∀ j, j < 64 → (v.getLsbD j = true ↔ some' fun key => key % 64 = j))
    ∧ Reads .coland (fun v => ∀ j, j < 64 → (v.getLsbD j = true ↔ ∀ i : Fin 64, one i.val j))
    ∧ Reads .all (fun v => v.toNat < 4 ∧ (v.getLsbD 0 = true ↔ some' fun _ => True) ∧ (v.getLsbD 1 = true ↔ every))

/-- R38, R112, R115: `NOP`, `SCOPE` and `FREEZE`.
R113, R114, R116: `SYNC` and `REALIGN` that their line has released, and a `SWAIT` whose blocks are there, go on; a
member that is not released waits, and one outside the group traps. -/
def Obligations.Waits : Prop :=
  (∀ (s : State) (p : Fin 8) (sc : Scope) (n : BitVec 16), s.lets p →
    exec .nop s = .next s
    ∧ exec (.scope p sc) s = .next (updCur s fun x => { x with scope := sc })
    ∧ exec (.freeze p n) s = .next (updCur s fun x => { x with freeze := n.toNat }))
  ∧ (∀ (s : State) (p : Fin 8) (g : BitVec 8) (q : Fin 16) (n : BitVec 10), s.lets p →
    ((curA s).released = true →
      exec (.sync p g) s = .next (updCur s fun x => { x with released := false })
      ∧ exec (.realign p) s = .next (updCur s fun x => { x with released := false, aligned := true }))
    ∧ ((curA s).released = false →
      (g = 0 ∨ ∃ l, s.lines.find? (fun l => l.ctx = (curA s).ctx && l.group = g) = some l ∧ s.cur ∈ l.members) →
      exec (.sync p g) s = .next (updCur s fun x => { x with run := .waiting .sync }))
    ∧ ((curA s).released = false → exec (.realign p) s = .next (updCur s fun x => { x with run := .waiting .sync }))
    ∧ ((curA s).released = false → g ≠ 0 →
      (∀ l ∈ s.lines, l.ctx = (curA s).ctx → l.group = g → s.cur ∉ l.members) →
      exec (.sync p g) s = .next (trapped s 0 0 .schedule (BitVec.ofNat 48 (13 + 256 * g.toNat))))
    ∧ ((curA s).reposition = [] → (curA s).streams[q].mode = .bound → n.toNat ≤ (curA s).streams[q].desc.depth →
      exec (.swait p q n) s
        = .next (if n.toNat ≤ (curA s).streams[q].buf.length then s
            else updCur s fun x => { x with run := .waiting .swait }))
    ∧ ((curA s).reposition = [] → (curA s).streams[q].mode = .unbound →
      exec (.swait p q n) s = .next (trapped s 0 0 .schedule (BitVec.ofNat 48 (2 + 256 * q.val)))))

/-- R117, R118, R119, R337, R348: the phase forms. `PHCANCEL` rolls back a phase that may be replayed, at the end of its
cycle: every array of the chain, or the array alone, then begins the rollback. The feeder and edge forms that stand at the head,
or on an array alone, are abandoned.
That the rollback starts at the end of the cycle of `PHCANCEL`, and that the wave form in progress goes on, are the model's
readings (log entry 41); for a chain the clauses do not say at which cycle it starts.
R121, R122, R123, R235, R356: the forms that ask for and give up leases and leave.
When a chain that `LFREE` ends parts, and which task waits for an array, are the model's readings (log entries 39 and 95). -/
def Obligations.PhasesAndLeases : Prop :=
  (∀ (s : State) (p : Fin 8), s.lets p →
    (∃ t, exec (.phase p) s = .next t
      ∧ (curA t).phNum = (curA s).phNum + 1 ∧ (curA t).phDirty = false ∧ (curA t).cancels = 0
      ∧ (curA t).point.entry = (curA s).snap.pc + 32#48
      ∧ (curA t).point.firstEntry = (curA s).nextId
      ∧ (getA t ((tall s s.cur).headD s.cur)).phaseMark = true
      ∧ (curA t).regs = (curA s).regs ∧ t = { s with arrs := t.arrs })
    ∧ ((curA s).phDirty = false → (curA s).cancels < 2 →
      exec (.phcancel p) s = .next (updCur s fun x => { x with phcancel := true, run := .issuing 8 }))
    ∧ (∀ a, (curA s).phcancel = true → (curA s).halt = false → (curA s).run = .issuing 8 → lockstep s s.cur = [s.cur] → a ≠ s.cur →
      let t := endUnit s [s.cur]
      (getA t s.cur).run = .rolling ∧ (getA t s.cur).phcancel = false ∧ (getA t a).run = (getA s a).run)
    ∧ (let t := startRollback s (tall s s.cur)
      t = { s with arrs := t.arrs }
        ∧ (∀ m ∈ tall s s.cur, (getA t m).run = .rolling ∧ (getA t m).handler = false
          ∧ (linkDelay (getA s m) = 0 → (getA t m).north.form = none ∧ (getA t m).west.form = none ∧ (getA t m).edge = none)
          ∧ (getA t m).wave = (getA s m).wave ∧ (getA t m).regs = (getA s m).regs)
        ∧ ((curA s).kind = .cluster → (curA t).cancels = (curA s).cancels + 1
          ∧ ∀ m, m ≠ s.cur → (getA t m).run = (getA s m).run ∧ (getA t m).regs = (getA s m).regs))
    ∧ ((curA s).phDirty = true ∨ 2 ≤ (curA s).cancels →
      exec (.phcancel p) s = .next (trapped s 0 0 .replayUnsafe 0))
    ∧ exec (.retire p) s = .next (updCur s fun x =>
        { x with
          retLeft := x.retIv
          park := (match s.tasks.find? fun t => t.tid = x.task with
            | some t => t.preempt.isSome || t.switch
            | none => false) && !x.handler && x.traps.isEmpty }))
  ∧ (∀ (s : State) (p d : Fin 8) (n21 : BitVec 21) (level : BitVec 2) (ms : BitVec 14) (c : BitVec 2) (n20 : BitVec 20),
    s.lets p →
    let head := (curA s).kind = .chain ∧ (curA s).grpIdx = 0
    (¬ head → exec (.lease p n21) s = .next s ∧ exec (.lfree p) s = .next s)
    ∧ (head → ∃ l, exec (.lease p n21) s = .next { updCur s fun x => { x with clease := n21 } with tasks := l }
      ∧ l.map Task.tid = s.tasks.map Task.tid
      ∧ ((∀ u ∈ s.tasks, u.state ≠ .ready ∧ u.state ≠ .saved) → l = s.tasks)
      ∧ (∀ own, taskFind s (curA s).task = some own →
        (own.preempt.isSome = true → l = s.tasks)
        ∧ ∀ u, own.preempt = none → waitsFor (updCur s fun x => { x with clease := n21 }) own = some u →
          (own.prio < u.prio ∧ (u.state = .ready ∨ u.state = .saved))
            ∧ ∃ t ∈ l, t.tid = own.tid ∧ t.preempt = some u.tid))
    ∧ (head → ∃ t, exec (.lfree p) s = .next t ∧ (curA t).clease = 0
      ∧ (∀ a ∈ members s s.cur, (getA t a).kind = .freeing) ∧ t = { s with arrs := t.arrs })
    ∧ exec (.sprint p d level ms) s = .next (updCur s fun x => { x with
        sprints := x.sprints ++ [⟨d, level, ms, x.acnt + 256, x.nextId⟩] })
    ∧ (∃ t, exec (.sprfree p) s = .next t ∧ (∀ l ∈ t.power.leases, l.tid ≠ (curA s).task)
      ∧ (∀ l ∈ s.power.leases, l.tid ≠ (curA s).task → l ∈ t.power.leases)
      ∧ t = { s with power := { s.power with leases := t.power.leases } })
    ∧ exec (.leave p c n20) s = .next { s with power := { s.power with
        requests := s.power.requests ++
          [⟨s.power.nextReq, s.cur, if head then members s s.cur else [s.cur], c, n20, []⟩]
        nextReq := s.power.nextReq + 1 } })

/-- R124, R125, R126: `TRAP` and `BRK` commit slot 0 and raise their trap with slot-resume 1; `XRET` returns to the
bundle at `XPC`, at the slot of `XSW`[2:0], and outside handler mode is illegal; `TEND` ends the sequencer's part. -/
def Obligations.TrapForms : Prop :=
  ∀ (s : State) (p : Fin 8) (code : BitVec 16), s.lets p →
    let raised (c : Cause) : State := updCur s fun x => { x with
      slotTrap := some ⟨c, code.setWidth 48, 1, 0, x.snap.pc, x.afterBundle.setWidth 48⟩, run := .issuing 8 }
    exec (.trap p code) s = .next (raised .user)
    ∧ exec (.brk p code) s = .next (raised .breakpoint)
    ∧ ((curA s).handler = true → exec (.xret p) s = .next (updCur s fun x => { x with
        handler := false, gap := 2, transfer := some (x.snap.xpc.setWidth 64)
        reenter := some (x.snap.xsw.toNat % 8, x.snap.xnpc) }))
    ∧ ((curA s).handler = false →
      exec (.xret p) s = .next (trapped s 0 0 .illegal (BitVec.ofNat 48 (4 + 512 * 0x29))))
    ∧ exec (.tend p) s = .next (updCur s fun x => { x with
        ending := some x.snap.pc, retLeft := x.retIv, handler := false })

/-- R127: `CSRR` reads every CSR of the table, and a number that no CSR has raises the illegal-instruction trap.
R12, R78, R127: `CSRW`, `CSRS` and `CSRC` change one register; reserved bits of `NFLG`, `NCTL` and `XSW` stay zero; a
register read only, or one of handler mode outside it, is not written but traps. -/
def Obligations.ControlRegisters : Prop :=
  (∀ (s : State) (p : Fin 8) (d : Fin 32) (c : BitVec 12), s.lets p →
    (∀ v, (c, v) ∈ csrTable s → exec (.csrr p d c) s = .next (wrote s d v))
    ∧ ((∀ v, (c, v) ∉ csrTable s) →
      exec (.csrr p d c) s = .next (trapped s 0 0 .illegal (BitVec.ofNat 48 (5 + 512 * 0x30)))))
  ∧ (∀ (s : State) (p : Fin 8) (a : Fin 32) (c : BitVec 12), s.lets p →
    let v := (curA s).rs a
    let regs (f : SeqRegs → SeqRegs) : State := updCur s fun x => { x with regs := f x.regs }
    exec (.csrw p a 0x000) s = .next (regs fun x => { x with nflg := BitVec.ofNat 32 (v.toNat % 128) })
    ∧ exec (.csrs p a 0x000) s
        = .next (regs fun x => { x with nflg := BitVec.ofNat 32 ((x.nflg.setWidth 64 ||| v).toNat % 128) })
    ∧ exec (.csrc p a 0x000) s
        = .next (regs fun x => { x with nflg := BitVec.ofNat 32 ((x.nflg.setWidth 64 &&& ~~~v).toNat % 128) })
    ∧ exec (.csrw p a 0x001) s = .next (regs fun x => { x with nctl := BitVec.ofNat 32 (v.toNat % 2) })
    ∧ exec (.csrw p a 0x002) s = .next (regs fun x => { x with dscl := v.setWidth 32 })
    ∧ exec (.csrw p a 0x003) s = .next (regs fun x => { x with dthr := v.setWidth 24 })
    ∧ exec (.csrw p a 0x004) s = .next (regs fun x => { x with nseed := v })
    ∧ exec (.csrw p a 0x005) s = .next (regs fun x => { x with nstep := v })
    ∧ exec (.csrw p a 0x006) s = .next (regs fun x => { x with orow := v.setWidth 32 })
    ∧ exec (.csrw p a 0x007) s = .next (regs fun x => { x with ocol := v.setWidth 32 })
    ∧ ((curA s).handler = true →
      exec (.csrw p a 0x024) s = .next (regs fun x => { x with xpc := v.setWidth 48 })
      ∧ exec (.csrw p a 0x025) s = .next (regs fun x => { x with xnpc := v.setWidth 48 })
      ∧ exec (.csrw p a 0x026) s
          = .next (regs fun x => { x with xsw := BitVec.ofNat 64 (v.toNat / 256 * 256 + v.toNat % 8) }))
    ∧ (∀ old, (c, old) ∈ csrTable s → c ≠ 0 →
        c.toNat ≤ 7 ∨ ((curA s).handler = true ∧ 0x24 ≤ c.toNat ∧ c.toNat ≤ 0x26) →
      exec (.csrw p a c) s = .next (regs fun x => x.csrWrite c v)
      ∧ exec (.csrs p a c) s = .next (regs fun x => x.csrWrite c (old ||| v))
      ∧ exec (.csrc p a c) s = .next (regs fun x => x.csrWrite c (old &&& ~~~v)))
    ∧ (7 < c.toNat → (curA s).handler = false ∨ c.toNat < 0x24 ∨ 0x26 < c.toNat →
      exec (.csrw p a c) s = .next (trapped s 0 0 .illegal (BitVec.ofNat 48 (5 + 512 * 0x31)))
      ∧ exec (.csrs p a c) s = .next (trapped s 0 0 .illegal (BitVec.ofNat 48 (5 + 512 * 0x32)))
      ∧ exec (.csrc p a c) s = .next (trapped s 0 0 .illegal (BitVec.ofNat 48 (5 + 512 * 0x33)))))

/-! ### MEM forms -/

/-- R133, R135, R141, R143: a load or store that passes its checks leaves one entry with the capability's copy and the
object offset `lower + (So + imm · width)`; the destination of a load becomes pending. Through a noise capability a load of
2 or 4 bytes takes its value at commit and reads no memory.
R15, R135, R338: a load or store that fails a check raises one capability fault in slot 2 with slot-resume 2, and
records the first failing check: 1 invalid, 2 rights, 3 bounds, 4 alignment, 5 kind. -/
def Obligations.LoadsAndStores : Prop :=
  (∀ (s : State) (p : Fin 8) (d : Fin 32) (c : Fin 16) (o : Fin 32) (w : Width) (i : BitVec 5), s.lets p →
    let off := (((curA s).rs o).toNat + i.toNat * w.bytes) % 2 ^ 64
    let off16 := (((curA s).rs o).toNat + i.toNat * 16) % 2 ^ 64
    let cap := (curA s).rh c
    let at' := s.objectOffset c off
    let at16 := s.objectOffset c off16
    (s.Permits c [Right.read] off w.bytes w.bytes → cap.has Right.noise = false →
      exec (.ld p d c o w i) s = .next (pended (queued s (.load d w) cap at') d))
    ∧ (s.Permits c [Right.read] off w.bytes w.bytes → cap.has Right.noise = true → w = .f16 ∨ w = .i32 ∨ w = .z32 →
      exec (.ld p d c o w i) s = .next (pended (queued s (.noise d (w.extend
        (noiseElem (if w = .f16 then fmtBf16 else fmtF32) (curA s).snap.nseed (curA s).snap.nstep (at' / w.bytes))))
        cap at') d))
    ∧ (s.Permits c [Right.write] off w.bytes w.bytes → cap.has Right.noise = false →
      exec (.st p d c o w i) s = .next (queued s (.store w.bytes (((curA s).rs d).setWidth 128)) cap at'))
    ∧ (s.Permits c [Right.read] off16 16 16 → cap.has Right.noise = false →
      exec (.ldp p d c o i) s
        = .next (pended (pended (queued s (.loadPair d) cap at16) d) (Fin.ofNat 32 (d.val + 1))))
    ∧ (s.Permits c [Right.write] off16 16 16 → cap.has Right.noise = false →
      exec (.stp p d c o i) s = .next (queued s
        (.store 16 (BitVec.ofNat 128 (((curA s).rs (Fin.ofNat 32 (d.val + 1))).toNat * 2 ^ 64 + ((curA s).rs d).toNat)))
        cap at16)))
  ∧ (∀ (s : State) (p : Fin 8) (d : Fin 32) (c : Fin 16) (o : Fin 32) (w : Width) (i : BitVec 5), s.lets p →
    let off := (((curA s).rs o).toNat + i.toNat * w.bytes) % 2 ^ 64
    let off16 := (((curA s).rs o).toNat + i.toNat * 16) % 2 ^ 64
    let cap := (curA s).rh c
    let fault (sub : Nat) : State := trapped s 2 2 .capability (BitVec.ofNat 48 (sub + 256 * c.val))
    let Checks (j : Instr) (need off n : Nat) : Prop :=
      (cap.valid = false → exec j s = .next (fault 1))
      ∧ (cap.valid = true → cap.has need = false → exec j s = .next (fault 2))
      ∧ (cap.valid = true → cap.has need = true → 2 ^ 48 ≤ off ∨ cap.len.toNat < off + n → exec j s = .next (fault 3))
      ∧ (cap.valid = true → cap.has need = true → off < 2 ^ 48 → off + n ≤ cap.len.toNat → s.objectOffset c off % n ≠ 0 →
        exec j s = .next (fault 4))
    let Kind (j : Instr) (need off n : Nat) : Prop :=
      s.Permits c [need] off n n → cap.has Right.noise = true → exec j s = .next (fault 5)
    Checks (.ld p d c o w i) Right.read off w.bytes ∧ Checks (.st p d c o w i) Right.write off w.bytes
    ∧ Checks (.ldp p d c o i) Right.read off16 16 ∧ Checks (.stp p d c o i) Right.write off16 16
    ∧ Kind (.st p d c o w i) Right.write off w.bytes ∧ Kind (.ldp p d c o i) Right.read off16 16
    ∧ Kind (.stp p d c o i) Right.write off16 16
    ∧ (w = .d64 ∨ w = .i8 ∨ w = .z8 → Kind (.ld p d c o w i) Right.read off w.bytes))

/-- R112, R147, R148: `MARK` and `FENCE` enter a marker behind the entries before them, and one with nothing before it has
done its work; `FENCE` waits at the wider of its own scope and the bundle's.
R154, R165, R166, R167, R168, R169, R170, R172, R173: the timeline and barrier forms of objects that the task owns; one
that it does not own raises `GRANT`, and a count outside 1 to 65,536 the schedule fault. -/
def Obligations.OrderingForms : Prop :=
  (∀ (s : State) (p : Fin 8) (sc : Scope), s.lets p →
    exec (.mark p) s = .next (queued s .mark Cap.none 0)
    ∧ (∃ w, exec (.fence p sc) s = .next (queued s (.fence w) Cap.none 0)
        ∧ w.code = max sc.code (curA s).scope.code))
  ∧ (∀ (s : State) (p pd : Fin 8) (d a : Fin 32) (t : Fin 20) (b : BitVec 8), s.lets p →
    let grant : State := trapped s 2 2 .capability 6
    let v := (curA s).rs a
    let maps : Prop := if (curA s).kind = .cluster then b.toNat / 64 < (members s s.cur).length else b.toNat < 64
    (t.val % 4 < (members s s.cur).length →
      exec (.tlWait p d t a) s = .next (pended (queued s (.tlWait d t v) Cap.none 0) d)
      ∧ exec (.tlRead p d t) s = .next (pended (queued s (.tlRead d t) Cap.none 0) d))
    ∧ ((members s s.cur).length ≤ t.val % 4 →
      exec (.tlWait p d t a) s = .next grant ∧ exec (.tlRead p d t) s = .next grant)
    ∧ exec (.tlBump p) s = .next (dirtied (queued s .tlBump Cap.none 0))
    ∧ (maps →
      (v.toNat ≠ 0 → v.toNat ≤ 65536 →
        exec (.barInit p a b) s = .next (dirtied (queued s (.bar .init b v) Cap.none 0)))
      ∧ (v.toNat = 0 ∨ 65536 < v.toNat → exec (.barInit p a b) s = .next (trapped s 2 2 .schedule 11))
      ∧ exec (.barArr p b) s = .next (dirtied (queued s (.bar .arr b 0) Cap.none 0))
      ∧ exec (.barDrop p b) s = .next (dirtied (queued s (.bar .drop b 0) Cap.none 0))
      ∧ exec (.barXp p a b) s = .next (dirtied (queued s (.bar .xp b v) Cap.none 0))
      ∧ exec (.barWait p d b) s = .next (pended (queued s (.barWait d b none) Cap.none 0) d)
      ∧ exec (.barTest p b pd) s = .next (queued s (.barTest b pd ((curA s).acnt + 64)) Cap.none 0))
    ∧ (¬ maps → exec (.barInit p a b) s = .next grant ∧ exec (.barArr p b) s = .next grant
      ∧ exec (.barDrop p b) s = .next grant ∧ exec (.barXp p a b) s = .next grant
      ∧ exec (.barWait p d b) s = .next grant ∧ exec (.barTest p b pd) s = .next grant))

/-- R139, R144, R145: an atomic that passes its checks leaves one entry with its operand, `Sd` read at commit for `CAS`,
makes `Sd` pending and sets `PHDIRTY`.
R139, R146: a reduction that passes its checks leaves one entry, writes no register and sets `PHDIRTY`.
R15, R135, R144, R338: an atomic or a reduction that fails a check raises the capability fault of the first failing
check in slot 2 with slot-resume 2. -/
def Obligations.AtomicsAndReductions : Prop :=
  (∀ (s : State) (p : Fin 8) (d : Fin 32) (c : Fin 16) (o v : Fin 32) (w : Bool), s.lets p →
    let off := ((curA s).rs o).toNat
    let n := if w then 8 else 4
    s.Permits c [Right.atomic] off n n → ((curA s).rh c).has Right.noise = false →
    let out (op : AtomOp) : State := dirtied (pended
      (queued s (.atomic (some d) op (!w) ((curA s).rs v) ((curA s).rs d)) ((curA s).rh c) (s.objectOffset c off)) d)
    exec (.amoAdd p d c o v w) s = .next (out .add)
    ∧ exec (.amoAnd p d c o v w) s = .next (out .and)
    ∧ exec (.amoOr p d c o v w) s = .next (out .or)
    ∧ exec (.amoXor p d c o v w) s = .next (out .xor)
    ∧ exec (.amoMin p d c o v w) s = .next (out .min)
    ∧ exec (.amoMax p d c o v w) s = .next (out .max)
    ∧ exec (.amoMinz p d c o v w) s = .next (out .minz)
    ∧ exec (.amoMaxz p d c o v w) s = .next (out .maxz)
    ∧ exec (.amoSwap p d c o v w) s = .next (out .swap)
    ∧ exec (.cas p d c o v w) s = .next (out .cas))
  ∧ (∀ (s : State) (p : Fin 8) (c : Fin 16) (o v : Fin 32) (w : Bool), s.lets p →
    let off := ((curA s).rs o).toNat
    let n := if w then 8 else 4
    ((curA s).rh c).has Right.noise = false →
    let out (op : AtomOp) (four : Bool) : State :=
      dirtied (queued s (.atomic none op four ((curA s).rs v) 0) ((curA s).rh c) (s.objectOffset c off))
    (s.Permits c [Right.atomic] off n n →
      exec (.redAdd p c o v w) s = .next (out .add (!w))
      ∧ exec (.redAnd p c o v w) s = .next (out .and (!w))
      ∧ exec (.redOr p c o v w) s = .next (out .or (!w))
      ∧ exec (.redXor p c o v w) s = .next (out .xor (!w))
      ∧ exec (.redMin p c o v w) s = .next (out .min (!w))
      ∧ exec (.redMax p c o v w) s = .next (out .max (!w)))
    ∧ (s.Permits c [Right.atomic] off 4 4 → exec (.redFadd p c o v) s = .next (out .fadd true)))
  ∧ (∀ (s : State) (p : Fin 8) (d : Fin 32) (c : Fin 16) (o v : Fin 32) (w : Bool), s.lets p →
    let off := ((curA s).rs o).toNat
    let cap := (curA s).rh c
    let fault (sub : Nat) : State := trapped s 2 2 .capability (BitVec.ofNat 48 (sub + 256 * c.val))
    let Checks (n : Nat) (j : Instr) : Prop :=
      (cap.valid = false → exec j s = .next (fault 1))
      ∧ (cap.valid = true → cap.has Right.atomic = false → exec j s = .next (fault 2))
      ∧ (cap.valid = true → cap.has Right.atomic = true → 2 ^ 48 ≤ off ∨ cap.len.toNat < off + n → exec j s = .next (fault 3))
      ∧ (cap.valid = true → cap.has Right.atomic = true → off < 2 ^ 48 → off + n ≤ cap.len.toNat → s.objectOffset c off % n ≠ 0 →
        exec j s = .next (fault 4))
      ∧ (s.Permits c [Right.atomic] off n n → cap.has Right.noise = true → exec j s = .next (fault 5))
    (∀ j ∈ [Instr.amoAdd p d c o v w, .amoAnd p d c o v w, .amoOr p d c o v w, .amoXor p d c o v w, .amoMin p d c o v w
        , .amoMax p d c o v w, .amoMinz p d c o v w, .amoMaxz p d c o v w, .amoSwap p d c o v w, .cas p d c o v w
        , .redAdd p c o v w, .redAnd p c o v w, .redOr p c o v w, .redXor p c o v w, .redMin p c o v w, .redMax p c o v w]
      , Checks (if w then 8 else 4) j)
    ∧ Checks 4 (.redFadd p c o v))

/-- R150, R152, R153: the stream forms. A bind or reposition waits in order for the pops issued before it that have beats
left; `STRM.LVL` gives the blocks buffered, with latency 2. -/
def Obligations.StreamForms : Prop :=
  ∀ (s : State) (p : Fin 8) (q h hd : Fin 16) (d o a : Fin 32), s.lets p →
    let x := curA s
    let off := (x.rs o).toNat
    let later (holds : List (Fin 32 × Nat)) (act : Reposition) : State :=
      updCur s fun x => { x with reposition := x.reposition ++ [⟨q, x.nextId, true, false, holds, act⟩] }
    (s.Permits h [Right.read] off 64 64 → (x.rh h).has Right.noise = false → (x.rh hd).valid = true →
      (x.rh hd).has Right.stream = true → (x.rh hd).has Right.read = true ∨ (x.rh hd).has Right.noise = true →
      x.north.form = none → x.north.inbox = [] → x.west.form = none → x.west.inbox = [] →
      exec (.strmBind p q h o hd) s
        = .next (queued (later [] (.bind (x.rh hd) hd x.snap.nseed x.snap.nstep)) (.strmDesc q) (x.rh h)
            (s.objectOffset h off)))
    ∧ (x.reposition = [] → x.streams[q].mode ≠ .unbound →
      let holds := ((x.popsOf q).filter fun m => !m.stalled).map fun m => (m.owner, m.entry)
      exec (.strmAdv p q a) s = .next (later holds (.form (.adv (x.rs a).toNat)))
      ∧ exec (.strmRew p q) s = .next (later holds (.form .rew)))
    ∧ (x.reposition = [] → x.streams[q].mode = .unbound →
      exec (.strmAdv p q a) s = .next (trapped s 2 2 .schedule (BitVec.ofNat 48 (2 + 256 * q.val)))
      ∧ exec (.strmRew p q) s = .next (trapped s 2 2 .schedule (BitVec.ofNat 48 (2 + 256 * q.val))))
    ∧ (x.reposition = [] → x.streams[q].mode = .bound ∨ x.streams[q].mode = .exhausted → ∃ due,
      exec (.strmLvl p d q) s = .next { updCur s fun x => x.pendWrite (.s d (BitVec.ofNat 64 x.streams[q].buf.length)) due
        with freeCtr := s.freeCtr + 1 } ∧ x.acnt < due ∧ due ≤ x.acnt + 2)

/-- R154, R161, R162, R164: the tongs forms of a context that the task owns. `CPY.SET` loads the shadow set, `CPY.GO` starts
or arms it, and each leaves an entry, in the order of the commands to the context; a scheduled context takes `CPY.STAGE`, and
no copy block. That a block whose kind cannot be told yet is checked as it arrives is the model's reading (log entry 84). A
context is busy while a copy is active and while a `CPY.GO` that starts one waits; that one which will start nothing does not
make it busy is the model's reading too (log entry 86).
R135, R154: a tongs context that the task does not own raises the `GRANT` fault. -/
def Obligations.TongsForms : Prop :=
  (∀ (s : State) (p : Fin 8) (n h : Fin 16) (o : Fin 32) (st : BitVec 6) (i : BitVec 8) (b : Fin 32), s.lets p →
    (members s s.cur)[n.val % 4]? = some b → (getA s b).task = (curA s).task →
    let cl := clusterOf b
    let k := 4 * (n.val / 4) + inCluster b
    let t := vget s.clusters[cl].tongs k
    let off := ((curA s).rs o).toNat
    let at' := s.objectOffset h off
    let sh (v : Shadow) : State := putTongs s cl k { t with
      shadow := v, order := (t.pending s).map (fun q => (q.1, q.2.id)) ++ [(s.cur, (curA s).nextId)] }
    let bad : State := trapped s 2 2 .schedule (BitVec.ofNat 48 (5 + 256 * n.val))
    let sets (v : Shadow) : Prop := exec (.cpySet p n h o) s
      = .next (queued (sh v) (.cpyBlock n (curA s).snap.h) ((curA s).rh h) at')
    (s.Permits h [Right.read] off 64 64 → ((curA s).rh h).has Right.noise = false →
      (t.schedule = none → t.shadow ≠ .armed → sets .loaded)
      ∧ (t.schedule = none → t.shadow = .armed → exec (.cpySet p n h o) s = .next bad)
      ∧ (t.schedule.isSome = true → (curA s).queue = [] →
        let seen := (readObj s (curA s).ctx ((curA s).rh h).obj at' 1 [Right.read]).2
        ((∀ v, seen = .value v false → v % 16 = 0 ∨ 4 ≤ v % 16) → sets t.shadow)
        ∧ (∀ v, seen = .value v false → 1 ≤ v % 16 → v % 16 ≤ 3 → exec (.cpySet p n h o) s = .next bad)))
    ∧ (t.schedule = none → t.shadow = .loaded →
      let goes (v : Shadow) : Prop := exec (.cpyGo p n) s = .next (dirtied (queued (sh v) (.cpyGo n) Cap.none 0))
      (t.active.isSome = true → goes .armed)
      ∧ (t.active = none → t.pending s = [] → goes .empty)
      ∧ (∀ q m, t.active = none → t.pending s = [q] → q.2.op = .cpyGo m →
        goes (if t.block.isSome = true ∧ t.armed = false then .armed else .empty)))
    ∧ (t.schedule.isSome = true ∨ t.shadow ≠ .loaded → exec (.cpyGo p n) s = .next bad)
    ∧ (t.schedule.isSome = true →
        exec (.cpyStage p n st) s = .next (queued (sh t.shadow) (.cpyStage n st.toNat) Cap.none 0))
    ∧ (t.schedule = none → exec (.cpyStage p n st) s = .next bad)
    ∧ exec (.cpbinv p i) s = .next (queued s (.cpbinv i) Cap.none 0))
  ∧ (∀ (s : State) (p : Fin 8) (n h : Fin 16) (o : Fin 32) (st : BitVec 6), s.lets p →
    (∀ b, (members s s.cur)[n.val % 4]? = some b → (getA s b).task ≠ (curA s).task) →
    let grant : State := trapped s 2 2 .capability 6
    exec (.cpyGo p n) s = .next grant ∧ exec (.cpyStage p n st) s = .next grant
    ∧ (s.Permits h [Right.read] ((curA s).rs o).toNat 64 64 → ((curA s).rh h).has Right.noise = false →
      exec (.cpySet p n h o) s = .next grant))

/-- R139, R174, R175, R176, R177, R178, R242: the forms that ask the command processor, the walkers and the bank unit. A
bank is granted when it is an upper bank of the slice of one of the task's arrays in this cluster. -/
def Obligations.ServiceForms : Prop :=
  ∀ (s : State) (p pd : Fin 8) (c : Fin 16) (o l : Fin 32) (e : BitVec 16) (n : Fin 32) (r : Role) (v : View), s.lets p →
    let off := ((curA s).rs o).toNat
    let len := ((curA s).rs l).toNat
    let cap := (curA s).rh c
    let at' := s.objectOffset c off
    let known := ∃ v ∈ s.events, v.ctx = (curA s).ctx ∧ v.name = e
    let mine := ∃ b ∈ members s s.cur, clusterOf b = clusterOf s.cur ∧ inCluster b = n.val % 8 / 2
    (s.events.length < 4096 ∨ known → exec (.evSig p e) s = .next (dirtied (queued s (.evSig e) Cap.none 0)))
    ∧ (4096 ≤ s.events.length → ¬ known → exec (.evSig p e) s = .next (trapped s 2 3 .resource (e.setWidth 48)))
    ∧ (s.Permits c [Right.read] off 64 64 → cap.has Right.noise = false →
      exec (.tlaunch p c o) s = .next (dirtied (queued s .launch cap at')))
    ∧ ((s.Permits c [Right.read] off len 1 ∨ s.Permits c [Right.write] off len 1) → cap.has Right.noise = false →
      exec (.probe p pd c o l) s = .next (queued s (.probe pd len ((curA s).acnt + 2048)) cap at'))
    ∧ (s.Permits c [Right.read] off len 1 → cap.has Right.noise = false →
      exec (.unpin p c o l) s = .next (queued s (.unpin len) cap at')
      ∧ exec (.prefetch p c o l) s = .next (queued s (.prefetch len) cap at')
      ∧ exec (.evict p c o l) s = .next (queued s (.evict len) cap at'))
    ∧ (16 ≤ n.val → mine →
      exec (.role p n r v) s
        = .next { dirtied (queued s (.role n r v s.freeCtr) Cap.none 0) with freeCtr := s.freeCtr + 1 })
    ∧ (n.val < 16 ∨ ¬ mine → exec (.role p n r v) s = .next (trapped s 2 2 .capability 6))

/-! ### FDN, FDW, WAVE, RSEL and EDGE forms -/

/-- R206, R207, R208, R209, R210: on an array that is no chain's, a form whose stream is there and whose feeder has nothing
pending becomes the feeder's form in progress, with its beats and the standing rotation; a pop enters the load queue.
R206, R207, R209: `FN.TAG` and `FW.TAG` set the number of the next pop, `FN.SKEW` and `FW.SKEW` the standing rotation, and
nothing else; a pop of an unbound stream or an output stream traps at issue. -/
def Obligations.FeederForms : Prop :=
  (∀ (s : State) (p : Fin 8) (q : Fin 16) (k : Skew) (l : LaneW) (n : Fin 16), s.lets p →
    (curA s).kind = .cluster →
    let mode := (curA s).streams[q].mode
    let Runs (west : Bool) (kind : FeederKind) (sk : Skew) (stream : Fin 16) (beats : Nat) (i : Instr) : Prop :=
      ((curA s).feeder west).Idle →
      (kind.pops = true → mode = .bound ∨ mode = .binding ∨ mode = .exhausted) →
      ∃ t, exec i s = .next t
        ∧ ((curA t).feeder west).form
            = some ⟨kind, stream, sk, ((curA s).feeder west).rot, beats, false, s.cur, (curA s).nextId⟩
        ∧ ((curA t).feeder west).regs = ((curA s).feeder west).regs
        ∧ ((curA t).feeder west).tags = ((curA s).feeder west).tags
        ∧ (curA t).feeder (!west) = (curA s).feeder (!west)
        ∧ (kind.pops = false → (curA t).queue = (curA s).queue ∧ (curA t).nextId = (curA s).nextId)
        ∧ (kind.pops = true → (curA t).queue
            = settleMarkers ((curA s).queue ++ [⟨(curA s).nextId, .pop s.cur west, Cap.none, 0, (curA s).scope, false⟩])
            ∧ (curA t).nextId = (curA s).nextId + 1)
        ∧ (curA t).regs = (curA s).regs ∧ t = setA s s.cur (curA t)
    Runs false .pop k q (n.val + 1) (.fnPop p q k n)
    ∧ Runs true .pop k q (n.val + 1) (.fwPop p q k n)
    ∧ Runs false (.popt l) k q (n.val + 1) (.fnPopt p q k l n)
    ∧ Runs true (.popt l) k q (n.val + 1) (.fwPopt p q k l n)
    ∧ Runs false .bcast .noskew q (n.val + 1) (.fnBcast p q n)
    ∧ Runs true .bcast .noskew q (n.val + 1) (.fwBcast p q n)
    ∧ Runs false .zero .noskew 0 (n.val + 1) (.fnZero p n)
    ∧ Runs true .zero .noskew 0 (n.val + 1) (.fwZero p n)
    ∧ Runs false .hold .noskew 0 1 (.fnHold p)
    ∧ Runs true .hold .noskew 0 1 (.fwHold p))
  ∧ (∀ (s : State) (p : Fin 8) (a : Fin 32) (k : BitVec 6) (q : Fin 16) (sk : Skew) (n : Fin 16), s.lets p →
    (curA s).kind = .cluster →
    let num := ((curA s).rs a).setWidth 16
    let bad (slot sub : Nat) : State := trapped s slot slot .schedule (BitVec.ofNat 48 (sub + 256 * q.val))
    exec (.fnTag p a) s = .next (updCur s fun x => { x with north := { x.north with next := num, impliedNext := num } })
    ∧ exec (.fwTag p a) s = .next (updCur s fun x => { x with west := { x.west with next := num, impliedNext := num } })
    ∧ exec (.fnSkew p k) s = .next (updCur s fun x => { x with north := { x.north with rot := k } })
    ∧ exec (.fwSkew p k) s = .next (updCur s fun x => { x with west := { x.west with rot := k } })
    ∧ ((curA s).streams[q].mode = .unbound →
      exec (.fnPop p q sk n) s = .next (bad 3 2) ∧ exec (.fwPop p q sk n) s = .next (bad 4 2))
    ∧ ((curA s).streams[q].mode = .output →
      exec (.fnPop p q sk n) s = .next (bad 3 15) ∧ exec (.fwPop p q sk n) s = .next (bad 4 15)))

/-- R16, R20, R23, R127: a `WAVE` form becomes the wave instruction in progress: all its beats to come, its column mask and
the registers it samples as they stood before the bundle. Nothing else changes as it issues. -/
def Obligations.WaveForms : Prop :=
  ∀ (s : State) (i : Instr) (n : Fin 16) (m : Fin 8), waveFields i = some (n, m) →
    exec i s = .next (updCur s fun x => { x with
      wave := some
        { form := i, beats := n.val + 1, beat := 0, mask := x.snap.m[m]
          samples := ⟨x.snap.orow, x.snap.ocol, x.snap.nseed, x.snap.nstep, x.snap.dthr, x.snap.nctl, x.snap.dscl⟩ } })

/-- R24, R52, R213: the row selector's word, bit by bit; only `RS.SET` sets the mode. -/
def Obligations.SelectorForms : Prop :=
  ∀ (s : State) (p : Fin 8) (travel : Bool) (a : Fin 32) (r lo hi : Fin 64), s.lets p →
    let Sets (i : Instr) (mode : Bool) (bit : Nat → Bool) : Prop :=
      ∃ v, exec i s = .next (updCur s fun x => { x with regs := { x.regs with rsw := v, travel := mode } })
        ∧ ∀ k, k < 64 → v.getLsbD k = bit k
    Sets (.rsSet p travel a) travel (fun k => ((curA s).rs a).getLsbD k)
    ∧ Sets (.rsAll p) (curA s).regs.travel (fun _ => true)
    ∧ Sets (.rsNone p) (curA s).regs.travel (fun _ => false)
    ∧ Sets (.rsRow p r) (curA s).regs.travel (fun k => decide (k = r.val))
    ∧ (lo.val ≤ hi.val →
      Sets (.rsBand p lo hi) (curA s).regs.travel (fun k => decide (lo.val ≤ k ∧ k ≤ hi.val)))

/-- R20, R214, R215, R216, R218, R222: the collector forms of an array that is no chain's. A push to a writable stream makes it
an output stream, enters 64 blocks a beat in the store queue, and captures east row i on cycle b + i, south on b + 63.
Which register the fault of a push without the write right names is the model's reading (log entry 30).
R217, R219, R220, R223: the forms of the top-k sorter on an array that is no chain's. `TK.INIT` and `TK.READ` take k; a
merge or a read runs one beat for every four places of the list; `TK.CNT` reads how many it holds.
That `TK.MERGE` of an unbound stream faults at slot 7 as it issues is the model's reading (log entry 30). -/
def Obligations.EdgeForms : Prop :=
  (∀ (s : State) (p : Fin 8) (q n : Fin 16), s.lets p → (curA s).kind = .cluster →
    let now := (curA s).acnt
    let first := (curA s).nextId
    let mode := (curA s).streams[q].mode
    let beat (south : Bool) (k : Nat) (use : CaptureUse) : Capture :=
      ⟨south, now + k, now + k + (if south then 63 else 0), s.cur, use, 0, 0, false, 0⟩
    let Pushes (i : Instr) (beats blocks : Nat) (caps : List Capture) : Prop :=
      ∃ t, exec i s = .next t
        ∧ (curA t).edge = some (.plain beats)
        ∧ (curA t).captures = (curA s).captures ++ caps
        ∧ (curA t).nextId = first + blocks
        ∧ (curA t).queue.length = (curA s).queue.length + blocks
        ∧ (curA t).streams[q].mode = .output
        ∧ (curA t).regs = (curA s).regs ∧ t = setA s s.cur (curA t)
    ((curA s).reposition = [] → mode = .bound ∨ mode = .exhausted ∨ mode = .output →
      (curA s).streams[q].cap.has Right.write = true →
      Pushes (.ecPush p q n) (n.val + 1) (64 * (n.val + 1))
        ((List.range (n.val + 1)).map fun k => beat false k (.push (first + 64 * k)))
      ∧ Pushes (.scPush p q n) (n.val + 1) (64 * (n.val + 1))
        ((List.range (n.val + 1)).map fun k => beat true k (.push (first + 64 * k)))
      ∧ Pushes (.ecTmk p q) 1 1 [beat false 0 (.mark first)])
    ∧ exec (.ecDisc p n) s = .next (updCur s fun x => { x with edge := some (.plain (n.val + 1)) })
    ∧ exec (.ecTopk p n) s = .next (updCur s fun x => { x with
        edge := some (.plain (n.val + 1))
        captures := x.captures ++ (List.range (n.val + 1)).map fun k => beat false k .offer })
    ∧ ((curA s).reposition = [] → mode = .unbound ∨ mode = .binding →
      exec (.ecPush p q n) s = .next (trapped s 7 7 .schedule (BitVec.ofNat 48 (2 + 256 * q.val))))
    ∧ ((curA s).reposition = [] → mode = .bound → (curA s).streams[q].cap.has Right.write = false →
      exec (.ecPush p q n) s
        = .next (trapped s 7 7 .capability (BitVec.ofNat 48 (2 + 256 * (curA s).streams[q].reg.val)))))
  ∧ (∀ (s : State) (p : Fin 8) (q : Fin 16) (d : Fin 32) (k : BitVec 8) (f : Fmt) (low on : Bool), s.lets p →
    (curA s).kind = .cluster →
    let mode := (curA s).streams[q].mode
    let beats := ((curA s).sorter.k + 3) / 4
    exec (.tkInit p k f low) s = .next (updCur s fun x => { x with
        edgeCmds := x.edgeCmds ++ [(x.acnt, .init (k.toNat + 1) f low)] })
    ∧ (mode = .bound ∨ mode = .binding ∨ mode = .exhausted →
      exec (.tkMerge p q) s = .next (updCur s fun x => { x with
        edge := some (.merge q beats false)
        reposition := x.reposition.map fun e => if e.q = q then { e with merge := false } else e }))
    ∧ (mode = .unbound →
      exec (.tkMerge p q) s = .next (trapped s 7 7 .schedule (BitVec.ofNat 48 (2 + 256 * q.val))))
    ∧ ((curA s).reposition = [] → (curA s).edgeCmds = [] → mode = .bound ∨ mode = .exhausted ∨ mode = .output →
      (curA s).streams[q].cap.has Right.write = true →
      ∃ t blocks, exec (.tkRead p q) s = .next t ∧ (curA t).edge = some (.read blocks s.cur (curA s).nextId)
        ∧ blocks.length = beats ∧ (curA t).nextId = (curA s).nextId + beats
        ∧ (curA t).sorter = (curA s).sorter ∧ (curA t).streams[q].mode = .output ∧ t = setA s s.cur (curA t))
    ∧ exec (.tkCnt p d) s = .next (wrote s d (BitVec.ofNat 64 (curA s).sorter.list.length))
    ∧ exec (.scChain p on) s = .next s)

/-! ### Cells -/

/-- R22, R24, R117, R179: a cell that executes its step is done for the cycle, no other cell changes and memory does not; a
step that a row is not offered, a NOP step and a cell that the mask or the selector leaves out change nothing. With a
step that carries a phase the cell takes its checkpoint first. On a cycle that has not begun, the cycle begins first, and
where the cycle is none on which cells move, nothing happens.
That cells execute one by one is the model's choice (log entry 72). -/
def Obligations.CellSteps : Prop :=
  ∀ (s : State) (a : Fin 32) (i j : Fin 64) (w : WaveStep) (f : WaveForm),
    let key := 64 * i.val + j.val
    let ev := Instr.cellStepExecute a i (j, [])
    (s.Executes a i j w f → ∃ t, exec ev s = .next t
      ∧ key ∈ (getA t a).done ∧ (t.cell a i.val j.val).lastStep = w.num + 1
      ∧ (t.cell a i.val j.val).ckpt = (s.cell a i.val j.val).ckpt
      ∧ (∀ k, k ≠ key → tableFind (getA t a).cells k = tableFind (getA s a).cells k)
      ∧ (∀ b, b ≠ a → (getA t b).cells = (getA s b).cells)
      ∧ (getA t a).prev = (getA s a).prev ∧ (∀ b, (getA t b).regs = (getA s b).regs)
      ∧ t = { s with arrs := t.arrs, freeCtr := s.freeCtr + 1 })
    ∧ (cellsMove s a = true → s.Begun a → offered s a (getA s a).acnt i.val = some w → w.op = some f →
      executes s a (getA s a).acnt w i.val j.val = true → key ∉ (getA s a).done → w.phase = true →
      ∃ t, exec ev s = .next t ∧ key ∈ (getA t a).done
        ∧ ∀ k : Fin 4, (t.cell a i.val j.val).ckpt[k] = (s.cell a i.val j.val).lastTile k)
    ∧ (s.Begun a → offered s a (getA s a).acnt i.val = none → exec ev s = .next s)
    ∧ (s.Begun a → offered s a (getA s a).acnt i.val = some w →
      w.op = none ∨ executes s a (getA s a).acnt w i.val j.val = false ∨ key ∈ (getA s a).done →
      exec ev s = .next s)
    ∧ (cellsMove s a = true → exec ev s = exec ev (openUnit s a))
    ∧ (cellsMove s a = false → exec ev s = .next s)

/-- R26, R184, R185, R187, R188, R197: what a cell's register, flags and index registers hold after it has executed a step
whose operands are clean: moves, the integer element forms lane by lane, the forms that work bit by bit, `SELG`, `GSET`,
`KSET` and `KADD`. A register that is not `H` or `V` takes its value within the form's latency (R182).
R30, R31, R77, R181, R196: where an operand is poisoned, a register destination is poisoned, and poison consumption
becomes pending at the sequencer that issues the array's steps. Where a feeder register carries another tag than the one
implied, the destination keeps its value and is poisoned, and a schedule trap becomes pending. A word of the cell store in
which an error is found is poisoned, and keeps the other words. That the traps of a chain's cells go to the sequencer at its
head, which issues their steps, is the model's reading (log entry 29). -/
def Obligations.CellResults : Prop :=
  (∀ (s : State) (a : Fin 32) (i j : Fin 64) (w : WaveStep) (f : WaveForm) (n : Fin 16) (m : Fin 8) (d : Dst) (x y : Src) (e : Elem)
    (g k : Fin 4) (on : Bool) (i9 : BitVec 9) (i10 : BitVec 10), s.Executes a i j w f →
    let c := s.cell a i.val j.val
    let u := (s.reads a i j f x).bits
    let v := (s.reads a i j f y).bits
    let Cell' (i' : Instr) (P : Cell → Prop) : Prop :=
      f.form = i' → ∃ t, exec (.cellStepExecute a i (j, [])) s = .next t ∧ P (t.cell a i.val j.val)
    let Reg (lat : Nat) (i' : Instr) (P : Reg256 → Prop) : Prop := f.form = i' →
      ∃ t r, exec (.cellStepExecute a i (j, [])) s = .next t ∧ Takes s t a i j lat d ⟨r, false⟩ 0 ∧ P r
        ∧ c.Keeps (t.cell a i.val j.val) d
    let lanes (op : Int → Int → Int) (r : Reg256) : Prop := ∀ l, l < elemLanes e →
      (lane r (elemWidth e) l : Int)
        = op (elemInt e (lane u (elemWidth e) l)) (elemInt e (lane v (elemWidth e) l)) % 2 ^ elemWidth e
    (s.clean a i j f x → Reg 1 (.waveMov n m d x e) (fun r => r = u))
    ∧ (s.clean a i j f x → s.clean a i j f y →
      Reg 1 (.waveAnd n m d x y e) (fun r => ∀ b, r.getLsbD b = (u.getLsbD b && v.getLsbD b))
      ∧ Reg 1 (.waveOr n m d x y e) (fun r => ∀ b, r.getLsbD b = (u.getLsbD b || v.getLsbD b))
      ∧ Reg 1 (.waveXor n m d x y e) (fun r => ∀ b, r.getLsbD b = (u.getLsbD b != v.getLsbD b))
      ∧ (e.isFloat = false →
        Reg 2 (.waveAdd n m d x y e) (lanes fun p q => p + q)
        ∧ Reg 2 (.waveSub n m d x y e) (lanes fun p q => p - q)
        ∧ Reg 2 (.waveMul n m d x y e) (lanes fun p q => p * q)
        ∧ Reg 2 (.waveMin n m d x y e) (lanes fun p q => min p q)
        ∧ Reg 2 (.waveMax n m d x y e) (lanes fun p q => max p q)))
    ∧ (s.clean a i j f (if c.g.getLsbD g.val then x else y) →
      Reg 1 (.selg n m d x y g) (fun r => r = if c.g.getLsbD g.val then u else v))
    ∧ Cell' (.gset n m g on) (fun c' => ∀ b : Fin 4, c'.g.getLsbD b.val = if b = g then on else c.g.getLsbD b.val)
    ∧ Cell' (.kset n m k i9) (fun c' => c'.k[k] = i9)
    ∧ Cell' (.kadd n m k i10) (fun c' => c'.k[k].toNat = (c.k[k].toNat + i10.toNat) % 512))
  ∧ (∀ (s : State) (a : Fin 32) (i j : Fin 64) (w : WaveStep) (f : WaveForm) (n : Fin 16) (m : Fin 8) (x : Src) (e : Elem),
    let stale := staleFeeder (getA s a) i.val j.val x
    (s.Executes a i j w f → f.form = .waveMov n m .h x e →
      (stale = none → (s.reads a i j f x).poison = true →
        ∃ t, exec (.cellStepExecute a i (j, [])) s = .next t ∧ (t.cell a i.val j.val).h.poison = true
          ∧ ∃ p ∈ (getA t (issuer s a)).traps, p.cause = .poison)
      ∧ (∀ feeder, stale = some feeder →
        ∃ t, exec (.cellStepExecute a i (j, [])) s = .next t
          ∧ (t.cell a i.val j.val).h = ⟨(s.cell a i.val j.val).h.bits, true⟩
          ∧ ∃ p ∈ (getA t (issuer s a)).traps, p.cause = .schedule ∧ p.detail.toNat % 256 = 6))
    ∧ (s.Begun a → offered s a (getA s a).acnt i.val = none → ∀ k : Fin 512,
      ∃ t, exec (.cellStepExecute a i (j, [.word k])) s = .next t
        ∧ (t.cell a i.val j.val).word k.val = ⟨((s.cell a i.val j.val).word k.val).bits, true⟩
        ∧ ∀ l : Fin 512, l ≠ k → (t.cell a i.val j.val).word l.val = (s.cell a i.val j.val).word l.val))

/-- R76, R82, R179, R182, R184 to R188: the element forms lane by lane, with the numeric flags that they raise: `MOVI`, the
floating `ADD`, `SUB`, `MUL`, `FMA`, `MIN` and `MAX` rounded once to nearest even, the integer `FMA`, `ABS` and `NEG`, the
shifts, and `CMP` and `FLAG`.
R78, R80, R82, R83, R189, R190, R196 to R199: conversions rounded once with the form's mode, `PACK` and `UNPK`, `PERM`,
`XPOSE` and `SHUF`, the approximations, and the cell store's `LDS` and `STS` with their post-increment. -/
def Obligations.ElementResults : Prop :=
  (∀ (s : State) (a : Fin 32) (i j : Fin 64) (w : WaveStep) (f : WaveForm) (n : Fin 16) (m : Fin 8) (d : Dst) (x y : Src) (e : Elem)
    (F : FloatFmt) (cc : CellCc) (g : Fin 4) (i10 : BitVec 10), s.Executes a i j w f →
    let c := s.cell a i.val j.val
    let wd := elemWidth e
    let u (l : Nat) : Nat := lane (s.reads a i j f x).bits wd l
    let v (l : Nat) : Nat := lane (s.reads a i j f y).bits wd l
    let z (l : Nat) : Nat := lane (s.addend a i j w f d).bits wd l
    let Reg (lat : Nat) (i' : Instr) (P : Reg256 → BitVec 32 → Prop) : Prop := f.form = i' →
      ∃ t r fl, exec (.cellStepExecute a i (j, [])) s = .next t ∧ Takes s t a i j lat d ⟨r, false⟩ fl ∧ P r fl
        ∧ c.Keeps (t.cell a i.val j.val) d
    let lanes (X : Nat → Nat × BitVec 32) (r : Reg256) (fl : BitVec 32) : Prop :=
      (∀ l, l < elemLanes e → lane r wd l = (X l).1)
        ∧ ∀ b, fl.getLsbD b = true ↔ ∃ l, l < elemLanes e ∧ (X l).2.getLsbD b = true
    let rounded (q : FVal × Bool) : Nat × BitVec 32 :=
      ((F.round .rne 0 false q.1).1, (F.round .rne 0 false q.1).2 ||| if q.2 then Flag.nv else 0)
    let ints (X : Nat → Int) : Reg256 → BitVec 32 → Prop := lanes fun l => ((X l % 2 ^ wd).toNat, 0)
    let Flags (i' : Instr) (P : Bool → BitVec 32 → Prop) : Prop := f.form = i' →
      ∃ t on fl, exec (.cellStepExecute a i (j, [])) s = .next t ∧ P on fl
        ∧ (∀ b : Fin 4, (t.cell a i.val j.val).g.getLsbD b.val = if b = g then on else c.g.getLsbD b.val)
        ∧ (getA t (issuer s a)).flagPend
          = (getA s (issuer s a)).flagPend ++ if fl = 0 then [] else [((getA s a).acnt, fl)]
    let intHolds (p q : Int) : Prop := match cc with
      | .eq => p = q
      | .ne => p ≠ q
      | .lt => p < q
      | .le => p ≤ q
      | .gt => q < p
      | .ge => q ≤ p
    let floatHolds (p q : FVal) : Prop := match cc with
      | .eq => p.eqv q = true
      | .ne => p.isNan = true ∨ q.isNan = true ∨ p.eqv q = false
      | .lt => p.lt q = true
      | .le => p.lt q = true ∨ p.eqv q = true
      | .gt => q.lt p = true
      | .ge => q.lt p = true ∨ p.eqv q = true
    let invalid (p q : FVal) : Prop := p.isSnan = true ∨ q.isSnan = true
      ∨ (cc ≠ .eq ∧ cc ≠ .ne ∧ (p.isNan = true ∨ q.isNan = true))
    let nv (P : Prop) (fl : BitVec 32) : Prop := fl = 0 ∧ ¬P ∨ fl = Flag.nv ∧ P
    (f.form = .movi n m d i10 e → ∃ t r, exec (.cellStepExecute a i (j, [])) s = .next t ∧ Takes s t a i j 1 d ⟨r, false⟩ 0
      ∧ ∀ l, l < elemLanes e → if e.isFloat = true then lane r wd l = i10.toNat * 2 ^ (wd - 10)
        else (lane r wd l : Int) = i10.toInt % 2 ^ wd)
    ∧ (s.clean a i j f x → s.clean a i j f y →
      (elemFloat e = some F →
        Reg 4 (.waveAdd n m d x y e) (lanes fun l => rounded ((F.value (u l)).add (F.value (v l))))
        ∧ Reg 4 (.waveSub n m d x y e) (lanes fun l => rounded ((F.value (u l)).add (F.value (v l)).neg))
        ∧ Reg 4 (.waveMul n m d x y e) (lanes fun l => rounded ((F.value (u l)).mul (F.value (v l))))
        ∧ ((s.addend a i j w f d).poison = false →
          Reg 4 (.fma n m d x y e) (lanes fun l => rounded ((F.value (u l)).fma (F.value (v l)) (F.value (z l)))))
        ∧ Reg 4 (.waveMin n m d x y e) (lanes fun l => pickMinMax false (F.value (u l)) (F.value (v l)) (u l) (v l) (F.nan.getD 0))
        ∧ Reg 4 (.waveMax n m d x y e) (lanes fun l => pickMinMax true (F.value (u l)) (F.value (v l)) (u l) (v l) (F.nan.getD 0))
        ∧ Flags (.waveCmp n m cc g x y e) (fun on fl =>
          (on = true ↔ ∃ l, l < elemLanes e ∧ floatHolds (F.value (u l)) (F.value (v l)))
          ∧ nv (∃ l, l < elemLanes e ∧ invalid (F.value (u l)) (F.value (v l))) fl))
      ∧ (e.isFloat = false →
        ((s.addend a i j w f d).poison = false →
          Reg 2 (.fma n m d x y e) (ints fun l => elemInt e (u l) * elemInt e (v l) + elemInt e (z l)))
        ∧ Reg 1 (.waveShl n m d x y e) (ints fun l => ((u l : Int)) * 2 ^ v l)
        ∧ Reg 1 (.waveShr n m d x y e) (ints fun l => (u l : Int) / 2 ^ v l)
        ∧ Reg 1 (.waveSar n m d x y e) (ints fun l => signed (u l) wd / 2 ^ v l)
        ∧ Flags (.waveCmp n m cc g x y e) (fun on fl => fl = 0
          ∧ (on = true ↔ ∃ l, l < elemLanes e ∧ intHolds (elemInt e (u l)) (elemInt e (v l))))))
    ∧ (s.clean a i j f x →
      (elemFloat e = some F →
        (let sign (l : Nat) (r : Nat) : Nat × BitVec 32 := if (F.value (u l)).isNan = true
          then (F.nan.getD 0, if (F.value (u l)).isSnan = true then Flag.nv else 0) else (r, 0)
        Reg 4 (.abs n m d x e) (lanes fun l => sign l (u l % 2 ^ (wd - 1)))
        ∧ Reg 4 (.neg n m d x e) (lanes fun l => sign l ((u l + 2 ^ (wd - 1)) % 2 ^ wd)))
        ∧ Flags (.flag n m cc g x e) (fun on fl =>
          (on = true ↔ ∀ l, l < elemLanes e → floatHolds (F.value (u l)) (F.value 0))
          ∧ nv (∃ l, l < elemLanes e ∧ invalid (F.value (u l)) (F.value 0)) fl))
      ∧ (e.isFloat = false →
        Reg 2 (.abs n m d x e) (ints fun l => ((elemInt e (u l)).natAbs : Int))
        ∧ Reg 2 (.neg n m d x e) (ints fun l => -elemInt e (u l))
        ∧ Flags (.flag n m cc g x e) (fun on fl => fl = 0
          ∧ (on = true ↔ ∀ l, l < elemLanes e → intHolds (elemInt e (u l)) 0)))))
  ∧ (∀ (s : State) (a : Fin 32) (i j : Fin 64) (w : WaveStep) (f : WaveForm) (n : Fin 16) (m : Fin 8) (d : Dst) (x y : Src)
    (tgt src : Fmt) (rnd : Rnd) (lw : LaneW) (hi : Bool) (pat : Fin 8) (k : Fin 4) (inc : BitVec 5), s.Executes a i j w f →
    let c := s.cell a i.val j.val
    let u := (s.reads a i j f x).bits
    let v := (s.reads a i j f y).bits
    let Reg (lat : Nat) (i' : Instr) (P : Reg256 → BitVec 32 → Prop) : Prop := f.form = i' →
      ∃ t r fl, exec (.cellStepExecute a i (j, [])) s = .next t ∧ Takes s t a i j lat d ⟨r, false⟩ fl ∧ P r fl
        ∧ c.Keeps (t.cell a i.val j.val) d
    let lanes (lw n : Nat) (X : Nat → Nat × BitVec 32) (r : Reg256) (fl : BitVec 32) : Prop :=
      (∀ l, lw * l < 256 → lane r lw l = if l < n then (X l).1 else 0)
        ∧ ∀ b, fl.getLsbD b = true ↔ ∃ l, l < n ∧ (X l).2.getLsbD b = true
    let picks (lw n : Nat) (X : Nat → Nat) : Reg256 → BitVec 32 → Prop := lanes lw n fun l => (X l, 0)
    let p := f.samples
    let W := lw.width
    let draw' (l : Nat) : Nat := (draw p.nseed 4 p.nstep (counter (p.orow.toInt + i.val) (64 * (p.ocol.toInt + j.val) + l))).toNat / 2 ^ 40
    let table : List (Nat × List (Bool × Nat)) := [(128, [(false, 0), (true, 0)]), (128, [(false, 1), (true, 1)]),
      (64, [(false, 0), (true, 0), (false, 1), (true, 1)]), (64, [(false, 2), (true, 2), (false, 3), (true, 3)]),
      (32, [(false, 0), (true, 0), (false, 1), (true, 1), (false, 2), (true, 2), (false, 3), (true, 3)]),
      (32, [(false, 4), (true, 4), (false, 5), (true, 5), (false, 6), (true, 6), (false, 7), (true, 7)]),
      (128, [(false, 1), (false, 0)]),
      (32, [(false, 7), (false, 6), (false, 5), (false, 4), (false, 3), (false, 2), (false, 1), (false, 0)])]
    (s.clean a i j f x →
      (Reg 3 (.cvt tgt n m d x src rnd) (lanes (fmtWidth tgt) (256 / max (fmtWidth src) (fmtWidth tgt)) fun l =>
        roundTo tgt rnd (if rnd = .sr then draw' l else 0) (p.nctl.getLsbD 0) (fmtValue src (lane u (fmtWidth src) l))))
      ∧ Reg 1 (.unpk n m d x hi lw) (picks (2 * W) (128 / W) fun l => lane u W (if hi then 128 / W + l else l))
      ∧ Reg 1 (.xpose n m d x lw) (picks W (256 / W) fun l => lane u W (l % 4 * (64 / W) + l / 4))
      ∧ Reg 12 (.exp2 n m d x) (lanes 32 8 fun l => exp2Lane (lane u 32 l))
      ∧ Reg 12 (.log2 n m d x) (lanes 32 8 fun l => log2Lane (lane u 32 l))
      ∧ Reg 12 (.rcp n m d x) (lanes 32 8 fun l => rcpLane (lane u 32 l))
      ∧ Reg 12 (.rsq n m d x) (lanes 32 8 fun l => rsqLane (lane u 32 l)))
    ∧ (s.clean a i j f x → s.clean a i j f y →
      Reg 1 (.pack n m d x y lw) (picks W (256 / W) fun l =>
        if l < 128 / W then lane u (2 * W) l % 2 ^ W else lane v (2 * W) (l - 128 / W) % 2 ^ W)
      ∧ Reg 1 (.perm n m d x y lw) (picks W (256 / W) fun l => lane u W (lane v W l % (256 / W))))
    ∧ (s.clean a i j f x → (pat.val < 6 → s.clean a i j f y) → ∀ W' ps, table[pat.val]? = some (W', ps) →
      Reg 1 (.shuf n m d x y pat) (fun r fl => fl = 0
        ∧ ∀ l, W' * l < 256 → ∃ b q, ps[l]? = some (b, q) ∧ lane r W' l = lane (if b then v else u) W' q))
    ∧ (f.form = .lds n m d k inc → (c.word c.k[k].toNat).poison = false →
      ∃ t, exec (.cellStepExecute a i (j, [])) s = .next t ∧ Takes s t a i j 2 d (c.word c.k[k].toNat) 0
        ∧ (t.cell a i.val j.val).k[k] = c.k[k] + inc.signExtend 9)
    ∧ (f.form = .sts n m k x inc → s.clean a i j f x →
      ∃ t, exec (.cellStepExecute a i (j, [])) s = .next t ∧ Takes s t a i j 2 (.word k) ⟨u, false⟩ 0
        ∧ (t.cell a i.val j.val).k[k] = c.k[k] + inc.signExtend 9))

/-- R98 to R101, R200 to R205: `RNG` and `NOISE` write the draws of their counters; `DOT`, `SUMR` and `PREFIX` sum exactly
and round once; `TMK` advances a touchmark. None raises a flag. -/
def Obligations.SumsAndDraws : Prop :=
  ∀ (s : State) (a : Fin 32) (i j : Fin 64) (w : WaveStep) (f : WaveForm) (n : Fin 16) (m : Fin 8) (d : Dst) (x y : Src) (e : Elem)
    (F : FloatFmt) (dom : Fin 8) (cls : TmkClass), s.Executes a i j w f →
    let c := s.cell a i.val j.val
    let wd := elemWidth e
    let L := elemLanes e
    let u := (s.reads a i j f x).bits
    let v := (s.reads a i j f y).bits
    let z := (s.addend a i j w f d).bits
    let p := f.samples
    let drawn (k l step : Nat) : Word64 := draw p.nseed k p.nstep
      (BitVec.ofInt 64 ((p.orow.toInt + i.val) % 2 ^ 32 * 2 ^ 32 + (step * (p.ocol.toInt + j.val) + l) % 2 ^ 32))
    let Reg (lat : Nat) (i' : Instr) (P : Reg256 → Prop) : Prop := f.form = i' →
      ∃ t r, exec (.cellStepExecute a i (j, [])) s = .next t ∧ Takes s t a i j lat d ⟨r, false⟩ 0 ∧ P r
        ∧ c.Keeps (t.cell a i.val j.val) d
    let ints (r : Reg256) (l : Nat) : Int := elemInt e (lane r wd l)
    let floats (r : Reg256) (l : Nat) : FVal := F.value (lane r wd l)
    let one (first : Nat) (rest : Nat → Nat) (r : Reg256) : Prop :=
      lane r 32 0 = first ∧ ∀ l, 0 < l → l < 8 → lane r 32 l = rest l
    let rne (G : FloatFmt) (q : FVal × Bool) : Nat := (G.round .rne 0 false q.1).1
    (Reg 6 (.rng n m d .raw dom) (fun r => ∀ l, l < 4 → lane r 64 l = (drawn dom.val (8 * f.beat + l) 128).toNat)
      ∧ Reg 6 (.rng n m d .uniform dom) (fun r => ∀ l, l < 8 → lane r 32 l = uniformOf (drawn dom.val (8 * f.beat + l) 128))
      ∧ Reg 6 (.rng n m d .gaussian dom) (fun r => ∀ l, l < 8 →
        lane r 32 l = gaussianIn fmtF32 (drawn dom.val (8 * f.beat + l) 128))
      ∧ (elemFloat e = some F → Reg 12 (.noise n m d e) (fun r => ∀ l, l < L → lane r wd l = gaussianIn F (drawn 1 l 16))))
    ∧ (s.clean a i j f x → s.clean a i j f y → (s.addend a i j w f d).poison = false →
      (elemFloat e = some F → Reg 4 (.dot n m d x y e)
        (one (rne fmtF32 (sumValues ((List.range L).map fun l => ((floats u l).mul (floats v l)).1))) fun l => lane z 32 l))
      ∧ (e.isFloat = false → Reg 4 (.dot n m d x y e)
        (one ((((List.range L).map fun l => ints u l * ints v l).sum % 2 ^ 32).toNat) fun l => lane z 32 l)))
    ∧ (s.clean a i j f x →
      (elemFloat e = some F → Reg 3 (.sumr n m d x e) (one (rne fmtF32 (sumValues ((List.range L).map (floats u)))) fun _ => 0))
      ∧ (e.isFloat = false → Reg 3 (.sumr n m d x e) (one ((((List.range L).map (ints u)).sum % 2 ^ 32).toNat) fun _ => 0)))
    ∧ (s.clean a i j f x → s.clean a i j f y →
      (elemFloat e = some F → Reg 3 (.prefixSum n m d x y e) (fun r => ∀ l, l < L →
        lane r wd l = rne F (sumValues (floats v (L - 1) :: (List.range (l + 1)).map (floats u)))))
      ∧ (e.isFloat = false → Reg 3 (.prefixSum n m d x y e) (fun r => ∀ l, l < L →
        (lane r wd l : Int) = (ints v (L - 1) + ((List.range (l + 1)).map (ints u)).sum) % 2 ^ wd))
      ∧ (let W := match cls with
          | .i4 | .e2m1 => 4
          | .i8 | .z8 | .fp8 => 8
          | .h16 => 16
          | .i32 | .z32 => 32
        let value (l : Nat) : Nat := ((match cls with
          | .i4 | .i8 | .i32 => signed (lane u W l) W
          | .z8 | .z32 | .h16 | .fp8 | .e2m1 => (lane u W l : Int)) % (2 ^ 31 - 1)).toNat
        Reg 3 (.tmk n m d x y cls) (fun r =>
          lane r 32 0 = (lane v 32 0 + ((List.range (256 / W)).map value).sum) % (2 ^ 31 - 1)
          ∧ lane r 32 1 = (lane v 32 1 + ((List.range (256 / W)).map fun l => (lane v 32 2 + l + 1) * value l).sum) % (2 ^ 31 - 1)
          ∧ lane r 32 2 = (lane v 32 2 + 256 / W) % 2 ^ 32 ∧ ∀ l, 3 ≤ l → l < 8 → lane r 32 l = 0)))

/-- R84 to R91, R191 to R196: what the matrix forms write into a tile of the mode they need: on a beat of `MMA` an X128 entry
takes the exact sum of products, wrapped, with the overflow bit where it leaves the range or an element is no number, and a
W128 entry takes one rounded step for each product; `MMAZ` starts from zero on the first beat that the cell executes;
`MMAS` adds a scaled block on its last beat. A poisoned fragment poisons the tile. `ACCZ`, `ACCLD` and `ACCST` move whole
tiles. `DRAIN` scales, drops, adds and rounds an entry, and drains an overflowed tile as its format says. The pass bit moves
the fragments on. Of a tile in the other mode, that it is converted first.
R18, R26, R76, R183, R196: at the end of an active cycle on which an array that is no chain's has executed its steps, the
results due land in their registers, words and tiles, and with them their numeric flags in `NFLG`, which keeps the flags that
it has. -/
def Obligations.TileResults : Prop :=
  (∀ (s : State) (a : Fin 32) (i j : Fin 64) (w : WaveStep) (f : WaveForm) (n : Fin 16) (m : Fin 8) (d : Dst) (x y : Src)
    (fmt : Fmt) (k kn : Fin 4) (b : Fin 16) (rnd : Rnd) (pass w128 sc re dr : Bool) (run : MmasRun), s.Executes a i j w f →
    let c := s.cell a i.val j.val
    let u := (s.reads a i j f x).bits
    let v := (s.reads a i j f y).bits
    let tile := c.lastTile k
    let K := 64 / fmtWidth fmt
    let left (q : Reg256) (r kk : Nat) : FVal := fmtValue fmt (lane q (fmtWidth fmt) (r * K + kk))
    let needs128 := decide (fmt = .f32 ∨ fmt = .bf16 ∨ fmt = .f16)
    let finite (q : FVal) : Prop := ∃ g m e, q = .fin g m e
    let value128 (z : Word128) : FVal := fmtW128.value z.toNat
    let rne128 (q : FVal) : Nat := (fmtW128.round .rne 0 false q).1
    let Tile' (lat : Nat) (i' : Instr) (P : Tile → Prop) : Prop := f.form = i' →
      ∃ t T, exec (.cellStepExecute a i (j, [])) s = .next t ∧ TakesTile s t a i j lat k T ∧ P T
    let macs (old : Tile) (T : Tile) : Prop := T.w128 = needs128 ∧ T.poison = old.poison ∧ ∀ r c' : Fin 4,
      let z := old.entries[4 * r.val + c'.val]
      let z' := T.entries[4 * r.val + c'.val]
      (needs128 = true → T.overflow = old.overflow ∧ (z'.toNat = (List.range K).foldl (fun acc kk =>
        rne128 ((left u r.val kk).fma (left v c'.val kk) (value128 (BitVec.ofNat 128 acc))).1) z.toNat))
      ∧ (needs128 = false → (∀ kk, kk < K → finite (left u r.val kk) ∧ finite (left v c'.val kk)) →
        ∀ g m e, (sumValues ((List.range K).map fun kk => ((left u r.val kk).mul (left v c'.val kk)).1)).1 = .fin g m e →
        z' = BitVec.ofInt 128 (z.toInt + unitsOf g m e (-48))
        ∧ (z.toInt + unitsOf g m e (-48) < -(2 ^ 127) ∨ 2 ^ 127 ≤ z.toInt + unitsOf g m e (-48) → T.overflow = true))
      ∧ (needs128 = false → ¬(∀ kk, kk < K → finite (left u r.val kk) ∧ finite (left v c'.val kk)) → z' = z ∧ T.overflow = true)
      ∧ (old.overflow = true → T.overflow = true)
    let lat := 4 + (f.beats - 1 - f.beat)
    let passed (t : State) : Prop := if pass then (t.cell a i.val j.val).h = s.reads a i j f x ∧ (t.cell a i.val j.val).v = s.reads a i j f y
      else (t.cell a i.val j.val).h = c.h ∧ (t.cell a i.val j.val).v = c.v
    let zeros (on : Bool) : Tile := ⟨Vector.replicate 16 0, on, false, false⟩
    (f.form = .mma n m pass k x y fmt ∨ f.form = .mmaz n m pass k x y fmt ∨ f.form = .mmas n m pass k x y fmt →
      s.clean a i j f x → s.clean a i j f y → tile.poison = false → c.f[(15 : Fin 16)].poison = false →
      ∃ t, exec (.cellStepExecute a i (j, [])) s = .next t ∧ passed t)
    ∧ (s.clean a i j f x → s.clean a i j f y → tile.poison = false →
      Tile' lat (.mma n m pass k x y fmt) (macs (if tile.w128 = needs128 then tile else (tile.inMode needs128).1))
      ∧ (w.num - f.beat < c.lastStep →
        Tile' lat (.mmaz n m pass k x y fmt) (macs (if tile.w128 = needs128 then tile else (tile.inMode needs128).1))))
    ∧ (s.clean a i j f x → s.clean a i j f y → c.lastStep ≤ w.num - f.beat →
      Tile' lat (.mmaz n m pass k x y fmt) (macs (zeros needs128)))
    ∧ ((s.reads a i j f x).poison = true → staleFeeder (getA s a) i.val j.val x = none →
      staleFeeder (getA s a) i.val j.val y = none → Tile' lat (.mma n m pass k x y fmt) fun T => T.poison = true)
    ∧ (s.clean a i j f x → s.clean a i j f y → tile.poison = false → tile.w128 = true → w.num - f.beat < c.lastStep →
      c.mmas = some run → run.block = f.beat / (32 / K) →
      ((f.beat + 1) % (32 / K) = 0 ∨ f.beat + 1 = f.beats →
        Tile' lat (.mmas n m pass k x y fmt) fun T => T.w128 = true ∧ ∀ r c' : Fin 4,
          let products := (run.frags ++ [(u, v)]).flatMap fun q => (List.range K).map fun kk =>
            (left q.1 r.val kk).mul (left q.2 c'.val kk)
          let xa := lane run.scales.bits 8 (8 * (run.block % 4) + r.val)
          let xb := lane run.scales.bits 8 (8 * (run.block % 4) + 4 + c'.val)
          let block := (sumValues (products.map (·.1))).1
          T.entries[4 * r.val + c'.val].toNat = rne128 ((value128 tile.entries[4 * r.val + c'.val]).add
            (if xa = 255 ∨ xb = 255 then .nan false else match block with
              | .fin g m e => .fin g m (e + ((xa : Int) + xb - 254))
              | q => q)).1)
      ∧ ((f.beat + 1) % (32 / K) ≠ 0 → f.beat + 1 ≠ f.beats → f.form = .mmas n m pass k x y fmt →
        ∃ t, exec (.cellStepExecute a i (j, [])) s = .next t ∧ (t.cell a i.val j.val).lastTile k = tile
          ∧ (t.cell a i.val j.val).mmas = some { run with frags := run.frags ++ [(u, v)] }))
    ∧ Tile' 2 (.accz n m k w128) (fun T => T = zeros w128)
    ∧ ((∀ q, q < 8 → (c.word (c.k[kn].toNat + q)).poison = false) →
      Tile' 2 (.accld n m k kn) fun T => T.w128 = tile.w128 ∧ T.overflow = tile.overflow ∧ T.poison = false
        ∧ ∀ z : Fin 16, T.entries[z].toNat = lane (c.word (c.k[kn].toNat + z.val / 2)).bits 128 (z.val % 2))
    ∧ (f.form = .accst n m k kn → c.a[k].poison = false →
      ∃ t, exec (.cellStepExecute a i (j, [])) s = .next t ∧ (t.cell a i.val j.val).k = c.k
        ∧ ∀ z : Fin 16, let word := (t.cell a i.val j.val).lastWord (c.k[kn].toNat + z.val / 2)
          lane word.bits 128 (z.val % 2) = c.a[k].entries[z].toNat ∧ word.poison = false)
    ∧ (c.a[k].poison = false → (re = true → c.f[b].poison = false) → f.form = .drain fmt n m sc re dr k d b rnd →
      ∃ t r fl, exec (.cellStepExecute a i (j, [])) s = .next t ∧ Takes s t a i j 6 d ⟨r, false⟩ fl
        ∧ (t.cell a i.val j.val).a = c.a
        ∧ (c.a[k].overflow = true → fl = Flag.aov)
        ∧ ∀ l, fmtWidth fmt * l < 256 →
          if (if fmtWidth fmt = 32 then 8 else 16) ≤ l then lane r (fmtWidth fmt) l = 0 else
          let z := if fmtWidth fmt = 32 then 8 * (f.beat % 2) + l else l
          let entry := (c.a[k].entries.toList[z]?).getD 0
          let p := f.samples
          let at' := counter (4 * (p.orow.toInt + i.val) + (z / 4 : Nat)) (4 * (p.ocol.toInt + j.val) + (z % 4 : Nat))
          let from' (q : Nat) : Nat := (draw p.nseed q p.nstep at').toNat / 2 ^ 40
          let q0 : FVal := if c.a[k].w128 = true then value128 entry else .fin (decide (entry.toInt < 0)) entry.toInt.natAbs (-48)
          let q1 := if sc = true then (q0.mul (fmtF32.value p.dscl.toNat)).1 else q0
          let q2 := if dr = true ∧ from' 2 < p.dthr.toNat then .fin false 0 0 else q1
          let q3 := if re = true then (q2.add (fmtValue (match fmt with
            | .f32 => .f32 | .i32 => .i32 | .z32 => .z32 | .f16 => .f16
            | _ => .bf16) (lane c.f[b].bits (fmtWidth (match fmt with
            | .f32 | .i32 | .z32 => .f32
            | _ => .bf16)) l))).1 else q2
          (c.a[k].overflow = false → (∀ g e, q3 ≠ .fin g 0 e) →
            lane r (fmtWidth fmt) l = (roundTo fmt rnd (from' 4) (p.nctl.getLsbD 0) q3).1)
          ∧ (c.a[k].overflow = false → (∃ g e, q3 = .fin g 0 e) → lane r (fmtWidth fmt) l = 0)
          ∧ (c.a[k].overflow = true → ∀ G q, floatOf fmt = some G → G.nan = some q → lane r (fmtWidth fmt) l = q))
    ∧ ∀ (T : Tile) (z : Fin 16), T.w128 = false → (T.inMode true).1.w128 = true
      ∧ (T.inMode true).1.entries[z].toNat = rne128 (.fin (decide (T.entries[z].toInt < 0)) T.entries[z].toInt.natAbs (-48)))
  ∧ (∀ (s : State) (a : Fin 32) (i j : Fin 64) (p : CellPend) (c : Cell),
    let x := getA s a
    x.kind = .cluster → x.frozen = false → x.answerDue a = none → (∀ k, k < 4096 → k ∈ x.done) →
    tableFind x.cells (64 * i.val + j.val) = some c → x.captures = [] → x.edge = none → x.edgeCmds = [] →
    ∃ t, exec (.activeArrayCycle a) s = .next t
      ∧ (∀ b, x.regs.nflg.getLsbD b = true → (getA t a).regs.nflg.getLsbD b = true)
      ∧ (p ∈ c.pend → p.due ≤ x.acnt → ∀ b, p.flags.getLsbD b = true → (getA t a).regs.nflg.getLsbD b = true)
      ∧ (∀ e ∈ x.flagPend, e.1 ≤ x.acnt → ∀ b, e.2.getLsbD b = true → (getA t a).regs.nflg.getLsbD b = true)
      ∧ (c.pend = [p] → x.acnt < p.due → (t.cell a i.val j.val).pend = [p] ∧ (t.cell a i.val j.val).f = c.f
        ∧ (t.cell a i.val j.val).a = c.a ∧ ∀ q, (t.cell a i.val j.val).word q = c.word q)
      ∧ (c.pend = [p] → p.due ≤ x.acnt → (t.cell a i.val j.val).pend = [] ∧ match p.write with
        | .f k v => (t.cell a i.val j.val).f[k] = v
        | .word k v => (t.cell a i.val j.val).word k.val = v
        | .tile k v => (t.cell a i.val j.val).a[k] = v))

/-! ### Beats, captures and cycles of an array -/

/-- R206, R207, R208, R209, R239: a beat of a feeder form, which the stream can serve or which takes no blocks: each output
register gets a write due on its own cycle with the tag of the pop: the rotated block for `POP`, lane by lane the transposed
and rotated ones for `POPT`, the one block for `BCAST`, zero for `ZERO` and its own value for `HOLD`; the blocks leave the
stream, which is exhausted past the end of its pattern. A pop that its stream cannot
serve stalls. Where another stream shares the buffer, the blocks are undefined, and nothing is stated. -/
def Obligations.FeederBeats : Prop :=
  ∀ (s : State) (a : Fin 32) (west : Bool) (m : FeederForm),
    let x := getA s a
    let f := x.feeder west
    let st := x.streams[m.q]
    let n := m.kind.blocks
    let base := if west then rowBase x else 0
    cellsMove s a = true → s.Begun a → f.form = some m → feederMark west ∉ x.done →
    ((m.kind.pops = false ∨ (st.mode = .bound ∧ n ≤ st.buf.length ∧ x.popHeld m = false ∧ sharesBuffer s a m.q = false)) →
      ∃ t, exec (if m.stalled then .popStallCompletes a west else .feederBeat a (west, [])) s = .next t
        ∧ ((getA t a).feeder west).next = f.next + 1
        ∧ ((getA t a).feeder west).form
          = (if m.left ≤ 1 then none else some { m with left := m.left - 1, stalled := false })
        ∧ (∀ r : Fin 64, ∃ e ∈ ((getA t a).feeder west).writes, e.x = r ∧ e.tag = f.next
          ∧ e.due = x.acnt + m.delay base r.val
          ∧ (let at' := (r.val + 64 - m.rot.toNat) % 64
            (m.kind = .pop → e.value = st.buf[at']?)
            ∧ (∀ lw, m.kind = .popt lw → let G := 256 / lw.width
              let block (l : Nat) : PReg := (st.buf[G * (at' / G) + l]?).getD ⟨0, false⟩
              ∃ v, e.value = some v ∧ (∀ l, l < G → lane v.bits lw.width l = lane (block l).bits lw.width (at' % G))
                ∧ (v.poison = true ↔ ∃ l, l < G ∧ (block l).poison = true)))
          ∧ (m.kind = .bcast → e.value = st.buf[0]?)
          ∧ (m.kind = .zero → e.value = some ⟨0, false⟩) ∧ (m.kind = .hold → e.value = none))
        ∧ (m.kind.pops = true → st.desc.past (st.pos + n) = false →
          (getA t a).streams[m.q].buf = st.buf.drop n ∧ (getA t a).streams[m.q].mode = .bound
          ∧ (getA t a).streams[m.q].pos = st.desc.index (st.pos + n))
        ∧ (m.kind.pops = true → st.desc.past (st.pos + n) = true →
          (getA t a).streams[m.q].mode = .exhausted ∧ (getA t a).streams[m.q].pos = st.desc.blocks
          ∧ (getA t a).streams[m.q].buf = [])
        ∧ (getA t a).cells = x.cells ∧ (getA t a).acnt = x.acnt ∧ t.mem = s.mem)
    ∧ (m.kind.pops = true → m.stalled = false → (st.mode ≠ .bound ∨ st.buf.length < n) →
      ∃ t, exec (.feederBeat a (west, [])) s = .next t
        ∧ ((getA t a).feeder west) = { f with form := some { m with stalled := true } }
        ∧ (getA t a).streams = x.streams)

/-- R214, R215, R218, R222, R327: the capture of an array whose cells have executed their steps: an east push gives row `i`'s
`H` of column 63 to its entry of the store queue, `i` cycles after its first; a south push gives every `V` of row 63; an
offer goes to the sorter; a touchmark capture adds the row's partial sums. A capture whose first cycle is to come waits.
That the block of `EC.TMK` is given on the cycle after its last row is the model's choice (log entry 120). -/
def Obligations.Captures : Prop :=
  ∀ (s : State) (a : Fin 32) (c : Capture) (e : QEntry) (es : Fin 64 → QEntry) (q : Fin 16) (first n : Nat),
    let x := getA s a
    let i := x.acnt - c.start
    let h := (s.cell a i 63).h
    let ev := Instr.collectorCapture a
    cellsMove s a = true → s.Begun a → captureMark ∉ x.done → (∀ k, k < 4096 → k ∈ x.done) → x.captures = [c] →
    (x.acnt < c.start → ∃ t, exec ev s = .next t ∧ (getA t a).captures = [c] ∧ ∀ b, (getA t b).queue = (getA s b).queue)
    ∧ (c.start ≤ x.acnt → i ≤ 63 →
      (c.use = .push first → c.south = false → (getA s c.owner).entry (first + i) = some e → e.op = .push q false none →
        ∃ t, exec ev s = .next t
          ∧ (getA t c.owner).entry (first + i) = some { e with op := .push q false (some h) }
          ∧ (getA t a).captures = if i < 63 then [c] else [])
      ∧ (c.use = .offer → ∃ t, exec ev s = .next t
          ∧ (getA t a).sorter.offers = x.sorter.offers ++ [⟨x.acnt, keyBits x.sorter.fmt (lane h.bits 32 0)
              , BitVec.ofNat 32 (lane h.bits 32 2), h.poison⟩]
          ∧ (getA t a).captures = if i < 63 then [c] else [])
      ∧ (c.use = .mark n → ∃ t d, exec ev s = .next t ∧ (getA t a).captures = [d]
          ∧ d.t0 = (c.t0 + lane h.bits 32 0) % (2 ^ 31 - 1) ∧ d.t1 = (c.t1 + lane h.bits 32 1) % (2 ^ 31 - 1)))
    ∧ (x.acnt = c.start + 64 → c.use = .mark n → (getA s c.owner).entry n = some e → e.op = .push q false none →
      ∃ t, exec ev s = .next t ∧ (getA t a).captures = [] ∧ (getA t c.owner).entry n = some { e with
        op := .push q false (some ⟨BitVec.ofNat 256 (c.t1 * 2 ^ 32 + c.t0 + c.last * 2 ^ 64), c.poison⟩) })
    ∧ (c.start = x.acnt → c.use = .push first → c.south = true →
      (∀ j : Fin 64, (getA s c.owner).entry (first + j.val) = some (es j) ∧ (es j).op = .push q false none) →
      ∃ t, exec ev s = .next t ∧ ∀ j : Fin 64, (getA t c.owner).entry (first + j.val)
        = some { es j with op := .push q false (some (s.cell a 63 j.val).v) })

/-- R8, R21, R32, R33, R34, R115, R120, R232: an active cycle of an array, and with it of the others of its chain, advances
`ACNT` of each and, unless it has begun, sends one wave step into row 0. While a sequencer of the chain freezes its array, or
an answer to a predicate is due, there is none. Where one freezes, a frozen cycle advances `FCNT` of each alone while the cells
hold still, and counts down a `FREEZE`, after whose last cycle the next bundle is due; where none does, there is no frozen
cycle (log entry 5: the model's choice).
R15, R16, R113, R114, R116: a `SWAIT` bundle whose stream holds its blocks begins to issue; when the sync line releases,
the waiting bundle of every member begins to issue, and with a `REALIGN` among them `PTIME` goes on to its next multiple
of 4,096. Said of sequencers outside chains, and of any that the line releases, that their bundles begin together; that they
begin in one move is the model's reading (log entry 10). No bundle begins while an answer to a predicate of its chain is due or
a trap of it can be taken (R8, R335). -/
def Obligations.Cycles : Prop :=
  (∀ (s : State) (a : Fin 32),
    let x := getA s a
    let us := lockstep s a
    (us.Nodup → (∀ m ∈ us, (∀ w, (getA s m).run = .waiting w → w = .sync) ∧ (getA s m).answerDue m = none) →
      ∃ t, exec (.activeArrayCycle a) s = .next t
        ∧ (∀ m ∈ us, let y := getA s m
          (getA t m).acnt = y.acnt + 1 ∧ (getA t m).fcnt = y.fcnt ∧ (getA t m).done = []
          ∧ (openMark ∉ y.done → (getA t m).steps.head?
            = some ⟨y.acnt, y.wave, y.regs.rsw, y.regs.travel, y.phaseMark, decide (y.kind = .chain)⟩)
          ∧ (openMark ∈ y.done → (getA t m).steps = y.steps))
        ∧ (∀ b, b ∉ us → (getA t b).acnt = (getA s b).acnt ∧ (getA t b).cells = (getA s b).cells) ∧ t.mem = s.mem)
    ∧ ((∃ m ∈ us, (∃ w, (getA s m).run = .waiting w ∧ w ≠ .sync) ∨ (getA s m).answerDue m ≠ none) →
      exec (.activeArrayCycle a) s = .next s)
    ∧ (us.Nodup → (∃ m ∈ us, ∃ w, (getA s m).run = .waiting w ∧ w ≠ .sync) → ∃ t, exec (.frozenArrayCycle a) s = .next t
      ∧ (∀ m ∈ us, let y := getA s m
        let z := getA t m
        z.fcnt = y.fcnt + 1 ∧ z.acnt = y.acnt ∧ z.cells = y.cells ∧ z.north = y.north ∧ z.west = y.west
        ∧ z.steps = y.steps ∧ z.regs = y.regs
        ∧ (∀ n, y.run = .waiting (.freeze n) → z.run = .waiting (.freeze (n - 1)))
        ∧ (y.retLeft ≠ 0 → y.run = .boundary → y.ending = none → z.retLeft = y.retLeft - 1))
      ∧ (∀ b, b ∉ us → getA t b = getA s b) ∧ t.mem = s.mem)
    ∧ ((∀ m ∈ us, ∀ w, (getA s m).run = .waiting w → w = .sync) → exec (.frozenArrayCycle a) s = .next s)
    ∧ (x.run = .waiting (.freeze 0) → exec (.freezeEnd a) s = .next (updA s a fun x => { x with run := .boundary }))
    ∧ (x.run ≠ .waiting (.freeze 0) → exec (.freezeEnd a) s = .next s))
  ∧ (∀ (s : State) (a : Fin 32) (ms : List (Fin 32)),
    let x := getA s a
    let issues (t : State) (m : Fin 32) : Prop := (getA t m).run = .issuing (getA s m).resume
      ∧ (getA t m).snap.pc = (getA s m).due.setWidth 48 ∧ (getA t m).snap = (getA t m).regs
      ∧ (getA t m).latch = (getA s m).latch ∧ (getA t m).acnt = (getA s m).acnt
    let ready (m : Fin 32) (s' : State) : Prop := lockstep s m = [m] ∧ holdOf s' m = none ∧ (getA s' m).refused = none
    (x.run = .waiting .swait → x.swaiting = some (.inr true) → holdOf s a = none → unsettled s [a] = false → ready a (updA s a Arr.refresh) →
      ∃ t, exec (.swaitRelease a) s = .next t ∧ issues t a ∧ ∀ b, b ≠ a → getA t b = getA s b)
    ∧ (x.swaiting = some (.inr false) ∨ x.run ≠ .waiting .swait ∨ unsettled s (lockstep s a) = true →
      exec (.swaitRelease a) s = .next s)
    ∧ (x.run = .waiting .sync → syncReady s a = some ms → ms.Nodup →
      (∀ m ∈ ms, ready m (updA s m fun x => { x with released := true }.refresh)) →
      ∃ t, exec (.syncRelease a) s = .next t ∧ (∀ m ∈ ms, issues t m ∧ (getA t m).released = true)
        ∧ (∀ b, b ∉ ms → getA t b = getA s b)
        ∧ (if ∃ m ∈ ms, (getA s m).isRealign = true then s.ptime < t.ptime ∧ t.ptime % 4096 = 0
            ∧ t.ptime ≤ s.ptime + 4096
          else t.ptime = s.ptime))
    ∧ (∀ t, syncRelease s a = some t → syncReady s a = some ms → exec (.syncRelease a) s = .next t
      ∧ ∀ m ∈ ms, (getA t m).run = .issuing 0)
    ∧ (syncReady s a = none → exec (.syncRelease a) s = .next s))

/-- R103, R150, R151, R237, R239: a stream descriptor that passes its checks binds the stream at block 0, one that fails
them unbinds it with a schedule trap of subcause 3, and a poisoned one unbinds it with a poison trap. The engine fetches
the next block of the pattern, with its poison, or generates it from the noise field. -/
def Obligations.StreamEngines : Prop :=
  ∀ (s s' : State) (a : Fin 32) (q : Fin 16) (e : QEntry) (b p : Nat) (m : Option Nat),
    let x := getA s a
    let st := x.streams[q]
    let ev := Instr.streamDescriptorArrives a (q, .clean, .clean)
    let off := st.offsetOf (st.pos + st.buf.length)
    (s.AtHead a e → e.op = .strmDesc q → (∀ f ∈ x.queue, f.op = .strmDesc q → f = e) →
      x.bindWaits q = false → bytesServed s x.ctx e.cap.obj e.off 64 = true → x.point.firstEntry ≤ e.id → st.mode = .binding → st.held = [] →
      (readBlock s x.ctx e.cap.obj e.off (.clean, .clean) = (s', .value b false) → s'.arrs = s.arrs →
        (descOkFor s' a st b = true → ∃ t, exec ev s = .next t ∧ (getA t a).streams[q]
          = { st with mode := .bound, desc := readDesc b, pos := 0, buf := [] })
        ∧ (descOkFor s' a st b = false → ∃ t, exec ev s = .next t ∧ (getA t a).streams[q] = Stream.unbound
          ∧ (getA t a).traps = x.traps ++ [⟨.schedule, BitVec.ofNat 48 (3 + 256 * q.val), 0, 0⟩]))
      ∧ (readBlock s x.ctx e.cap.obj e.off (.clean, .clean) = (s', .value b true) → s'.arrs = s.arrs →
        ∃ t, exec ev s = .next t ∧ (getA t a).streams[q] = Stream.unbound
          ∧ ∃ u ∈ (getA t a).traps, u.cause = .poison))
    ∧ (fetchReady s a q = true →
      (st.cap.has Right.noise = true →
        exec (.streamFetch a (q, .clean, [])) s = .next (updA s a fun x =>
          x.setStream q { st with buf := st.buf ++ [⟨noiseBlock st off, false⟩] }))
      ∧ (st.cap.has Right.noise = false →
        locate s x.ctx st.cap.obj off 32 [Right.read, Right.stream] false = (s', .phys p m) → bankRefuses s' p = none →
        s'.arrs = s.arrs → ∃ t, exec (.streamFetch a (q, .clean, [])) s = .next t
          ∧ (getA t a).streams[q] = { st with buf := st.buf ++ [⟨BitVec.ofNat 256 (bytesAt s' p 32), (readPhys s' p 32).2⟩] }
          ∧ t.mem = s'.mem))

/-! ### What the agents do with a committed form -/

/-- R19, R44, R138, R140, R141, R143, R175: the oldest load of a sequencer lands: the little-endian bytes, extended by width,
go to `Sd` and its pending bit clears; a poisoned read leaves `Sd` unchanged and raises poison consumption; a noise load
lands the value it sampled; a `TLAUNCH` reads its record through its capability and puts it, with the issuer's context and
priority, into the device-side queue. That a record running past the capability is not whole is the model's choice (log
entry 91). -/
def Obligations.LoadsLand : Prop :=
  ∀ (s t t' : State) (a : Fin 32) (e : QEntry) (d : Fin 32) (w : Width) (v : Word64) (p lo all : Nat) (m : Option Nat)
    (i j : Bool), s.AtHead a e →
    let x := getA s a
    let ev := Instr.loadLands a (e.id, .clean)
    let room := (e.cap.lower.toNat + e.cap.len.toNat - e.off) / 32
    let size := recordBytes (bytesOf lo) / 32
    let r := readRecord (bytesOf all)
    (∀ v : BitVec 64, Width.extend .d64 v.toNat = v) ∧ (∀ v : BitVec 8, Width.extend .i8 v.toNat = v.signExtend 64
      ∧ Width.extend .z8 v.toNat = v.setWidth 64) ∧ (∀ v : BitVec 16, Width.extend .f16 v.toNat = v.setWidth 64)
    ∧ (∀ v : BitVec 32, Width.extend .i32 v.toNat = v.signExtend 64 ∧ Width.extend .z32 v.toNat = v.setWidth 64)
    ∧ (e.op = .load d w → s.Reaches t a e w.bytes [Right.read] false p m →
      ((readPhys t p w.bytes).2 = false → ∃ u, exec ev s = .next u
        ∧ getA u a = (x.without e.id).took d (w.extend (bytesAt t p w.bytes))
        ∧ (∀ b, b ≠ a → getA u b = getA s b) ∧ u.mem = t.mem)
      ∧ ((readPhys t p w.bytes).2 = true → ∃ u, exec ev s = .next u ∧ (getA u a).regs = x.regs
        ∧ (getA u a).pendS = x.pendS.set d false ∧ ∃ r ∈ (getA u a).traps, r.cause = .poison))
    ∧ (e.op = .loadPair d → s.Reaches t a e 16 [Right.read] false p m → (readPhys t p 16).2 = false →
      ∃ u, exec ev s = .next u ∧ getA u a = ((x.without e.id).took d (BitVec.ofNat 64 (bytesAt t p 16))).took
        (Fin.ofNat 32 (d.val + 1)) (BitVec.ofNat 64 (bytesAt t p 16 / 2 ^ 64)) ∧ u.mem = t.mem)
    ∧ (e.op = .noise d v → exec ev s = .next (updA s a fun x => (x.without e.id).took d v))
    ∧ (e.op = .launch → bytesServed s x.ctx e.cap.obj e.off recordMax = true → readSectors s x.ctx e.cap.obj e.off [Right.read] (min 16 room) = (t, .value lo i) →
      readSectors t x.ctx e.cap.obj e.off [Right.read] (min size room) = (t', .value all j) →
      ∀ task ∈ taskFind s x.task, ∃ u, exec ev s = .next u
        ∧ u.deviceQueue = s.deviceQueue ++ [⟨.object x.ctx e.cap.obj e.off, x.ctx, task.prio, r
          , !i && !j && decide (size ≤ room) && paddingOk (bytesOf all) r⟩]
        ∧ getA u a = x.without e.id ∧ u.mem = t'.mem)

/-- R166, R167, R173: a wait on a timeline lands, with the counter's value, once the counter has reached its value and not
before; a read of a timeline lands at once. A barrier wait lands with its phase number once that phase has completed.
When a wait fixes its phase is the model's reading (log entry 17).
R286, R375: an agent that has a moved answer sends every access of its own to the page that was answered so again, in their
order: the page's new home holds each, once; an access whose page has settled is performed there as it would be otherwise.
A change of a mark is added to the chunk's header modulo P. When the re-sent accesses of a page go is the model's reading (log
entry 125). -/
def Obligations.WaitsLand : Prop :=
  (∀ (s : State) (a : Fin 32) (e : QEntry) (d : Fin 32) (n : Fin 20) (v : Word64) (b : BitVec 8) (ph : BitVec 32)
    (k : Fin 8 × Nat), s.AtHead a e →
    let x := getA s a
    let now := timelineValue s a n
    let o := barrierGet s k
    let lands (ev : Instr) (w : Word64) : Prop := exec ev s = .next (updA s a fun _ => (x.without e.id).took d w)
    (e.op = .tlWait d n v → v.toNat ≤ now.toNat → lands (.tlWaitLands a e.id) now)
    ∧ (e.op = .tlWait d n v → now.toNat < v.toNat → exec (.tlWaitLands a e.id) s = .next s)
    ∧ (e.op = .tlRead d n → lands (.tlWaitLands a e.id) now)
    ∧ (∀ i : Fin 4, n.val = 16 + i.val → ∀ c, memberAt s a i.val = some c → now = (getA s c).sq)
    ∧ (barrierAt s a b = some k → e.op = .barWait d b (some ph) →
      (ph.toNat < o.ph.toNat → lands (.barWaitLands a e.id) (ph.setWidth 64))
      ∧ (o.ph.toNat ≤ ph.toNat → exec (.barWaitLands a e.id) s = .next s)))
  ∧ (∀ (s : State) (a : Fin 32) (e f : QEntry) (o : ObjEntry) (k n : Nat) (v : BitVec 128) (d : Fin 32) (w : Width) (m : MarkMsg)
    (h : Header) (g : PageMove),
    let x := getA s a
    let page := e.off / 2 ^ o.pageShift
    let sent : State := updA s a fun x => { x with queue := [{ e with moved := false }] }
    (e.moved = true → objFind s x.ctx e.cap.obj = some o →
      (x.queue = [e] → moveOf s x.ctx e.cap.obj page = none →
        (e.op = .store n v → exec (.movedAnswer a e.id) s = exec (.storeArrivesAtHome a (e.id, 0, false)) sent)
        ∧ (e.op = .load d w → exec (.movedAnswer a e.id) s = exec (.loadLands a (e.id, .clean)) sent))
      ∧ (s.moves = [g] → moveOf s x.ctx e.cap.obj page = some g → x.queue = [e, f] → e.id ≠ f.id → f.moved = true →
        f.cap.obj = e.cap.obj → f.off / 2 ^ o.pageShift = page →
        Held.entry a e.id ∉ g.held → Held.entry a f.id ∉ g.held → ∀ id ∈ [e.id, f.id],
        exec (.movedAnswer a id) s = .next { s with moves :=
          [{ g with held := g.held ++ [.entry a e.id, .entry a f.id] }] }))
    ∧ (s.markMsgs[k]? = some m → tableFind s.headers m.chunk = some h →
      ∃ t h', exec (.markChangeArrives k) s = .next t ∧ tableFind t.headers m.chunk = some h'
        ∧ h'.mark.toNat % 2 ^ 32 = (h.mark.toNat % 2 ^ 32 + m.t0) % (2 ^ 31 - 1)
        ∧ h'.mark.toNat / 2 ^ 32 = (h.mark.toNat / 2 ^ 32 + m.t1) % (2 ^ 31 - 1)
        ∧ h'.producer = m.producer ∧ h'.chunkId = h.chunkId ∧ t.markMsgs = s.markMsgs.eraseIdx k
        ∧ (∀ c, c ≠ m.chunk → tableFind t.headers c = tableFind s.headers c) ∧ t.mem = s.mem))

/-- R139, R141, R167, R215, R251: the oldest store of a sequencer is accepted at its home: its bytes, and no others, hold its
data, little-endian, and it leaves the queues; a captured block of a push is stored whole; `TL.BUMP` raises the sequencer's
own timeline by one.
R144, R145, R146: the agent applies the oldest atomic of a sequencer once: the location takes the new value, no other byte
of memory changes, and a destination takes the old value, zero-extended for `MINZ` and `MAXZ` and sign-extended for the
others; `RED.FADD` rounds the FP32 sum to nearest even. A poisoned old value leaves the location and the registers as they are,
and raises poison consumption on a sequencer that would take it (R140). -/
def Obligations.StoresAndAtomicsArrive : Prop :=
  (∀ (s t : State) (a : Fin 32) (e : QEntry) (n : Nat) (v : BitVec 128) (q : Fin 16) (b : PReg) (p : Nat),
    s.AtHead a e →
    let ev := Instr.storeArrivesAtHome a (e.id, 0, false)
    let stores (size value : Nat) : Prop := ∃ u, exec ev s = .next u
      ∧ (∀ k, k < size → (Memory.read u.mem (p + k)).toNat ^^^ fillBytes t (p + k) 1 = value / 256 ^ k % 256)
      ∧ (∀ z, z < p ∨ p + size ≤ z → Memory.read u.mem z = Memory.read t.mem z)
      ∧ getA u a = (getA s a).without e.id ∧ ∀ c, c ≠ a → getA u c = getA s c
    (e.op = .store n v → s.Reaches t a e n [Right.write] true p none → quarantinedAt t p = false → stores n v.toNat)
    ∧ (e.op = .push q false (some b) → s.Reaches t a e 32 [Right.write, Right.stream] true p none → quarantinedAt t p = false →
      stores 32 b.bits.toNat)
    ∧ (e.op = .tlBump → exec ev s = .next (updA s a fun x => { x.without e.id with sq := x.sq + 1 })))
  ∧ (∀ (s t u : State) (a : Fin 32) (e : QEntry) (d : Option (Fin 32)) (op : AtomOp) (four : Bool) (v cmp : Word64) (p : Nat)
    (m : Option Nat), s.AtHead a e → e.op = .atomic d op four v cmp →
    let n := if four then 4 else 8
    let w := 8 * n
    let ev := Instr.atomicApplied a e.id (0, .clean)
    s.Reaches t a e n [Right.atomic] false p m →
    ((readPhys t p n).2 = true → ∃ r, exec ev s = .next r ∧ r.mem = t.mem ∧ (getA r a).regs = (getA s a).regs
      ∧ (d = none → getA r a = (getA s a).without e.id)
      ∧ (∀ k, d = some k → (getA r a).pendS = (getA s a).pendS.set k false ∧ ∃ c ∈ (getA r a).traps, c.cause = .poison))
    ∧ (locate (touchLine t p false (memsideOf t (getA s a).ctx e.cap.obj)) (getA s a).ctx e.cap.obj e.off n [Right.atomic] true
      = (u, .phys p none) →
    bankRefuses u p = none → (readPhys t p n).2 = false → quarantinedAt u p = false →
    let old := bytesAt t p n
    let x := v.toNat % 2 ^ w
    let z := signed old w
    let y := signed x w
    ∃ r, exec ev s = .next r
      ∧ (let new := bytesAt r p n
        (op = .add → new = (old + x) % 2 ^ w) ∧ (op = .swap → new = x)
        ∧ (op = .and → new = old &&& x) ∧ (op = .or → new = old ||| x) ∧ (op = .xor → new = old ^^^ x)
        ∧ (op = .min → signed new w = min z y) ∧ (op = .max → signed new w = max z y)
        ∧ (op = .minz → new = min old x) ∧ (op = .maxz → new = max old x)
        ∧ (op = .cas → new = if old = cmp.toNat % 2 ^ w then x else old)
        ∧ (op = .fadd → four = true → new = (fmtF32.round .rne 0 false ((f32 old).add (f32 x)).1).1 % 2 ^ 32))
      ∧ (∀ b, b < p ∨ p + n ≤ b → Memory.read r.mem b = Memory.read u.mem b)
      ∧ (d = none → getA r a = (getA s a).without e.id)
      ∧ (∀ k, d = some k → ∃ g : Word64, getA r a = ((getA s a).without e.id).took k g
        ∧ (op = .minz ∨ op = .maxz → g.toNat = old) ∧ (op ≠ .minz → op ≠ .maxz → g.toInt = z))))

/-- R291 to R295, R168 to R173, R314: the barrier forms at their object: `BAR.INIT` sets both counts and phase 0; an arrival
counts once, and the last one with no byte outstanding completes the phase; a drop lowers the next phase's count; bytes
expected hold the phase open; an arrival of a dropped member, one at a retired object and one in a phase that is full but for its
bytes are refused with the over-arrival trap; the waits that
a `BAR.INIT` ends land, one whose phase has completed with its number (R296);
`BAR.TEST` tells whether the phase last arrived in has completed, and a `BAR.WAIT` learns the phase it waits for. -/
def Obligations.BarrierForms : Prop :=
  ∀ (s : State) (a : Fin 32) (e : QEntry) (b : BitVec 8) (k : Fin 8 × Fin 256) (v : Word64) (d : Fin 32) (pd : Fin 8)
    (c : Fin 32) (w : QEntry) (ph : BitVec 32) (due : Nat), s.AtHead a e → barrierAt s a b = some (k.1, k.2.val) → domainOf s a b = none →
    let o := barrierGet s (k.1, k.2.val)
    let g : Fin 4 := Fin.ofNat 4 (getA s a).grpIdx
    let ev := Instr.barrierFormApplied a (e.id, 0)
    let becomes (o' : Barrier) : Prop := ∃ t, exec ev s = .next t ∧ barrierGet t (k.1, k.2.val) = o' ∧ t.mem = s.mem
      ∧ (∀ j : Fin 8 × Fin 256, j ≠ k → barrierGet t (j.1, j.2.val) = barrierGet s (j.1, j.2.val))
    (getA s a).grpIdx < 4 →
    (e.op = .bar .init b v → becomes ⟨v.toNat, v.toNat, 0, 0, 0, 0, Vector.replicate 4 none, false⟩)
    ∧ (e.op = .bar .init b v → c ∈ members s a → c ≠ a → (getA s c).queue = [w] → w.op = .barWait d b (some ph) →
      ∃ t, exec ev s = .next t ∧ getA t c = ((getA s c).without w.id).took d
        (if ph.toNat < o.ph.toNat then ph.setWidth 64 else BitVec.ofNat 64 (2 ^ 63 + o.ph.toNat)))
    ∧ (o.dropped.getLsbD g.val = false → o.exp ≠ 0 → o.arr < o.exp →
      let last := o.lastPh.set g (some o.ph)
      (e.op = .bar .arr b v →
        (o.arr + 1 = o.exp → o.tx = 0 →
          becomes { o with ph := o.ph + 1, arr := 0, exp := o.next, tx := 0, sent := false, lastPh := last })
        ∧ (o.arr + 1 ≠ o.exp ∨ o.tx ≠ 0 → becomes { o with arr := o.arr + 1, lastPh := last }))
      ∧ (e.op = .bar .drop b v → o.next ≠ 0 → o.arr + 1 < o.exp →
        becomes { o with arr := o.arr + 1, next := o.next - 1, lastPh := last
                         dropped := o.dropped ||| BitVec.ofNat 4 (2 ^ g.val) }))
    ∧ (o.exp ≠ 0 → -(2 ^ 40) ≤ o.tx + v.toInt → o.tx + v.toInt < 2 ^ 40 → o.arr < o.exp → e.op = .bar .xp b v →
      becomes { o with tx := o.tx + v.toInt })
    ∧ (e.op = .bar .arr b v →
      let traps (reason : Nat) : Prop := ∃ t, exec ev s = .next t ∧ barrierGet t (k.1, k.2.val) = o
        ∧ (getA t a).traps = (getA s a).traps ++ [⟨.overArrival
          , BitVec.ofNat 48 (o.ph.toNat * 2 ^ 16 + b.toNat * 2 ^ 8 + reason * 2 ^ 3 + g.val * 2), 0, 0⟩]
      (o.dropped.getLsbD g.val = true → traps 0)
      ∧ (o.dropped.getLsbD g.val = false → o.exp = 0 → traps 1)
      ∧ (o.dropped.getLsbD g.val = false → o.exp ≠ 0 → o.arr = o.exp → o.tx ≠ 0 → traps 2))
    ∧ (e.op = .barTest b pd due → pd ≠ 0 → ∃ t, exec ev s = .next t ∧ (getA t a).regs = { (getA s a).regs with
        p := (getA s a).regs.p.set pd (match o.lastPh[g] with
          | some l => decide (l.toNat < o.ph.toNat)
          | none => false) })
    ∧ (e.op = .barWait d b none →
      (o.exp ≠ 0 → ∃ t f, exec ev s = .next t ∧ (getA t a).entry e.id = some f ∧ f.op = .barWait d b (some ((o.lastPh[g]).getD o.ph)))
      ∧ (o.exp = 0 → o.lastPh[g] = none → exec ev s = .next (updA s a fun x =>
        (x.without e.id).took d (BitVec.ofNat 64 (2 ^ 62 + o.ph.toNat)))))

/-- R178, R242, R249: a `ROLE` form takes effect: the bank has the new role and view, no other bank changes, streams whose
buffers lie in a bank that leaves OPERAND are unbound, those in one that stays OPERAND keep their bindings and their counts of
blocks, and the cluster's slices hold no line when a CACHE bank comes or goes. A change waits for those of the bank that
the cluster's sequencers committed before it. -/
def Obligations.RoleChanges : Prop :=
  ∀ (s : State) (a : Fin 32) (e : QEntry) (n : Fin 32) (r : Role) (v : View) (at' : Nat), s.AtHead a e → e.op = .role n r v at' →
    let cl := clusterOf a
    ((∃ b, clusterOf b = cl ∧ ∃ f ∈ (getA s b).queue, f.earlierRole n at' = true) →
      exec (.roleChangeApplied a e.id) s = .next s)
    ∧ ((∀ b, clusterOf b = cl → ∀ f ∈ (getA s b).queue, f.earlierRole n at' = false) →
      ∃ t, exec (.roleChangeApplied a e.id) s = .next t
      ∧ t.clusters[cl].banks[n] = ⟨r, v⟩
      ∧ (∀ k : Fin 32, k ≠ n → t.clusters[cl].banks[k] = s.clusters[cl].banks[k])
      ∧ (∀ c : Fin 8, c ≠ cl → t.clusters[c] = s.clusters[c])
      ∧ (s.clusters[cl].banks[n].role = .operand → r ≠ .operand → ∀ (b : Fin 32) (q : Fin 16), clusterOf b = cl →
        (getA s b).streams[q].mode = .bound → (getA s b).streams[q].desc.bank = n → (getA t b).streams[q] = Stream.unbound)
      ∧ (s.clusters[cl].banks[n].role = .operand → r = .operand → ∀ (b : Fin 32) (q : Fin 16), clusterOf b = cl →
        (getA s b).streams[q].mode = .bound → (getA s b).streams[q].desc.bank = n →
        ∃ buf, (getA t b).streams[q] = { (getA s b).streams[q] with buf := buf }
          ∧ buf.length = (getA s b).streams[q].buf.length)
      ∧ ((s.clusters[cl].banks[n].role = .cache) ≠ (r = .cache) →
        t.clusters[cl].lines = [] ∧ t.clusters[cl].writeBacks = [] ∧ t.clusters[cl].misses = [])
      ∧ t.mem = s.mem)

/-! ### Copies -/

/-- R155, R158, R161, R162, R164: the oldest command to a tongs context: a parameter block that passes its checks is the
shadow's block, or sets the ring; one that fails them empties the shadow set with a schedule trap of subcause 4; the commands
of every sequencer of the task to one context are processed in commit order; `CPY.GO` starts the copy under the next operation number, with its initial check, or arms it while one is active; `CPY.STAGE` releases a stage and never takes one back;
`CPBINV` discards the task's cached copies of a block. That a copy block for a scheduled context faults as it arrives, and what
a `CPY.GO` with no block leaves, are the model's readings (log entries 84 and 86).
R155, R161, R163, R164: the due entry of a scheduled context, its stage released, reads its block with the launch
record's capabilities and starts under operation number entry + 1; a block that arrives poisoned is used for nothing, and
the entry ends with its operation number; an entry whose stage is not released waits. -/
def Obligations.TongsCommands : Prop :=
  (∀ (s t : State) (a : Fin 32) (e : QEntry) (n : Fin 16) (k : Fin 8 × Fin 16) (caps : Vector Cap 16) (v st : Nat)
    (i : BitVec 8), s.AtHead a e → tongsAt s a n = some (k.1, k.2.val) →
    s.clusters[k.1].tongs[k.2].armed = false →
    (((s.clusters[k.1].tongs[k.2]).pending s).takeWhile fun y => decide ((y.1, y.2.id) ≠ (a, e.id))) = [] →
    let x := getA s a
    let c := s.clusters[k.1].tongs[k.2]
    let ev := Instr.copyBlockArrives a (e.id, .clean, .clean)
    let becomes (c' : Tongs) : Prop := ∃ u, exec ev s = .next u ∧ u.clusters[k.1].tongs[k.2] = c'
      ∧ (∀ j : Fin 8 × Fin 16, j ≠ k → u.clusters[j.1].tongs[j.2] = s.clusters[j.1].tongs[j.2])
      ∧ (getA u a).queue = (x.without e.id).queue
    let b := mkBlock v fun h => caps[Fin.ofNat 16 h]
    let traps (sub : Nat) : Prop := ∃ u, exec ev s = .next u
      ∧ (getA u a).traps = x.traps ++ [⟨.schedule, BitVec.ofNat 48 (sub + 256 * n.val), 0, 0⟩]
    (e.op = .cpyBlock n caps → bytesServed s x.ctx e.cap.obj e.off 64 = true → x.point.firstEntry ≤ e.id →
      (readBlock s x.ctx e.cap.obj e.off (.clean, .clean) = (t, .value v false) →
        (b.ok t (ownerOf k.1 k.2) = true → b.kind ≠ 4 → c.schedule = none → becomes { c with block := some b })
        ∧ (b.ok t (ownerOf k.1 k.2) = true → b.kind ≠ 4 → c.schedule.isSome = true → traps 5)
        ∧ (b.ok t (ownerOf k.1 k.2) = true → b.kind = 4 →
          becomes { c with ring := b.src, ringOff := b.fromOff, ringEntries := b.ringEntries })
        ∧ (b.ok t (ownerOf k.1 k.2) = false → becomes { c with shadow := .empty, block := none, armed := false } ∧ traps 4))
      ∧ (readBlock s x.ctx e.cap.obj e.off (.clean, .clean) = (t, .value v true) →
        becomes { c with shadow := .empty, block := none, armed := false }
        ∧ ∃ u, exec ev s = .next u ∧ ∃ r ∈ (getA u a).traps, r.cause = .poison))
    ∧ (e.op = .cpyGo n → x.run ≠ .off →
      (∀ g ∈ c.block,
        (c.active = none → isWindow s (ownerOf k.1 k.2) g = false ∨ g.kind ≠ 3 → becomes { c with
          active := some (checked s (ownerOf k.1 k.2) (Copy.start (c.lastOp + 1) g 0xFF 0xFF))
          lastOp := c.lastOp + 1, block := none, armed := false })
        ∧ (∀ y, c.active = some y → y.checked = true → becomes { c with armed := true }))
      ∧ (c.block = none → c.active = none → c.pending s = [(a, e)] →
        becomes { c with shadow := if c.shadow = .armed then .empty else c.shadow }))
    ∧ (e.op = .cpyStage n st → becomes { c with released := max c.released st })
    ∧ (e.op = .cpbinv i → ∃ u, exec ev s = .next u ∧ ∀ m ∈ mates s a, ∀ y : Fin 4,
      tableFind (vget u.clusters[clusterOf m].tongs (4 * y.val + inCluster m)).cache i.toNat = none))
  ∧ (∀ (s t t' : State) (cl : Fin 8) (tc : Fin 16) (l : List (Nat × Nat)) (stage idx lo hi : Nat) (p q : Bool) (r : Task),
    let a := ownerOf cl tc
    let g := s.clusters[cl].tongs[tc]
    let ev := Instr.scheduledCopyStart cl (tc, .clean, .clean)
    g.schedule = some l → g.active = none → l[g.schedIdx]? = some (stage, idx) → taskFind s (getA s a).task = some r →
    let b := mkBlock (lo + 2 ^ 256 * hi) fun h => grantedCap r h
    let off := r.params.lower.toNat + 64 * idx
    (stage ≤ g.released → (getA s a).run ≠ .off → parkedWhole s a = false → groupClosing s a = false →
      cachedCopies s a idx = [] → bytesServed s r.ctx r.params.obj off 64 = true → readObj s r.ctx r.params.obj off 32 [Right.read] = (t, .value lo p) →
      readObj t r.ctx r.params.obj (off + 32) 32 [Right.read] = (t', .value hi q) →
      (p = false → q = false → b.ok s a = true → b.kind ≠ 4 → isWindow s a b = false ∨ b.kind ≠ 3 →
        ∃ u, exec ev s = .next u ∧ u.clusters[cl].tongs[tc] = { g with
          active := some (checked s a (Copy.start (g.schedIdx + 1) b (BitVec.ofNat 8 g.schedIdx) (BitVec.ofNat 8 idx)))
          lastOp := g.schedIdx + 1, schedIdx := g.schedIdx + 1, cache := tableSet g.cache idx b.bits })
      ∧ (p = true ∨ q = true → g.ringEntries = 0 → ∃ u, exec ev s = .next u
        ∧ u.clusters[cl].tongs[tc].cache = g.cache ∧ u.clusters[cl].tongs[tc].schedIdx = g.schedIdx + 1
        ∧ u.clusters[cl].tongs[tc].timeline = BitVec.ofNat 64 (g.schedIdx + 1)))
    ∧ (g.released < stage → exec ev s = .next s))

/-- R156, R159, R162, R172, R260: a STRIDE copy reads one of its sectors that are left, or writes one of those read; with all
written a copy completes: its timeline takes its operation number, its bytes are posted to its barrier, and a copy that was
armed starts. A copy that fails its check completes with nothing moved. Which sector moves is a free value (log entry
22).
R157, R160: a GATHER reads the index of its next row, then the row's sectors in order, and then writes them; an index out
of its capability's bounds or poisoned is fault 2, a row out of the source's fault 3, a poisoned sector fault 4. A row that
faults is written with zeros under policy ZERO, and counted; under STOP the copy ends with status 2 and the row as its
detail, with nothing more read.
R159, R160: with records on, a copy that has ended writes its record at entry (n - 1) mod E of its ring, bytes 0 to 31
first: status, kind, the two indices, the fault code, the bytes written, the fault detail and the rows zeroed; then, when the
tongs move it again, bytes 32 to 63: the time and the operation number; only then is its timeline set. -/
def Obligations.CopiesComplete : Prop :=
  (∀ (s t u : State) (cl : Fin 8) (tc : Fin 16) (c : Copy) (w : SectorWrite) (p z : Nat) (m : Option Nat) (n : Nat)
    (k : Fin 8 × Fin 256) (ending : Nat × Nat × Nat),
    let a := ownerOf cl tc
    let x := getA s a
    let g := s.clusters[cl].tongs[tc]
    let b := c.block
    let one := Instr.copyCompletes cl tc 1 (false, .clean, 0)
    let whole : Prop := c.chunks = none ∨ ∀ o, objFind s x.ctx b.src.obj = some o → o.marked = false
    g.active = some c → isWindow s a b = false ∨ c.ended.isSome = true → c.kept = false →
    (c.ended = none → c.moved < b.units → c.buf = [] → b.kind = 1 ∨ b.kind = 2 → c.moved ∉ c.ahead →
      let i := c.nextUnit (Config.pick s.freeCtr / 2)
      c.moved ≤ i ∧ i < b.units ∧ i ∉ c.ahead
      ∧ (b.overlaps i = false → bytesServed (bump s) x.ctx b.src.obj (b.src.at (b.srcAt i)) 32 = true →
        locate (bump (bump s)) x.ctx b.src.obj (b.src.at (b.srcAt i)) 32 [Right.read, Right.copy] false = (t, .phys p m) →
        bankRefuses t p = none →
        ∃ r c', exec one s = .next r ∧ r.mem = t.mem ∧ r.clusters[cl].tongs[tc] = { g with active := some c' }
          ∧ c'.buf = [⟨b.dst.at (b.dstAt i), BitVec.ofNat 256 (bytesAt t p 32), (readPhys t p 32).2⟩]
          ∧ c'.written = c.written ∧ ∀ j, (j < c'.moved ∨ j ∈ c'.ahead) ↔ (j < c.moved ∨ j ∈ c.ahead ∨ j = i)))
    ∧ (c.ended = none → c.moved = b.units → c.buf[Config.pick s.freeCtr / 2 % c.buf.length]? = some w → 1 < c.buf.length →
      bytesServed (bump s) x.ctx b.dst.obj w.off 32 = true → heldChunk (bump s) a c w.off = false →
      locate (bump s) x.ctx b.dst.obj w.off 32 [Right.write, Right.copy] true = (u, .phys z none) →
      bankRefuses u z = none → quarantinedAt u z = false →
      ∃ r c', exec one s = .next r ∧ bytesAt r z 32 = w.value.toNat
        ∧ (∀ y, y < z ∨ z + 32 ≤ y → Memory.read r.mem y = Memory.read u.mem y)
        ∧ r.clusters[cl].tongs[tc] = { g with active := some c' } ∧ c'.written = c.written + 32
        ∧ c'.buf.length + 1 = c.buf.length)
    ∧ (c.buf = [] → g.ringEntries = 0 → b.posts = false →
      (c.ended = none ∧ c.moved = b.units ∧ whole) ∨ c.ended = some ending →
      ∃ r, exec (.copyCompletes cl tc n (false, .clean, 0)) s = .next r
        ∧ r.clusters[cl].tongs[tc].timeline = BitVec.ofNat 64 c.opNum ∧ r.mem = s.mem
        ∧ (g.armed = false → r.clusters[cl].tongs[tc].active = none)
        ∧ (g.armed = true → ∀ b' ∈ g.block, isWindow s a b' = false ∨ b'.kind ≠ 3 →
          r.clusters[cl].tongs[tc].active = some (checked s a (Copy.start (g.lastOp + 1) b' 0xFF 0xFF))))
    ∧ (c.buf = [] → g.ringEntries = 0 → b.posts = true → c.closed = 0 → c.ended = none → c.moved = b.units → whole →
      barrierAt s a b.barrier = some (k.1, k.2.val) → domainOf s a b.barrier = none →
      let o := s.clusters[k.1].barriers[k.2]
      o.exp ≠ 0 → o.arr < o.exp → -(2 ^ 40) ≤ o.tx - c.written → o.tx - c.written < 2 ^ 40 →
      ∃ r, exec (.copyCompletes cl tc n (false, .clean, 0)) s = .next r
        ∧ r.clusters[k.1].barriers[k.2] = { o with tx := o.tx - c.written }))
  ∧ (∀ (s t : State) (cl : Fin 8) (tc : Fin 16) (c : Copy) (f p : Nat) (l : List PReg) (m : Option Nat),
    let a := ownerOf cl tc
    let x := getA s a
    let g := s.clusters[cl].tongs[tc]
    let b := c.block
    let i := c.moved
    let sectors := b.rowBytes / 32
    let to' := b.dst.at ((b.toOff + i * b.rowBytes : Nat) : Int)
    let at' := ((b.indexOff + 4 * i : Nat) : Int)
    let one := Instr.copyCompletes cl tc 1 (false, .clean, 0)
    let next (m : List Host.Cell) (c' : Copy) : Prop := ∃ r, exec one s = .next r ∧ r.mem = m
      ∧ r.clusters[cl].tongs[tc] = { g with active := some c' }
    let moves (m : List Host.Cell) (buf : List SectorWrite) (zeroed : Nat) : Prop := ∃ c', next m c' ∧ c'.buf = buf
      ∧ c'.zeroed = zeroed ∧ c'.written = c.written ∧ c'.row = none ∧ c'.ended = none
      ∧ ∀ j, (j < c'.moved ∨ j ∈ c'.ahead) ↔ (j < i ∨ j ∈ c.ahead ∨ j = i)
    let faults (t : State) (code : Nat) : Prop :=
      if b.zeroes then moves t.mem ((List.range sectors).map fun k => ⟨to' + 32 * k, 0, false⟩) (c.zeroed + 1)
      else exec one s = exec (.copyCompletes cl tc 0 (false, .clean, 0)) (updC t cl fun y => { y with
        tongs := y.tongs.set tc { g with active := some { c with ended := some (2, code, i) } } })
    g.active = some c → isWindow s a b = false → c.ended = none → i < b.units → c.buf = [] → b.kind = 3 → 32 ≤ b.rowBytes →
    (c.row = none →
      (b.idx.holds at' 4 = false → faults (bump s) 2)
      ∧ (b.idx.holds at' 4 = true → bytesServed (bump s) x.ctx b.idx.obj (b.idx.at at') 4 = true →
        locate (bump s) x.ctx b.idx.obj (b.idx.at at') 4 [Right.read] false = (t, .phys p m) → bankRefuses t p = none →
        let row := b.fromOff + bytesAt t p 4 * b.rowBytes
        let read := touchLine t p false (memsideOf t x.ctx b.idx.obj)
        ((readPhys t p 4).2 = true → faults read 2)
        ∧ ((readPhys t p 4).2 = false → b.src.len.toNat < row + b.rowBytes → faults read 3)
        ∧ ((readPhys t p 4).2 = false → row + b.rowBytes ≤ b.src.len.toNat →
          next t.mem { c with row := some (b.src.at row, []) })))
    ∧ (c.row = some (f, l) → bytesServed (bump s) x.ctx b.src.obj (f + 32 * l.length) 32 = true →
      locate (bump s) x.ctx b.src.obj (f + 32 * l.length) 32 [Right.read, Right.copy] false = (t, .phys p m) →
      bankRefuses t p = none →
      let l' := l ++ [⟨BitVec.ofNat 256 (bytesAt t p 32), false⟩]
      ((readPhys t p 32).2 = true → faults (touchLine t p false (memsideOf t x.ctx b.src.obj)) 4)
      ∧ ((readPhys t p 32).2 = false → l.length + 1 < sectors → next t.mem { c with row := some (f, l') })
      ∧ ((readPhys t p 32).2 = false → sectors ≤ l.length + 1 →
        moves t.mem (l'.mapIdx fun k v => ⟨to' + 32 * k, v.bits, v.poison⟩) c.zeroed)))
  ∧ (∀ (s u : State) (cl : Fin 8) (tc : Fin 16) (c : Copy) (z : Nat) (status code detail : Nat),
    let a := ownerOf cl tc
    let x := getA s a
    let g := s.clusters[cl].tongs[tc]
    let b := c.block
    let off := g.ring.lower.toNat + g.ringOff + 64 * ((c.opNum - 1) % g.ringEntries) + if c.closed = 2 then 32 else 0
    g.active = some c → c.ended = some (status, code, detail) → status < 4 → code < 6 → c.buf = [] → c.kept = false →
    b.posts = false → g.ringEntries ≠ 0 → bytesServed s x.ctx g.ring.obj off 32 = true →
    locate s x.ctx g.ring.obj off 32 [Right.write] true = (u, .phys z none) → bankRefuses u z = none →
    quarantinedAt u z = false →
    ∃ r, exec (.copyCompletes cl tc 0 (false, .clean, 0)) s = .next r
      ∧ (∀ y, y < z ∨ z + 32 ≤ y → Memory.read r.mem y = Memory.read u.mem y)
      ∧ (c.closed ≠ 2 → r.clusters[cl].tongs[tc] = { g with active := some { c with closed := 2 } }
        ∧ bytesAt r z 32 = status + b.kind * 2 ^ 8 + c.blockIdx.toNat * 2 ^ 16 + c.schedIdx.toNat * 2 ^ 24 + code * 2 ^ 32
          + c.written % 2 ^ 64 * 2 ^ 64 + detail % 2 ^ 64 * 2 ^ 128 + c.zeroed % 2 ^ 64 * 2 ^ 192)
      ∧ (c.closed = 2 → r.clusters[cl].tongs[tc].timeline = BitVec.ofNat 64 c.opNum
        ∧ bytesAt r z 32 = s.ptime % 2 ^ 64 + c.opNum % 2 ^ 64 * 2 ^ 192))

/-! ### Pages and slices -/

/-- R176, R177, R281, R284: the walkers' answers for the pages of a range. A `PROBE` whose pages can all be pinned pins each
and answers 1; one with an ABSENT page answers 0 with the probe trap of subcause 1 and asks for the page, and one that is
not answered in time subcause 5. `UNPIN` takes one pin of the task off each page, `PREFETCH` asks for the ABSENT pages of a
CAPACITY object, and `EVICT` for the write-back of the dirty resident ones without pins.
That `EVICT` leaves clean pages, and that these forms wait for no queue, are the model's reading (log entry 20). -/
def Obligations.Residency : Prop :=
  ∀ (s : State) (a : Fin 32) (e : QEntry) (o : ObjEntry) (d : Fin 8) (len due : Nat),
    let x := getA s a
    let ctx := x.ctx
    let obj := e.cap.obj
    let page (p : Nat) : Prop := e.off / 2 ^ o.pageShift ≤ p ∧ p ≤ (e.off + len - 1) / 2 ^ o.pageShift
    let walk (p : Nat) := walkPage s o ctx obj p false
    let job (p : Nat) : PageJob := ⟨ctx, obj, BitVec.ofNat 48 p⟩
    let mine (p : Nat) (l : List Pin) := l.filter fun r => r.onPage x.task ctx obj p
    let ev := Instr.probeAnswer a e.id
    s.AtHead a e → objFind s ctx obj = some o → o.kind = 2 → o.homeKind ≠ 1 → len ≠ 0 → e.off + len ≤ 2 ^ 48 →
    (e.op = .probe d len due → d ≠ 0 →
      ((∀ p, page p → pinsOn s ctx obj p < 65535 ∧ ∃ w, walk p = some w ∧ 1 ≤ descState w ∧ descState w ≤ 3) →
        pinsBy s x.task + (pagesOf o e.off len).length ≤ 65536 →
        ∃ t, exec (ev false) s = .next t ∧ (getA t a).regs = { x.regs with p := x.regs.p.set d true }
          ∧ (getA t a).traps = x.traps ∧ (∀ p, page p → pinsOn s ctx obj p < pinsOn t ctx obj p) ∧ t.mem = s.mem)
      ∧ (∀ p, page p → (∃ w, walk p = some w ∧ descState w = 0) →
        ∃ t, exec (ev false) s = .next t ∧ (getA t a).regs = { x.regs with p := x.regs.p.set d false }
          ∧ (getA t a).traps = x.traps ++ [⟨.probe, 1, 0, 0⟩] ∧ job p ∈ t.stageJobs ∧ t.pins = s.pins)
      ∧ (due ≤ x.acnt → ∃ t, exec (ev true) s = .next t ∧ (getA t a).regs = { x.regs with p := x.regs.p.set d false }
          ∧ (getA t a).traps = x.traps ++ [⟨.probe, 5, 0, 0⟩]))
    ∧ (e.op = .unpin len → ∀ p r, page p → mine p s.pins = [r] → r.count ≠ 0 →
      ∃ t, exec (ev false) s = .next t
        ∧ mine p t.pins = if r.count = 1 then [] else [{ r with count := r.count - 1 }])
    ∧ (e.op = .prefetch len → o.capacity = true → ∀ p, page p → (∃ w, walk p = some w ∧ descState w = 0) →
      ∃ t, exec (ev false) s = .next t ∧ job p ∈ t.stageJobs)
    ∧ (e.op = .evict len → o.capacity = true → ∀ p, page p → pinsOn s ctx obj p = 0 →
      (∃ w, walk p = some w ∧ descState w = 1 ∧ w.getLsbD 1 = true) →
      ∃ t, exec (ev false) s = .next t ∧ job p ∈ t.evictJobs)

/-- R277, R278, R279: a walk caches the page's descriptor with its accessed bit set, and on a write its dirty bit; a walk
that fails, or finds the page ABSENT or quarantined, changes nothing. An access is looked up with no effect but on
descriptors and cached translations. An invalidation discards every cached copy of the page and no other. An object that
shares the pages of another context's is translated as that one (R395). That an invalidation is an event of its own, and when
accessed bits are set, are the model's readings (log entry 118).
R249, R384, R385, R389: a miss of a line takes an entry of its slice's miss table that no other holds, or waits there while
all 28 are busy or others wait; its fill then lists the line clean, with a poisoned sector for each half that could not be
corrected, and the entry comes free; a dirty line that is written back leaves its slice, with memory unchanged, and holds one
of the slice's four reserved entries, or none where all are busy, until the stack controller accepts it. A page that a full
sector record quarantines, with no object on it, goes on its stack's list, and its poison entries are freed; with the list full,
every pseudo-channel that holds a byte of it leaves service. That caches keep no bytes of their own, and when entries are held,
are the model's readings (log entries 76, 101 and 126). -/
def Obligations.Translations : Prop :=
  (∀ (s : State) (ctx : BitVec 12) (obj : BitVec 24) (page : BitVec 48) (wr : Bool) (e : ObjEntry),
    let ev := Instr.pageWalk ctx obj page wr
    (objFind s ctx obj = some e → e.kind = 2 → walkServed s ctx obj e (page.toNat * 2 ^ e.pageShift) = true →
      cached s ctx obj page.toNat = none →
      (∀ d, walkPage s e ctx obj page.toNat wr = some d → 1 ≤ descState d → descState d ≤ 3 →
        ∃ t, exec ev s = .next t ∧ cached t ctx obj page.toNat = some (d ||| if wr then 3 else 1))
      ∧ (walkPage s e ctx obj page.toNat wr = none → exec ev s = .next s)
      ∧ (∀ d, walkPage s e ctx obj page.toNat wr = some d → descState d = 0 ∨ descState d = 4 → exec ev s = .next s))
    ∧ (objFind s ctx obj = none → exec ev s = .next s)
    ∧ (∀ off n need, let t := (locate s ctx obj off n need wr).1
        t = { s with mem := t.mem, descs := t.descs, translations := t.translations })
    ∧ (supervisorReady s = true → ∃ t, exec (.translationInvalidate ctx obj page) s = .next t ∧ cached t ctx obj page.toNat = none
      ∧ t = { s with translations := t.translations }
      ∧ ∀ c o p, ownCtx s c o ≠ ownCtx s ctx obj ∨ o ≠ obj ∨ p ≠ page.toNat → cached t c o p = cached s c o p))
  ∧ (∀ (s : State) (cl : Fin 8) (line page : Nat) (bad : BitVec 2) (b : Nat) (k : Fin 16) (e : MissEntry),
    let x := s.clusters[cl]
    let fill := Instr.cacheMissFill cl line bad
    (sliceOf s (64 * line) = some (cl.val, b) → tableFind x.lines line = none →
      (x.misses.find? (fun e => e.line = line) = none →
        let waits : Prop := ∃ v ∈ x.misses, v.slice = b ∧ v.entry = none
        ∃ t i, exec fill s = .next t ∧ t.clusters[cl].misses = x.misses ++ [⟨line, b, i⟩] ∧ t.mem = s.mem
          ∧ t.clusters[cl].lines = x.lines
          ∧ (∀ j, i = some j → ¬ waits ∧ ∀ v ∈ x.misses, v.slice = b → v.entry ≠ some j)
          ∧ (i = none → waits ∨ ∀ j : Fin 28, ∃ v ∈ x.misses, v.slice = b ∧ v.entry = some j))
      ∧ (x.misses.find? (fun e => e.line = line) = some e →
        (e.entry = none ∨ (∃ w ∈ x.writeBacks, w.line = line) → exec fill s = .next s)
        ∧ (e.entry.isSome = true → (∀ w ∈ x.writeBacks, w.line ≠ line) →
          ∃ t, exec fill s = .next t ∧ tableFind t.clusters[cl].lines line = some false
            ∧ (∀ v ∈ t.clusters[cl].misses, v.line ≠ line)
            ∧ (∀ h : Fin 2, bad.getLsbD h.val = true → 2 * line + h.val ∈ t.poison ∨ line / 1024 ∈ t.toQuarantine)
            ∧ (bad = 0 → t.poison = s.poison) ∧ t.mem = s.mem)))
    ∧ (sliceOf s (64 * line) = some (cl.val, b) → tableFind x.lines line = some true →
      let old := x.writeBacks
      ∃ t i, exec (.writeBack cl line) s = .next t ∧ tableFind t.clusters[cl].lines line = none ∧ t.mem = s.mem
        ∧ t.clusters[cl].writeBacks = old ++ [⟨line, b, i⟩]
        ∧ (∀ j, i = some j → ∀ v ∈ old, v.slice = b → v.entry ≠ some j)
        ∧ (i = none → ∀ j : Fin 4, ∃ v ∈ old, v.slice = b ∧ v.entry = some j))
    ∧ (tableFind x.lines line ≠ some true →
      ∃ t, exec (.writeBack cl line) s = .next t ∧ t.clusters[cl].lines = x.lines ∧ t.mem = s.mem
        ∧ t.clusters[cl].writeBacks = x.writeBacks.filter fun v => v.line ≠ line)
    ∧ (supervisorReady s = true → page ∈ s.toQuarantine → page < 2 ^ 24 → k.val = page / 2 ^ 20 → s.objs = [] →
      s.port.objs = [] →
      (s.stackCtl[k].quarantined.length < 256 →
        ∃ t, exec (.pageQuarantine page) s = .next t ∧ page ∈ t.stackCtl[k].quarantined ∧ page ∉ t.toQuarantine
          ∧ ∀ x ∈ t.poison, ¬ (2048 * page ≤ x ∧ x < 2048 * (page + 1)))
      ∧ (256 ≤ s.stackCtl[k].quarantined.length →
        ∃ t, exec (.pageQuarantine page) s = .next t
          ∧ ∀ n, n < 2048 → Config.pseudoChannel (65536 * page + 32 * n) ∈ t.stackCtl[k].dead)))

/-- R276, R279, R285, R287, R288: a page that moves. From the start of a relocation its descriptor reads MOVING
with its target, from that of a retirement RETIRING with its target and the cursor at 0; each step of a retirement copies the
sector at the cursor, the last sector too, and advances it; at the end of either the descriptor reads RESIDENT at the new base,
which holds the page's bytes, and no cached copy of it is left. Where the descriptors of pages stand is the model's reading (log
entry 64).
R284: a page that the command processor has been asked to stage becomes RESIDENT at its base with the bytes that the
capacity tier holds; one whose write-back ends, with no pin, becomes ABSENT, and the capacity tier holds its bytes.
Where staged pages and their copies in the capacity tier are kept is the model's choice (log entry 24). -/
def Obligations.PageMoves : Prop :=
  (∀ (s : State) (ctx : BitVec 12) (obj : BitVec 24) (page base : BitVec 48) (pkg : BitVec 10) (e : ObjEntry) (d : BitVec 128)
    (m : PageMove) (c : Nat),
    let p := page.toNat
    let size := 2 ^ e.pageShift
    let old := descBase d
    let new := m.target.toNat
    let desc (t : State) (state base target pkg : Nat) : Prop := cached t ctx obj p = none
      ∧ ∃ w, walkPage t e ctx obj p false = some w ∧ descState w = state ∧ descBase w = base ∧ descTarget w = target
        ∧ descPkg w = pkg
    (supervisorReady s = true → residentPage s ctx obj p = some (e, d) → baseOk s e base.toNat = true →
      moveOf s ctx obj p = none → s.Placed e ctx obj p [] →
      (∃ t, exec (.pageRelocation ctx obj page pkg (base, none)) s = .next t ∧ desc t 2 old base.toNat pkg.toNat
        ∧ t.moves = s.moves ++ [⟨ownCtx s ctx obj, obj, page, base, pkg, BitVec.ofNat 10 (descPkg d), none, [], []⟩])
      ∧ (descPkg d = s.pkgnum.toNat → ∃ t, exec (.pageRetirementStart ctx obj page base) s = .next t
        ∧ desc t 3 old base.toNat s.pkgnum.toNat
        ∧ t.moves = s.moves ++ [⟨ownCtx s ctx obj, obj, page, base, s.pkgnum, s.pkgnum, some 0, [], []⟩]))
    ∧ (moving s ctx obj p = some (e, d, m) → m.cursor = some c → quarantinedAt s (new + 32 * c) = false →
      let ev := Instr.pageRetirementStep ctx obj page
      let copied (t : State) : Prop := bytesAt t (new + 32 * c) 32 = bytesAt s (old + 32 * c) 32
      (32 * (c + 1) < size → ∃ t m', exec ev s = .next t ∧ copied t ∧ moveOf t ctx obj p = some m'
        ∧ m'.cursor = some (c + 1)
        ∧ ∀ y, y < new + 32 * c ∨ new + 32 * (c + 1) ≤ y → Memory.read t.mem y = Memory.read s.mem y)
      ∧ (size ≤ 32 * (c + 1) → 32 * c < size → m.held = [] → baseOk s e new = true → s.Placed e ctx obj p [old, new] →
        ∃ t, exec ev s = .next t ∧ copied t ∧ moveOf t ctx obj p = none ∧ desc t 1 new 0 s.pkgnum.toNat
          ∧ ∀ k, k < size → k < 32 * c ∨ 32 * (c + 1) ≤ k → Memory.read t.mem (new + k) = Memory.read s.mem (new + k)))
    ∧ (moving s ctx obj p = some (e, d, m) → m.cursor = none → staging s ctx obj page = false → m.held = [] →
      baseOk s e new = true → s.Placed e ctx obj p [old, new] →
      ∃ t, exec (.relocationCopyComplete ctx obj page) s = .next t ∧ moveOf t ctx obj p = none
        ∧ desc t 1 new 0 m.pkg.toNat
        ∧ (m.home = s.pkgnum → m.pkg = s.pkgnum → Memory.wf s.mem = true →
          ∀ k, k < size → Memory.read t.mem (new + k) = Memory.read s.mem (old + k))))
  ∧ (∀ (s : State) (ctx : BitVec 12) (obj : BitVec 24) (page base : BitVec 48) (e : ObjEntry) (d : BitVec 128),
    let p := page.toNat
    let size := 2 ^ e.pageShift
    let back (t : State) := (tableGet t.backing (pageKey ctx obj p) ⟨[], []⟩).bytes
    (objFind s ctx obj = some e → e.kind = 2 → nextStaged s ctx obj page = true → baseOk s e base.toNat = true →
      walkPage s e ctx obj p false = some d → descState d = 0 → moveOf s ctx obj p = none →
      s.Placed e ctx obj p [base.toNat] →
      ∃ t w, exec (.capacityPageStaged ctx obj page base) s = .next t ∧ staging t ctx obj page = false
        ∧ walkPage t e ctx obj p false = some w ∧ descState w = 1 ∧ descBase w = base.toNat
        ∧ ∀ k, k < size →
          (∀ b, (back s).filter (fun r => r.1 = k) = [(k, b)] → Memory.read t.mem (base.toNat + k) = b)
          ∧ ((back s).filter (fun r => r.1 = k) = [] → Memory.read t.mem (base.toNat + k) = 0))
    ∧ (residentPage s ctx obj p = some (e, d) → ⟨ctx, obj, page⟩ ∈ s.evictJobs → pinsOn s ctx obj p = 0 →
      descPkg d = s.pkgnum.toNat → s.Placed e ctx obj p [descBase d] →
      ∃ t w, exec (.capacityPageEvicted ctx obj page) s = .next t ∧ ⟨ctx, obj, page⟩ ∉ t.evictJobs
        ∧ walkPage t e ctx obj p false = some w ∧ descState w = 0
        ∧ ∀ k, k < size → tableGet (back t) k 0 = Memory.read s.mem (descBase d + k)))

/-! ### Traps, cancels and errors -/

/-- R106, R298, R335 to R341: an array at a boundary takes its pending trap of the in-task class: `XPC` and `XNPC` save the
bundle and the bundle after it, `XSW` holds the detail, the cause code and the slot-resume, and execution goes on in
handler mode at the bundle that the launch record's trap table names. A slot trap is taken where it stands alone, and before
a boundary trap of its own or a lower priority; a boundary trap alone records the bundle due. -/
def Obligations.TrapEntry : Prop :=
  ∀ (s : State) (a : Fin 32) (r : Task) (st : SlotTrap) (b : Trap) (k : Nat),
    let x := getA s a
    let h (k : Nat) := bits r.record.header.toNat (512 + 32 * k) 32
    let enters (k resume : Nat) (c : Cause) (detail : BitVec 48) (pc npc : BitVec 48) (left : List Trap) : Prop :=
      ∃ t, exec (.trapTaken a) s = .next t
        ∧ (getA t a).regs = { x.regs with
          xpc := pc, xnpc := npc, xsw := BitVec.ofNat 64 (detail.toNat * 2 ^ 16 + c.code * 2 ^ 8 + resume) }
        ∧ (getA t a).handler = true ∧ (getA t a).due.toNat = 32 * (h k - 1) ∧ (getA t a).run = .boundary
        ∧ (getA t a).resume = 0 ∧ (getA t a).slotTrap = none ∧ (getA t a).traps = left
        ∧ (∀ c, c ≠ a → getA t c = getA s c) ∧ t.mem = s.mem ∧ t.tasks = s.tasks
    x.run = .boundary → x.gap = 0 → x.handler = false → taskFind s x.task = some r →
    (x.slotTrap = some st → st.cause.key = some k → st.cause.cls = .inTask → h k ≠ 0 →
      (st.cause ≠ .schedule ∨ st.detail.toNat % 256 ≠ 8) → st.resume < 8 →
      (x.traps = [] → enters k st.resume st.cause st.detail st.pc st.npc [])
      ∧ (x.traps = [b] → st.cause.prio ≤ b.cause.prio → enters k st.resume st.cause st.detail st.pc st.npc [b]))
    ∧ (x.slotTrap = none → x.traps = [b] → b.cause.key = some k → b.cause.cls = .inTask → h k ≠ 0 → x.resume < 8 →
      x.ending = none → (b.cause ≠ .schedule ∨ b.detail.toNat % 256 ≠ 8) →
      enters k x.resume b.cause b.detail (x.due.setWidth 48) (if x.resume = 0 then x.due.setWidth 48 + 32#48
        else x.resumeNext.getD (x.due.setWidth 48 + 32#48)) [])

/-- R118, R120, R344 to R346: an overdue retirement is raised and its interval starts again; a cancel at a boundary begins
the rollback, which stops issue and counts one cancel; once the issued steps have completed the rollback puts back the
checkpoint tiles and the streams of the commit point, and the phase entry is due; a fatal context error ends every task of
the context, stops its sequencers at their next boundaries, and touches no task of another.
What a rollback waits for, and where a fatal error stops a sequencer, are the model's readings (log entries 32 and 41). -/
def Obligations.CancelsAndErrors : Prop :=
  ∀ (s : State) (a : Fin 32) (ctx : BitVec 12) (info : FatalInfo) (d : BitVec 48) (checker : Option Bool),
    let x := getA s a
    (x.retIv ≠ 0 → x.retLeft = 0 → x.run = .boundary → x.gap = 0 → x.ending = none → exec (.retirementOverdue a) s
      = .next (updA s a fun x => { x with traps := x.traps ++ [⟨.overdue, 0, 0, 0⟩], retLeft := x.retIv }))
    ∧ (x.run = .boundary → x.gap ≠ 0 → exec (.retirementOverdue a) s = .next s)
    ∧ (x.retLeft ≠ 0 → exec (.retirementOverdue a) s = .next s)
    ∧ (x.run = .boundary → x.gap = 0 → x.slotTrap = none → x.traps = (if checker.isSome then [] else [⟨.poison, d, 0, 0⟩]) →
      x.kind = .cluster → x.phDirty = false → x.cancels < 2 →
      ∃ t, exec (.automaticCancel a checker) s = .next t ∧ (getA t a).run = .rolling ∧ (getA t a).cancels = x.cancels + 1
        ∧ (getA t a).traps = [] ∧ (getA t a).cells = x.cells ∧ (getA t a).edge = none
        ∧ (getA t a).north.form = none ∧ (getA t a).west.form = none ∧ t.mem = s.mem)
    ∧ (x.kind = .cluster → rollbackReady s a = true →
      ∃ t, exec (.phaseRollback a) s = .next t ∧ (getA t a).run = .boundary
        ∧ (getA t a).due = x.point.entry.setWidth 64 ∧ (getA t a).resume = 0 ∧ (getA t a).resumeNext = none
        ∧ (getA t a).handler = false
        ∧ (getA t a).cells = x.cells.map (fun c => (c.1, { c.2 with a := c.2.ckpt }))
        ∧ (∀ q : Fin 16, (getA t a).streams[q].mode = x.point.streams[q].mode
          ∧ (getA t a).streams[q].pos = x.point.streams[q].pos ∧ (getA t a).streams[q].buf = [])
        ∧ (getA t a).regs = x.regs ∧ t.mem = s.mem)
    ∧ ∃ t, exec (.fatalContextError ctx info) s = .next t ∧ (∀ r ∈ t.tasks, r.ctx ≠ ctx) ∧ (∀ e ∈ t.events, e.ctx ≠ ctx)
        ∧ (∀ b, (getA s b).ctx = ctx → ((∀ k, (getA s b).run ≠ .issuing k) → (getA t b).run = .off)
          ∧ ∀ k, (getA s b).run = .issuing k → (getA t b).run = .issuing k ∧ (getA t b).halt = true)
        ∧ (∀ r ∈ s.tasks, r.ctx ≠ ctx → r ∈ t.tasks)

/-! ### Tasks -/

/-- R267, R297, R301 to R303, R309, R312, R393: the command processor reads the entry at a queue's head and advances it; a
record that passes the checks is accepted as a task of the queue's context, at a priority no higher than the queue's; one
whose entry is malformed is rejected and sets the queue's status bit. A device launch takes the first record of the
device-side queue, in its issuer's context. A signal that arrives sets the event and releases its inline waiters, and the
supervisor core releases those of its list after them.
Details of the checks of a record are the model's readings (log entries 37, 48 and 49). -/
def Obligations.Submission : Prop :=
  ∀ (s : State) (k : Fin 64) (ctx : BitVec 12) (dev : DeviceLaunch) (rest : List DeviceLaunch)
    (b : Fin 32) (id : Nat) (n : BitVec 16) (tid : BitVec 32),
    let q := s.queues[k]
    let at' := q.base.toNat + 64 * q.next
    let e := bytesAt s at' 64
    let rec' := bits e 64 64
    let next : State := updQueue s k fun q => { q with head := BitVec.ofNat 12 ((q.next + 1) % 2 ^ q.order) }
    let qctx : BitVec 12 := BitVec.ofNat 12 (bits q.cfg.toNat 16 12)
    let good := e % 2 ^ 64 / 2 = 0 ∧ e / 2 ^ 128 = 0 ∧ rec' % 64 = 0 ∧ rec' < 2 ^ 48 ∧ physOk rec' = true
      ∧ poisonAt s at' 64 = false ∧ quarantinedAt s at' = false
    let r := readRecord (memoryFrom next rec')
    (queueReady s k = true →
      (good → reasonOf next qctx false r (soundAt next rec' r) = 0 →
        ∃ t r, exec (.queueEntryRead k) s = .next t ∧ t.tasks = s.tasks ++ [r] ∧ r.ctx = qctx ∧ r.queue = k.val
          ∧ r.prio ≤ bits q.cfg.toNat 28 2 ∧ r.recAddr = .phys (BitVec.ofNat 48 rec') ∧ (r.state = .waitEvents ∨ r.state = .staging)
          ∧ t.queues = next.queues)
      ∧ (¬ good → ∃ t, exec (.queueEntryRead k) s = .next t ∧ t.tasks = s.tasks ∧ t.queues[k].head = next.queues[k].head
          ∧ t.queues[k].stat.getLsbD 0 = true))
    ∧ (cpReady s = true → s.deviceQueue = dev :: rest →
      reasonOf { s with deviceQueue := rest } dev.ctx true dev.record dev.sound = 0 →
      ∃ t r, exec .deviceLaunch s = .next t ∧ t.deviceQueue = rest ∧ t.tasks = s.tasks ++ [r] ∧ r.ctx = dev.ctx
        ∧ r.prio ≤ dev.prio ∧ r.recAddr = dev.place ∧ r.record = dev.record)
    ∧ (signalFrom s ctx n = some (b, id) → (∀ e ∈ s.events, e.freed = false) →
      ∃ t, exec (.eventSignal ctx n) s = .next t ∧ signalled t ctx n = true
        ∧ getA t b = (getA s b).without id
        ∧ ∀ w, eventFind s ctx n = some w → ∀ r ∈ t.tasks, r.ctx = ctx → r.tid ∈ w.waiters → n ∉ r.waits)
    ∧ (signalFrom s ctx n = none → ∀ w, eventFind s ctx n = some w → w.leaving = [tid] →
      ∃ t, exec (.eventSignal ctx n) s = .next t ∧ ∀ r ∈ t.tasks, r.ctx = ctx → r.tid = tid → n ∉ r.waits)

/-- R12, R126, R127, R275, R283, R304, R305: a task whose working set is resident is READY and its pages are pinned; its placement
starts every member with the launch record's entry point, scalars and interval and zero counters; once every member is done the
task is gone, its arrays are at their start values, its events are signalled and status 3 stands in its record.
What a restore takes from the parked array is the model's reading (log entries 46 and 79).
R306, R308, R315, R349 to R351, R354: a pre-emption request that is due names the waiting task; a task whose deficit is
used up is asked to switch; a task whose members are parked and quiet is saved: an image of each stands in memory, chunk by
chunk, each chunk with its header, and its arrays are at their start values; a saved task goes on on its new arrays at the bundle
and with the counters that its images in memory hold; an image that does not verify ends the tasks of its context, and is
kept. Where the images are put is the model's choice (log entries 46 and 129). -/
def Obligations.TaskLife : Prop :=
  (∀ (s : State) (tid : BitVec 32) (r : Task) (l : List (Fin 32)) (p : BitVec 48), taskFind s tid = some r →
    let ends (o : Instr) (P : State → Prop) : Prop := ∃ t, exec o s = .next t ∧ P t
    (stagingReady s r = true → ends (.stagingComplete tid) fun t => taskFind t tid = some { r with state := .ready }
      ∧ ∀ e ∈ stagedPages s r, ∀ p ∈ e.2.2, p < 2 ^ 48 → ∃ n ∈ t.pins, n.onPage tid r.ctx e.1 p = true)
    ∧ (r.state = .ready → placeOk s tid l = true → ends (.taskPlacement tid l) fun t =>
      (∃ q, taskFind t tid = some q ∧ q.state = .running ∧ q.arrs = l)
      ∧ ∀ g a, l[g]? = some a →
        let y := getA t a
        y.task = tid ∧ y.ctx = r.ctx ∧ y.grpIdx = g ∧ y.group = l ∧ y.prog = r.prog ∧ y.run = .boundary
        ∧ y.due = BitVec.ofNat 64 r.record.entry ∧ y.acnt = 0 ∧ y.fcnt = 0 ∧ y.phNum = 0 ∧ y.cells = []
        ∧ y.retLeft = BitVec.ofNat 32 r.record.interval ∧ y.queue = [] ∧ y.regs.ret = [] ∧ y.regs.s[0] = 0
        ∧ (∀ k : Fin 32, k ≠ 0 → y.regs.s[k] = r.record.scalar k.val)
        ∧ (∀ k : Fin 16, y.regs.h[k] = grantedCap r k.val) ∧ (∀ k : Fin 8, y.regs.m[k] = 0xFFFFFFFFFFFFFFFF#64))
    ∧ (r.state = .running → r.arrs.all (memberDone s) = true → r.recAddr = .phys p → s.moves = [] → s.port.moves = [] →
      quarantinedAt s (p.toNat + 16) = false →
      ends (.taskCompletes tid) fun t => (∀ u ∈ t.tasks, u.tid ≠ tid) ∧ (∀ a ∈ r.arrs, getA t a = Arr.start)
        ∧ bytesAt t (p.toNat + 16) 8 = tid.toNat * 2 ^ 32 + 3
        ∧ ((∀ e ∈ s.events, e.freed = false) → ∀ n ∈ r.record.signals, signalled t r.ctx n = true)))
  ∧ (∀ (s : State) (tid waiter : BitVec 32) (r : Task) (l : List (Fin 32)) (ar : SaveArea) (place : BitVec 48) (g : Fin 4)
    (n : Nat), taskFind s tid = some r →
    let ends (o : Instr) (P : State → Prop) : Prop := ∃ t, exec o s = .next t ∧ P t
    let part (b off : Nat) := bits (bytesAt s b 4096) (8 * off) 64
    (preemptDue s tid waiter = true →
      ends (.preemptionRequest tid waiter) fun t => taskFind t tid = some { r with preempt := some waiter } ∧ t.arrs = s.arrs)
    ∧ (preemptDue s tid waiter = false → exec (.preemptionRequest tid waiter) s = .next s)
    ∧ (switchDue s r = true →
      ends (.deficitExpiry tid) fun t => taskFind t tid = some { r with switch := true } ∧ t.arrs = s.arrs)
    ∧ (saveDue s r = true → areaFree s place.toNat r.record.arrays = true → ends (.taskSave (tid, place)) fun t =>
      (∃ q, taskFind t tid = some q ∧ q.state = .saved ∧ q.arrs = [] ∧ q.record = r.record)
      ∧ (∃ x, areaOf t r = some x ∧ x.images.length = r.record.arrays ∧ ((∀ i ∈ x.images, i.hPoison = []) →
        ∀ (g : Nat) (i : Image) (k : Nat), x.images[g]? = some i → chunkWritten r g k = true →
          let at' := place.toNat + imageSpan * g + 4096 * k
          bytesAt t at' 4096 = i.chunk k % 2 ^ 32768 ∧ tableFind t.headers at' = some (i.header tid k)))
      ∧ (∀ a ∈ r.arrs, getA t a = Arr.start) ∧ t.pins = s.pins)
    ∧ (r.state = .saved → placeOk s tid l = true → areaOf s r = some ar →
      (restoreFault s r ar [] = none → ar.images.length = l.length → ar.bases.length = l.length →
        ends (.taskRestore tid l []) fun t =>
        (∃ q, taskFind t tid = some q ∧ q.state = .running ∧ q.arrs = l)
        ∧ ∀ (g : Nat) (a : Fin 32) (b : Nat), l[g]? = some a → ar.bases[g]? = some b →
          let y := getA t a
          y.task = tid ∧ y.grpIdx = g ∧ y.group = l ∧ (y.run = .boundary ∨ y.run = .ended)
          ∧ y.due.toNat = part b 456 ∧ y.acnt = part b 488 ∧ y.fcnt = part b 496
          ∧ ∀ k : Fin 32, k ≠ 0 → y.regs.s[k].toNat = part b (8 * k.val))
      ∧ (g.val < ar.images.length → g.val < ar.bases.length → chunkWritten r g.val n = true →
        ends (.taskRestore tid l [⟨g, n, false, .uncorrectable⟩]) fun t => (∀ u ∈ t.tasks, u.ctx ≠ r.ctx)
          ∧ areaOf t r = some ar
          ∧ ∀ b, (getA s b).ctx = r.ctx → (∀ k, (getA s b).run ≠ .issuing k) → (getA t b).run = .off)))

/-! ### Power and heat -/

/-- R122, R123, R316 to R318, R356, R358: a die's governor grants the leave request at the head of its order where the budget
allows it, to every array asked for, and not otherwise; a leave that has run out stands no longer; the answer to a `SPRINT`
lands in its predicate, with a lease where it is 1, and none is granted in a refreeze interval; each cluster's clock takes
the level of the highest lease that covers it; a lease whose milliseconds have passed ends with a trap to every sequencer
of its task.
The level at which the budget counts an array is the model's reading (log entry 44). -/
def Obligations.LeaveAndLeases : Prop :=
  ∀ (s : State) (d : Fin 4) (a : Fin 32) (r : LeaveReq) (pd : Fin 8) (level : BitVec 2) (ms : BitVec 14) (tid : BitVec 32)
    (due first : Nat) (asks : List SprintAsk)
    (l : Lease) (k : Task),
    let x := getA s a
    (nextRequest s d = some r → governorReady s = true → (budgetAlone s r).holds = true →
      ((budgetWith s r d).holds = true → (∀ b ∈ r.arrs, dieOf b = d) →
        ∃ t, exec (.leaveGrant d) s = .next t
          ∧ (∀ b ∈ r.arrs, (getA t b).leaveClass = r.cls ∧ (getA t b).leaveLeft = r.cycles)
          ∧ (∀ q ∈ t.power.requests, q.number ≠ r.number) ∧ ∀ b, b ∉ r.arrs → getA t b = getA s b)
      ∧ ((budgetWith s r d).holds = false → exec (.leaveGrant d) s = .next s))
    ∧ (x.leaveLeft = 0 → ∃ t, exec (.leaveExpiry a) s = .next t ∧ getA t a = { x with leaveClass := 0 })
    ∧ (x.leaveLeft ≠ 0 → exec (.leaveExpiry a) s = .next s)
    ∧ (x.sprints = ⟨pd, level, ms, due, first⟩ :: asks → pd ≠ 0 →
      let lease : Lease := ⟨x.task, sprintClusters s a, level, s.ptime, ms.toNat⟩
      ∃ t, exec (.sprintAnswer a) s = .next t ∧ (getA t a).sprints = asks
        ∧ (getA t a).regs = { x.regs with p := x.regs.p.set pd (sprintOk s a lease) }
        ∧ (sprintOk s a lease = true → t.power.leases = s.power.leases.filter (fun m => m.tid ≠ x.task) ++ [lease])
        ∧ (sprintOk s a lease = false → t.power = s.power)
        ∧ (s.power.refreeze.isSome = true → (getA t a).regs.p[pd] = false))
    ∧ (∃ t, exec .clockLevelChange s = .next t
      ∧ (∀ (c : Fin 8) (m : Lease), m ∈ s.power.leases → c ∈ m.clusters → m.level.toNat ≤ t.clusters[c].level.toNat)
      ∧ (∀ c : Fin 8, (∃ m ∈ s.power.leases, c ∈ m.clusters) →
        ∃ m ∈ s.power.leases, c ∈ m.clusters ∧ t.clusters[c].level = m.level)
      ∧ (∀ c : Fin 8, (∀ m ∈ s.power.leases, c ∉ m.clusters) → t.clusters[c].level = 0) ∧ t.arrs = s.arrs ∧ t.mem = s.mem)
    ∧ (leaseOf s tid = some l → taskFind s tid = some k → l.tid = tid →
      (l.start + l.ms * 1000000 ≤ s.ptime → ∃ t, exec (.bellowsLeaseExpiry tid) s = .next t
        ∧ (∀ m ∈ t.power.leases, m.tid ≠ tid)
        ∧ (∀ b ∈ k.arrs, (getA s b).run ≠ .off → ∃ u ∈ (getA t b).traps, u.cause = .leaseExpiry))
      ∧ (s.ptime < l.start + l.ms * 1000000 → exec (.bellowsLeaseExpiry tid) s = .next s))

/-- R355, R357, R360, R392, R395, R401: `MELT` moves with the package power above or below 2,000 W, and stops at 0 and at 1,023; at
1,000, at a hot lid sensor
or at a low coolant flow the refreeze interval begins and no lease stands; it ends once `MELT` is at the threshold,
20 s have passed and nothing forces it; a rail alarm or a hot junction lowers the die's ceiling, never below 544 A, a hot junction
by an ampere at least; at 120 °C power is removed and the host's link goes down. Each alarm sets its bit and raises vector 66.
That `MELT` keeps the part of a unit not yet counted, and that a ceiling only falls, are the model's readings (log entry 44). -/
def Obligations.HeatAndAlarms : Prop :=
  ∀ (s : State) (watts : Nat) (corr : Int) (d : Fin 4) (ceiling amps dl : Nat) (k : Fin 8) (celsius : Nat),
    let acc := s.power.meltAcc + ((watts : Int) - 2000) * 100
    let m := (s.power.melt.toNat : Int) + acc / 50781250 + max (-8) (min 8 corr)
    let alarms (t : State) (bit : Nat) : Prop := t.alarm.getLsbD bit = true ∧ 66 ∈ t.msix
    let frozen (t : State) : Prop := t.power.refreeze.isSome = true
      ∧ (s.power.refreeze = none → t.power.leases = [] ∧ t.power.refreeze = some s.ptime)
    let lowered (t : State) (c : Nat) : Prop := t.power.ceil[d] = max 544 (min s.power.ceil[d] c)
    (0 ≤ m → m < 1000 → ∃ t, exec (.meltUpdate watts corr) s = .next t ∧ (t.power.melt.toNat : Int) = m
      ∧ t.power.meltAcc = acc % 50781250 ∧ t.power.leases = s.power.leases)
    ∧ (1000 ≤ m → m ≤ 1023 → ∃ t, exec (.meltUpdate watts corr) s = .next t ∧ (t.power.melt.toNat : Int) = m ∧ frozen t)
    ∧ (m < 0 → ∃ t, exec (.meltUpdate watts corr) s = .next t ∧ t.power.melt = 0 ∧ t.power.leases = s.power.leases)
    ∧ (1023 < m → ∃ t, exec (.meltUpdate watts corr) s = .next t ∧ t.power.melt = 1023 ∧ frozen t)
    ∧ (∀ since, s.power.refreeze = some since →
      let ends := s.power.melt.toNat ≤ s.refthr.toNat ∧ since + 20 * 10 ^ 9 ≤ s.ptime ∧ (∀ j : Fin 8, s.power.lid[j] < 75)
        ∧ 25 ≤ s.power.flow
      (ends → exec .refreezeEnd s = .next { s with power := { s.power with refreeze := none } })
      ∧ (¬ ends → exec .refreezeEnd s = .next s))
    ∧ (∃ t, exec (.railAlarm d (ceiling, amps)) s = .next t ∧ alarms t 0 ∧ lowered t ceiling ∧ t.power.current[d] = amps)
    ∧ (dl < 25 → ∃ t, exec (.coolantFlowAlarm dl) s = .next t ∧ alarms t 2 ∧ t.power.flow = dl ∧ frozen t)
    ∧ (25 ≤ dl → exec (.coolantFlowAlarm dl) s = .next { s with power := { s.power with flow := dl } })
    ∧ (75 ≤ celsius → ∃ t, exec (.lidSensorAlarm k celsius) s = .next t ∧ alarms t 1 ∧ t.power.lid[k] = celsius ∧ frozen t)
    ∧ (celsius < 75 → ∃ t, exec (.lidSensorAlarm k celsius) s = .next t ∧ t.power.lid[k] = celsius ∧ t.alarm = s.alarm
      ∧ t.power.refreeze = s.power.refreeze)
    ∧ (celsius < 105 → exec (.junctionAlarm d celsius ceiling) s = .next s)
    ∧ (105 ≤ celsius → ∃ t, exec (.junctionAlarm d celsius ceiling) s = .next t ∧ alarms t 3
      ∧ lowered t (min ceiling (s.power.ceil[d] - 1)) ∧ (celsius < 120 → t.powered = s.powered ∧ t.ready = s.ready)
      ∧ (120 ≤ celsius → t.powered = false ∧ ∀ j : Fin 8, t.ready.getLsbD (48 + j.val) = false))

/-! ### Domain barriers -/

/-- R314, R315: at its home a domain barrier counts each package's arrival once in a phase; the last one with no absence held
completes it; an absence token holds it open, and the presence token lets it complete; a drop lowers the count of later
phases once for each package; a completion ends the local object's phase; an overdue phase is reported and stays open. A
home that holds no entry yet begins one with the first message, under the count that it carries (log entry 92).
That a package has one entry for each barrier is the model's reading (log entry 43). -/
def Obligations.DomainBarriers : Prop :=
  ∀ (s : State) (d : DomainBarrier) (pkg : BitVec 10) (k : Fin 8 × Fin 256) (n : BitVec 11),
    let becomes (i : Instr) (d' : DomainBarrier) : Prop := exec i s = .next { s with domain := [d'] }
    let arrive := Instr.domainBarrierArrival d.id (pkg, n)
    (s.domain = [] → pkg ≠ s.pkgnum → 2 ≤ n.toNat → ∃ t e, exec arrive s = .next t ∧ t.domain = [e] ∧ e.id = d.id
      ∧ e.home = s.pkgnum ∧ e.arrived = [pkg] ∧ e.expected = n.toNat ∧ e.completing = false)
    ∧ (s.domain = [d] → d.home = s.pkgnum → (pkg ≠ s.pkgnum → pkg ∉ d.arrived → d.expected ≠ 0 →
      (d.arrived.length + 1 < d.expected → becomes arrive { d with arrived := d.arrived ++ [pkg] })
      ∧ (d.arrived.length + 1 = d.expected → d.absent = [] →
        becomes arrive { d with arrived := [], expected := d.nextExpected, completing := true, since := s.ptime })
      ∧ (d.absent ≠ [] → becomes arrive { d with arrived := d.arrived ++ [pkg] }))
    ∧ (pkg ∈ d.arrived → exec arrive s = .next s)
    ∧ (pkg ≠ s.pkgnum → pkg ∉ d.absent → becomes (.absenceToken d.id pkg) { d with absent := d.absent ++ [pkg] })
    ∧ (pkg ≠ s.pkgnum → d.absent = [pkg] →
      (d.arrived.length < d.expected → becomes (.presenceToken d.id pkg) { d with absent := [], since := s.ptime })
      ∧ (d.arrived.length = d.expected → d.expected ≠ 0 → becomes (.presenceToken d.id pkg)
        { d with absent := [], arrived := [], expected := d.nextExpected, completing := true, since := s.ptime }))
    ∧ (pkg ≠ s.pkgnum → pkg ∉ d.dropped → becomes (.domainBarrierPackageDrop d.id pkg)
      { d with dropped := d.dropped ++ [pkg], nextExpected := d.nextExpected - 1 })
    ∧ (pkg ∈ d.dropped → exec (.domainBarrierPackageDrop d.id pkg) s = .next s)
    ∧ (localOf s d = some (k.1, k.2.val) → d.completing = true →
      let o := s.clusters[k.1].barriers[k.2]
      o.sent = true → ∃ t, exec (.domainBarrierCompletion d.id) s = .next t ∧ t.domain = [{ d with completing := false }]
        ∧ t.clusters[k.1].barriers[k.2] = { o with ph := o.ph + 1, arr := 0, exp := o.next, tx := 0, sent := false })
    ∧ (d.timeout ≠ 0 → d.absent = [] →
      (d.since + 1000 * d.timeout.toNat ≤ s.ptime → ∃ t, exec (.domainBarrierTimeout d.id) s = .next t
        ∧ t.alarm.getLsbD 4 = true ∧ 66 ∈ t.msix ∧ t.domain = [{ d with since := s.ptime }])
      ∧ (s.ptime < d.since + 1000 * d.timeout.toNat → exec (.domainBarrierTimeout d.id) s = .next s)))

/-! ### Reductions and accesses across packages -/

/-- R274, R364 to R368: the switch holds a verified contribution of a member for the round that collects; a landing port
that verifies a result acknowledges it, and one that finds a mismatch asks again and reports, the third time for a poisoned
result; a round closes once every landing port has acknowledged, and not before; a report that the command processor writes is a
record of 64 bytes in the fault ring of its context, with vector 64, and a re-runnable producer that runs is placed again; a store
of another package is performed where the link port's table holds its object, or else where its domain context names a context
here, and one that meets neither, or that is for another package, has no effect.
The headers of contributions, the third mismatch of a port and the action for a task that waits are the model's readings (log
entries 51, 52 and 90). -/
def Obligations.PackageLinks : Prop :=
  ∀ (s t : State) (g : RedGroup) (c : Contribution) (r : SentResult) (v : BitVec 32768) (ctx : BitVec 12) (obj : BitVec 24)
    (k : Nat) (a : RemoteAccess) (w : BitVec 256) (poisoned : Bool) (p : Nat) (slips : Fin 3) (pkg : BitVec 10) (home u : State)
    (q : Report) (x : Context) (tk : Task) (place : Target),
    let n := 2 ^ a.size.val
    (s.groups = [g] → c.pkg ≠ s.pkgnum → c.chunk < g.chunks → (∃ m ∈ g.members, m.1 = c.pkg) →
      c.poisoned = true ∨ touchmark 16 c.payload.toNat = c.mark → g.sent = [] → (∀ d ∈ g.open', d.pkg ≠ c.pkg) →
      (∃ m ∈ g.members, m.1 ≠ c.pkg ∧ ∀ d ∈ g.open', d.pkg ≠ m.1) →
      ∃ t g' c', exec (.switchIngressVerify g.number (c, slips)) s = .next t ∧ t.groups = [g'] ∧ g'.open' = g.open' ++ [c']
        ∧ (c.poisoned = true → c' = c)
        ∧ (c.poisoned = false → c' = { c with
          hopCount := nextHop c.hopCount, lastHop := switchHop g.plane c.pkg }) ∧ t.mem = s.mem)
    ∧ (s.groups = [g] → g.sent = [r] → memberHere s g = some (ctx, obj) → s.pkgnum ∉ r.acks → s.ports[g.plane].up = true →
      let ev := Instr.landingPortVerify g.number (r.chunk, s.pkgnum) v
      (r.poisoned = false → touchmark 16 v.toNat ≠ r.mark → ∃ t g' q, exec ev s = .next t ∧ t.groups = [g'] ∧ g'.sent = [q]
        ∧ q.resends = r.resends + 1 ∧ (q.poisoned = true ↔ 2 ≤ r.resends) ∧ t.reports.length = s.reports.length + 1)
      ∧ (r.poisoned = true ∨ touchmark 16 v.toNat = r.mark → (∃ e, objFind s ctx obj = some e) →
        (∀ (cl : Fin 8) (tc : Fin 16), s.clusters[cl].tongs[tc].active = none) →
        ∃ t g' q, exec ev s = .next t ∧ t.groups = [g'] ∧ g'.sent = [q] ∧ s.pkgnum ∈ q.acks))
    ∧ (s.groups = [g] → g.sent = [r] → pkg ≠ s.pkgnum → (∃ m ∈ g.members, m.1 = pkg) →
      ∃ t g' q, exec (.landingPortVerify g.number (r.chunk, pkg) v) s = .next t ∧ t.groups = [g'] ∧ g'.sent = [q] ∧ pkg ∈ q.acks
        ∧ q = { r with acks := q.acks })
    ∧ (s.groups = [g] → g.sent = [r] → (∃ m ∈ g.members, m.1 ∉ r.acks) → exec (.roundClose g.number (r.chunk, slips)) s = .next s)
    ∧ (s.groups = [g] → g.sent = [r] → (∀ m ∈ g.members, m.1 ∈ r.acks) → g.open' = [] → g.next = [] → g.members ≠ [] →
      ∃ t g', exec (.roundClose g.number (r.chunk, slips)) s = .next t ∧ t.groups = [g'] ∧ g'.sent = [])
    ∧ (cpReady s = true → s.reports[k]? = some q →
      let due := (q.kind = 1 ∨ q.kind = 4) ∧ q.producer ≠ 0 ∧ q.producer ≠ 0xFFFFFFFF ∧ taskFind s q.producer = some tk
        ∧ (tk.state = .running ∨ tk.state = .saved)
      let again := tk.record.rerunnable = true ∧ tk.reruns < 3
      let idle := ∀ (cl : Fin 8) (tc : Fin 16), s.clusters[cl].tongs[tc].active = none
      ∃ t, exec (.touchmarkReport k) s = .next t ∧ t.reports = s.reports.eraseIdx k
        ∧ (tableFind s.contexts q.ctx.toNat = some x → x.enable = true → x.entries ≠ 0 → s.moves = [] → s.port.moves = [] →
          let at' := x.ring.toNat + 64 * (x.written % x.entries.toNat)
          quarantinedAt s at' = false → quarantinedAt s (at' + 32) = false →
          (∃ c, tableFind t.contexts q.ctx.toNat = some c ∧ c.written = x.written + 1) ∧ 64 ∈ t.msix
          ∧ ∀ action, (action = 0 ∧ q.kind ≠ 1 ∧ q.kind ≠ 4) ∨ (action = 2 ∧ due ∧ ¬ again) →
            bytesAt t at' 32 = 2 + q.kind.toNat * 2 ^ 16 + q.producer.toNat * 2 ^ 32 + s.ptime % 2 ^ 64 * 2 ^ 64
              + q.chunkId.toNat * 2 ^ 128 + (q.detector.toNat + q.lastHop.toNat * 2 ^ 16 + q.hops.toNat * 2 ^ 32
                + q.format.toNat * 2 ^ 40 + action * 2 ^ 48) * 2 ^ 192
            ∧ bytesAt t (at' + 32) 32 = q.expected.toNat + q.observed.toNat * 2 ^ 64 ∧ t.tasks = s.tasks)
        ∧ (due → again → idle → ∃ tk', taskFind t q.producer = some tk' ∧ tk'.state = .staging ∧ tk'.arrs = []
          ∧ tk'.reruns = tk.reruns + 1))
    ∧ (let held := (tableFind s.port.objs (objKey a.domainCtx a.obj)).isSome
      (a.op = .store w poisoned → a.dest = s.pkgnum → a.mismatches = 0 → a.offset.toNat % n = 0 →
        (∃ q : Fin 16, s.ports[q].up = true) →
        (held = true ∧ home = swapPort s ∧ ctx = a.domainCtx
          ∨ held = false ∧ home = s ∧ domainContext s a.domainCtx = some ctx) →
        holdRemote home ctx a = none → bytesServed home ctx a.obj a.offset.toNat n = true →
        locate home ctx a.obj a.offset.toNat n (remoteNeed a) true = (u, place) → (∃ p' m, place = .phys p' m) →
        locate (bump home) ctx a.obj a.offset.toNat n (remoteNeed a) true = (t, .phys p none) →
        bankRefuses t p = none → quarantinedAt t p = false →
        ∃ u, exec (.remoteAccessArrives a) s = .next u ∧ bytesAt u p n = w.toNat % 2 ^ (8 * n)
          ∧ ∀ z, z < p ∨ p + n ≤ z → Memory.read u.mem z = Memory.read t.mem z)
      ∧ (a.dest ≠ s.pkgnum ∨ held = false ∧ domainContext s a.domainCtx = none →
        exec (.remoteAccessArrives a) s = .next s))

/-! ### The host -/

/-- R309, R391 to R394, R397: the host's accesses, where its link is up and none waits at the port: 64 bytes of memory through an
object of context 4,095, with a poison response where there is none, and of the host's own memory; reads of the register block;
a queue's tail and its configuration, which an enabled queue keeps but for a clear of enable; an event, an alarm cleared by ones,
a port that goes down with its bit, and the registers that store what is written.
Which object a host access is made through, and the reserved bits of the queue registers, are the model's readings
(log entries 59 to 61). The list of answers `hostReads`, and that the host's own memory is an argument of the event, are its
choices (log entry 103).
R262, R286, R391: a host access that crosses the port while an earlier one waits to be sent again waits behind it: nothing
but the port's queue changes. With no UCIe module in service none crosses. -/
def Obligations.HostWrites : Prop :=
  (∀ (s t u w' : State) (off : BitVec 40) (v : BitVec 512) (obj : BitVec 24) (o p z lo hi : Nat) (b c : Bool) (q : Fin 64)
    (w : BitVec 64) (e : BitVec 32) (port : Fin 16) (bank : BitVec 4),
    s.hostPort = [] → hostLinkUp s = true →
    (hostObject s (off.toNat / 64 * 64) Right.write = some (obj, o) →
      locate s 4095 obj o 32 [Right.write] true = (t, .phys p none) → bankRefuses t p = none → quarantinedAt t p = false →
      (writeObj s 4095 obj o 32 [Right.write] (v.toNat % 2 ^ 256) false 0).1 = u →
      locate u 4095 obj (o + 32) 32 [Right.write] true = (w', .phys z none) → bankRefuses w' z = none →
      quarantinedAt w' z = false → p + 32 ≤ z ∨ z + 32 ≤ p → bytesServed s 4095 obj o 64 = true →
      ∃ r, exec (.hostCxlMemAccess (.hbm off, 0, .clean) (some v)) s = .next r ∧ bytesAt r p 32 = v.toNat % 2 ^ 256
        ∧ bytesAt r z 32 = v.toNat / 2 ^ 256)
    ∧ (hostObject s (off.toNat / 64 * 64) Right.read = some (obj, o) →
      bytesServed s 4095 obj o 64 = true → readObj s 4095 obj o 32 [Right.read] = (t, .value lo b) → readObj t 4095 obj (o + 32) 32 [Right.read] = (u, .value hi c) →
      exec (.hostCxlMemAccess (.hbm off, 0, .clean) none) s
        = .next { t with hostReads := (BitVec.ofNat 512 (lo + hi * 2 ^ 256), b || c) :: t.hostReads })
    ∧ (hostObject s (off.toNat / 64 * 64) Right.read = none →
      exec (.hostCxlMemAccess (.hbm off, 0, .clean) none) s = .next { s with hostReads := (0, true) :: s.hostReads })
    ∧ (let a := 2 ^ 44 + bank.toNat * 2 ^ 40 + off.toNat / 64 * 64
      ∃ r, exec (.hostCxlMemAccess (.behind bank off, 0, .clean) (some v)) s = .next r ∧ bytesAt r a 32 = v.toNat % 2 ^ 256
        ∧ bytesAt r (a + 32) 32 = v.toNat / 2 ^ 256)
    ∧ (let reads (reg : BitVec 20) (v : BitVec 64) : Prop := exec (.hostCxlMemAccess (.register reg, 0, .clean) none) s
        = .next { s with hostReads := (v.setWidth 512, false) :: s.hostReads }
      reads 0x100 s.ready ∧ reads 0x108 s.readyFail ∧ reads 0x200 (s.refthr.setWidth 64) ∧ reads 0x208 (s.alarm.setWidth 64)
      ∧ reads 0x210 (s.pkgnum.setWidth 64) ∧ reads 0x218 (s.linken.setWidth 64) ∧ reads 0x1048 s.mgmtStatus ∧ reads 0x40000 0)
    ∧ (let x := s.queues[q]
      let keeps (t : State) : Prop := t = { s with queues := t.queues } ∧ ∀ j : Fin 64, j ≠ q → t.queues[j] = s.queues[j]
      (∃ t, exec (.qtailWrite q w) s = .next t ∧ keeps t ∧ t.queues[q] = { x with tail := w.setWidth 12 })
      ∧ (x.cfg.getLsbD 31 = true → ∃ t, exec (.qcfgWrite q w) s = .next t ∧ keeps t
        ∧ (w.getLsbD 31 = false → t.queues[q] = { x with cfg := x.cfg &&& 0x7FFFFFFF })
        ∧ (w.getLsbD 31 = true → t.queues[q] = { x with stat := x.stat ||| 2 }))
      ∧ (x.cfg.getLsbD 31 = false → ∃ t, exec (.qcfgWrite q w) s = .next t ∧ keeps t
        ∧ (w.getLsbD 31 = true → 13 ≤ w.toNat % 16 → t.queues[q] = { x with stat := x.stat ||| 4 })
        ∧ (w.getLsbD 31 = false ∨ w.toNat % 16 ≤ 12 → (t.queues[q]).cfg = w.setWidth 32 &&& 0xBFFF000F)))
    ∧ ((∀ x ∈ s.events, x.freed = false) → ∃ t, exec (.evsigWrite e) s = .next t
      ∧ signalled t (BitVec.ofNat 12 (e.toNat / 2 ^ 16)) (BitVec.ofNat 16 e.toNat) = true)
    ∧ exec (.alarmWrite e) s = .next { s with alarm := s.alarm &&& ~~~e }
    ∧ (∃ t, exec (.linkenWrite e) s = .next t ∧ t.linken = e.setWidth 16
      ∧ (s.linken.getLsbD port.val = true → e.getLsbD port.val = false → t.ports[port].up = false)
      ∧ (s.linken.getLsbD port.val = false ∨ e.getLsbD port.val = true → t.ports[port].up = s.ports[port].up))
    ∧ (w.toNat % 2 ^ 10 ≤ 999 → exec (.registerWrite 0x200 w) s = .next { s with refthr := w.setWidth 10 })
    ∧ (999 < w.toNat % 2 ^ 10 → exec (.registerWrite 0x200 w) s = .next s)
    ∧ (s.linken = 0 → exec (.registerWrite 0x210 w) s = .next { s with pkgnum := w.setWidth 10 })
    ∧ (s.linken ≠ 0 → exec (.registerWrite 0x210 w) s = .next s))
  ∧ (∀ (s : State) (x : HostAccess) (rest : List HostAccess) (off : BitVec 40) (write : Option (BitVec 512)) (e : BitVec 32)
    (w : BitVec 64) (reg : BitVec 20) (q : Fin 64),
    let line : Instr := .hostCxlMemAccess (.hbm off, 0, .clean) write
    let after (y : HostAccess) : State := { s with hostPort := x :: rest ++ [y] }
    (s.hostPort = x :: rest → hostLinkUp s = true →
      exec line s = .next (after (.line off write 0 .clean))
      ∧ exec (.registerWrite reg w) s = .next (after (.register reg (some w)))
      ∧ exec (.hostCxlMemAccess (.register reg, 0, .clean) none) s = .next (after (.register reg none))
      ∧ exec (.alarmWrite e) s = .next (after (.register 0x208 (some (e.setWidth 64))))
      ∧ exec (.evsigWrite e) s = .next (after (.register 0x40000 (some (e.setWidth 64)))))
    ∧ (hostLinkUp s = false → exec line s = .next s ∧ exec (.registerWrite reg w) s = .next s
      ∧ exec (.alarmWrite e) s = .next s ∧ exec (.evsigWrite e) s = .next s ∧ exec (.linkenWrite e) s = .next s
      ∧ exec (.qtailWrite q w) s = .next s ∧ exec (.qcfgWrite q w) s = .next s))

/-- R267, R268, R309, R362, R395, R400: a management command that is due and well formed has its effect, and completes with
result 0 and vector 65; a code that is not assigned completes with result 1. An attestation asks that the security root is in
service.
That an object whose headers the quota does not hold completes with result 2, the byte places of the operands for all codes but
7, and what destroying does to the host's entry, are the model's readings (log entries 106, 57 and 58). -/
def Obligations.ManagementCommands : Prop :=
  ∀ (s : State) (code : Nat),
    let arg (k n : Nat) := s.command.toNat / 2 ^ (8 * k) % 2 ^ (8 * n)
    let ctx : BitVec 12 := BitVec.ofNat 12 (arg 8 8)
    let done (i : Instr) (result : Nat) (P : State → Prop) : Prop := ∃ t, exec i s = .next t ∧ t.mgmtStatus.toNat % 2 ^ 16
      = result * 2 ^ 8 ∧ 65 ∈ t.msix ∧ P t
    cpReady s = true → s.mgmtStatus.getLsbD 0 = true → arg 0 1 = code →
    (code = 1 → arg 8 8 < 4096 → hostEntryOk s (BitVec.ofNat 256 (arg 16 32)) = true → s.command.getLsbD 8 = false →
      (hostQuotaOk s ctx (BitVec.ofNat 256 (arg 16 32)) = true → (usedIds s ctx).length < 2 ^ 24 →
        done .createObject 0 fun t => ∃ e, objFind t ctx (BitVec.ofNat 24 (t.mgmtStatus.toNat / 2 ^ 16)) = some e ∧ e.host = true
          ∧ e.kind = arg 16 32 % 16 ∧ e.size = arg 36 6)
      ∧ (hostQuotaOk s ctx (BitVec.ofNat 256 (arg 16 32)) = false →
        done .createObject 2 fun t => t.objs = s.objs))
    ∧ (code = 2 → arg 8 8 < 4096 → arg 16 8 < 2 ^ 24 → (objFind s ctx (BitVec.ofNat 24 (arg 16 8))).isSome = true →
      done .destroyObject 0 fun t => objFind t ctx (BitVec.ofNat 24 (arg 16 8)) = none)
    ∧ (code = 3 → arg 8 8 < 4096 → arg 16 8 < 2 ^ 16 →
      done .freeEvent 0 fun t => signalled t ctx (BitVec.ofNat 16 (arg 16 8)) = false)
    ∧ (code = 4 → arg 11 1 < 16 → 1 ≤ arg 20 4 → arg 20 4 ≤ 2 ^ 24 → 2 ≤ arg 24 2 → arg 24 2 ≤ 1024 → arg 32 8 < 2 ^ 48 →
      physOk (arg 32 8) = true → groupFind s (BitVec.ofNat 24 (arg 8 3)) = none →
      let ms := readMembers s (arg 32 8) (arg 24 2)
      distinct (ms.map fun m => m.1.toNat) = true → (∀ m ∈ ms, landingOk s (arg 20 4) m = true) →
      done .registerReductionGroup 0 fun t => ∃ g, groupFind t (BitVec.ofNat 24 (arg 8 3)) = some g ∧ g.members = ms
        ∧ g.chunks = arg 20 4 ∧ g.plane.val = arg 11 1 ∧ g.tensor.toNat = arg 12 5)
    ∧ (code = 5 → arg 8 8 < 2 ^ 24 → (groupFind s (BitVec.ofNat 24 (arg 8 8))).isSome = true →
      done .releaseReductionGroup 0 fun t => groupFind t (BitVec.ofNat 24 (arg 8 8)) = none)
    ∧ (code = 7 → inService s 47 = true → arg 40 8 < 2 ^ 45 → arg 40 8 % 64 = 0 → physOk (arg 40 8) = true → physOk (arg 40 8 + 511) = true →
      s.fills = [] → s.moves = [] → s.port.moves = [] →
      (∀ k, k < 512 → quarantinedAt s (arg 40 8 + k) = false) →
      done .attest 0 fun t => bytesAt t (arg 40 8) 32 = arg 8 32
        ∧ bytesAt t (arg 40 8 + 32) 32 = s.measurement.toNat ∧ bytesAt t (arg 40 8 + 64) 8 = s.ready.toNat)
    ∧ (code = 0 ∨ code = 6 ∨ 8 ≤ code → done .badCommand 1 fun t => t.objs = s.objs ∧ t.groups = s.groups)

/-- R321, R383, R384, R387 to R389, R391, R396 to R399: scrubbing enters the halves of a sector that cannot be corrected, and
a header that it finds in error is lost; a row's activations are counted, and each 512 bring a refresh management; an alert
back-off issues the 8 refreshes a bank owes; a row-remap table is restored by its mirror, or loses its pseudo-channel, and an
entry changes once its mirror verifies; a flit is replayed, and one that is through ends its replays and takes its packet on; the
16th replay takes its port down, with its bits of `READY` and `READYFAIL`, and what it holds stays with some port; stop and go; a
UCIe module that fails is out of service; reset keeps memory; a function that may serve comes into service.
That package reset keeps memory and poison and clears the tables (log entry 12), that it leaves the security root alone in service
(log entry 14), which functions a failure keeps out of service (log entry 55) and that activations, postponed refreshes and remap
entries are arguments of the events (log entry 102) are the model's choices. -/
def Obligations.HardwareEvents : Prop :=
  ∀ (s : State) (k : Fin 16) (sector bank row pc acts late key n v : Nat) (hd : Header) (bad : BitVec 2) (port : Fin 16) (vc : Fin 6) (free : Nat) (m : Fin 8)
    (bit : Fin 64),
    let x := s.stackCtl[k]
    let link := s.ports[port]
    let down (t : State) : Prop := t.ports[port].up = false ∧ t.ports[port].replays = 0
      ∧ (∀ (q : Fin 16), ∀ k ∈ s.ports[q].packets, ∃ q' : Fin 16, k ∈ t.ports[q'].packets) ∧ t.ready.getLsbD (24 + port.val) = false
      ∧ t.readyFail.getLsbD (24 + port.val) = true
    (sector < 2 ^ 30 → ∃ t, exec (.patrolScrub k sector (bad, none)) s = .next t ∧ t.mem = s.mem ∧ (bad = 0 → t = s)
      ∧ ∀ h : Fin 2, bad.getLsbD h.val = true → 2 * (k.val * 2 ^ 30 + sector) + h.val ∈ t.poison
        ∨ (k.val * 2 ^ 30 + sector) / 1024 ∈ t.toQuarantine)
    ∧ (tableFind s.headers key = some hd →
      exec (.patrolScrub k sector (0, some key)) s = .next { s with headers := tableSet s.headers key { hd with lost := true } })
    ∧ (let row' := 2 ^ 32 * bank + row
      let count := tableGet s.stackCtl[k].activations row' 0 + acts
      ∃ t, exec (.refreshManagement k bank (row, acts)) s = .next t ∧ tableGet t.stackCtl[k].activations row' 0 = count % 512
      ∧ t.stackCtl[k].refreshes = s.stackCtl[k].refreshes + count / 512 ∧ t = { s with stackCtl := t.stackCtl })
    ∧ (let owed := tableGet s.stackCtl[k].postponed bank 0 + late
      ∃ t, exec (.alertBackOff k (bank, late)) s = .next t ∧ t = { s with stackCtl := t.stackCtl }
      ∧ (8 ≤ owed → tableFind t.stackCtl[k].postponed bank = none ∧ t.stackCtl[k].refreshes = s.stackCtl[k].refreshes + 9)
      ∧ (owed < 8 → tableFind t.stackCtl[k].postponed bank = some owed
        ∧ t.stackCtl[k].refreshes = s.stackCtl[k].refreshes + 1))
    ∧ ((∀ e ∈ x.mirror, x.mirrorOk x.mirror (e.1 / mirrorEntries) = true) → ∃ t, exec (.remapTableError k pc ([], none)) s = .next t ∧ t = { s with stackCtl := t.stackCtl }
      ∧ t.stackCtl[k] = { x with remap := x.mirror })
    ∧ (s.objs = [] → s.port.objs = [] →
      x.mirrorOk (tableSet x.mirror n (v % 2 ^ 64)) (n / mirrorEntries) = false →
      ∃ t, exec (.remapTableError k pc ([(n, v)], none)) s = .next t ∧ pc ∈ t.stackCtl[k].dead
        ∧ t.stackCtl[k].remap = x.remap)
    ∧ (supervisorReady s = true → ∃ t, exec (.remapTableError k pc ([], some (n, v))) s = .next t
      ∧ tableFind t.stackCtl[k].remap n = some (v % 2 ^ 64) ∧ tableFind t.stackCtl[k].mirror n = some (v % 2 ^ 64)
      ∧ t = { s with stackCtl := t.stackCtl })
    ∧ (let y := x.writeMirror n v
      supervisorReady s = true → y.mirrorOk (tableSet y.mirror row (late % 2 ^ 64)) (n / mirrorEntries) = false →
      ∃ t, exec (.remapTableError k pc ([(row, late)], some (n, v))) s = .next t ∧ t.stackCtl[k].remap = x.remap)
    ∧ (link.up = true →
      (link.replays < 15 → exec (.flitCrcFail (port, true)) s
        = .next { s with ports := s.ports.set port { link with replays := link.replays + 1 } })
      ∧ (15 ≤ link.replays → ∃ t, exec (.flitCrcFail (port, true)) s = .next t ∧ down t)
      ∧ (∃ t, exec (.flitCrcFail (port, false)) s = .next t ∧ t = { s with ports := t.ports } ∧ t.ports[port].replays = 0
        ∧ ∀ (pk : Packet) (rest : List Packet), link.packets = pk :: rest →
          (link.through < pk.payload.length → t.ports[port].through = link.through + 1 ∧ t.ports[port].packets = link.packets)
          ∧ (pk.payload.length ≤ link.through → t.ports[port].through = 0 ∧ t.ports[port].packets = rest))
      ∧ ∃ t, exec (.portDown port) s = .next t ∧ down t)
    ∧ (∃ t, exec (.routerStop sector vc free) s = .next t ∧ t = { s with stops := t.stops }
      ∧ ((sector, vc) ∈ t.stops ↔ free ≤ 4) ∧ ∀ e, e ≠ (sector, vc) → (e ∈ t.stops ↔ e ∈ s.stops))
    ∧ (∃ t, exec (.ucieTrainingFail m) s = .next t ∧ t.ucie.getLsbD m.val = false
      ∧ t.ready.getLsbD (48 + m.val) = false ∧ t.readyFail.getLsbD (48 + m.val) = true)
    ∧ (∃ t, exec (.packageReset []) s = .next t ∧ t.ready = BitVec.ofNat 64 (2 ^ 47) ∧ t.refthr = 256
      ∧ t.mem = s.mem ∧ t.poison = s.poison ∧ t.arrs = State.reset.arrs ∧ t.tasks = [] ∧ t.objs = [] ∧ t.contexts = []
      ∧ t.queues = State.reset.queues ∧ t.alarm = 32 ∧ t.ptime = 0)
    ∧ (bit.val < 56 → mayServe s bit = true → ∃ t, exec (.functionReady bit true false) s = .next t
      ∧ t.ready.getLsbD bit.val = true ∧ t.readyFail.getLsbD bit.val = false
      ∧ ∀ j : Fin 64, j ≠ bit → t.ready.getLsbD j.val = s.ready.getLsbD j.val)

/-! ### Chains -/

/-- R34, R212, R217, R218, R223, R231: on the head of a chain an `FDN` form acts on the head's north feeder alone; an `FDW` or
`EDGE` form acts on every array of the chain, on array g at a cycle later by the link delays, 4g, and a row of array g is
captured 64g rows further on; `SC.CHAIN` sets the chain's collector. -/
def Obligations.ChainForms : Prop :=
  ∀ (s : State) (p : Fin 8) (a : Fin 32) (k : BitVec 8) (f : Fmt) (low on : Bool) (n : Fin 16), s.lets p →
    let x := curA s
    let num := (x.rs a).setWidth 16
    x.kind = .chain → s.cur ∈ x.group → x.grpIdx = 0 → x.group.Nodup →
    (∀ b ∈ x.group, b ≠ s.cur → (getA s b).kind = .chain ∧ 0 < (getA s b).grpIdx) →
    let others (t : State) (P : Arr → Arr → Prop) : Prop := ∀ b ∈ x.group, b ≠ s.cur → P (getA s b) (getA t b)
    (∃ t, exec (.fnTag p a) s = .next t ∧ (curA t).north.next = num ∧ ∀ b, b ≠ s.cur → getA t b = getA s b)
    ∧ (∃ t, exec (.fwTag p a) s = .next t ∧ (curA t).west.next = num
      ∧ others t fun y z => z.west.inbox = y.west.inbox ++ [(x.acnt + 4 * y.grpIdx, .tag num)] ∧ z.north = y.north)
    ∧ ((∀ b ∈ x.group, (getA s b).west.Idle) → ∃ (t : State) (m : FeederForm), exec (.fwZero p n) s = .next t ∧ (curA t).west.form = some { m with rot := x.west.rot }
      ∧ m.kind = .zero ∧ m.left = n.val + 1
      ∧ others t fun y z => z.west.inbox = y.west.inbox ++ [(x.acnt + 4 * y.grpIdx, .form { m with rot := y.west.rot })])
    ∧ (∃ t, exec (.tkInit p k f low) s = .next t
      ∧ (curA t).edgeCmds = x.edgeCmds ++ [(x.acnt, .init (k.toNat + 1) f low)]
      ∧ others t fun y z => z.edgeCmds = y.edgeCmds ++ [(x.acnt + 4 * y.grpIdx, .init (k.toNat + 1) f low)])
    ∧ (∃ t, exec (.ecTopk p n) s = .next t ∧ (curA t).edge = some (.plain (n.val + 1))
      ∧ others t fun y z => z.captures = y.captures ++ (List.range (n.val + 1)).map fun j =>
        ⟨false, x.acnt + j, x.acnt + j + 68 * y.grpIdx, s.cur, .offer, 0, 0, false, 0⟩)
    ∧ exec (.scChain p on) s = .next (updCur s fun x => { x with scChain := on })

/-! ### The frame of a slot form -/

/-- R17: a slot form whose predicate is false has no effect.
R135, R251: a slot form answers a next state that differs in the arrays, in the tongs contexts of the clusters, in a request
to the governor (`LEAVE`), in the leases (`SPRFREE`) and in a request of the command processor to its own task (`LEASE`), and in
nothing else: every byte of memory, its poison, every object, page and header, and the host's registers are as before. -/
def Obligations.SlotFrame : Prop :=
  (∀ (i : Instr) (p : Fin 8) (s : State), i.predicate = some p → (curA s).rp p = false → exec i s = .next s)
  ∧ (∀ (i : Instr) (s : State), i.slot.isSome = true → ∃ t, exec i s = .next t
    ∧ t = { s with arrs := t.arrs, clusters := t.clusters, tasks := t.tasks, power := t.power, freeCtr := t.freeCtr }
    ∧ (∀ c : Fin 8, t.clusters[c].banks = s.clusters[c].banks ∧ t.clusters[c].barriers = s.clusters[c].barriers
      ∧ t.clusters[c].lines = s.clusters[c].lines ∧ t.clusters[c].writeBacks = s.clusters[c].writeBacks
      ∧ t.clusters[c].level = s.clusters[c].level)
    ∧ t.power = { s.power with requests := t.power.requests, nextReq := t.power.nextReq, leases := t.power.leases }
    ∧ ((∀ p c l, i ≠ .leave p c l) → t.power.requests = s.power.requests ∧ t.power.nextReq = s.power.nextReq)
    ∧ ((∀ p, i ≠ .sprfree p) → t.power.leases = s.power.leases) ∧ (∀ l ∈ t.power.leases, l ∈ s.power.leases)
    ∧ ((∀ p c, i ≠ .lease p c) → t.tasks = s.tasks)
    ∧ t.tasks.length = s.tasks.length
    ∧ ∀ (n : Nat) (x y : Task), s.tasks[n]? = some x → t.tasks[n]? = some y →
      y = { x with preempt := y.preempt } ∧ (x.tid ≠ (curA s).task → y = x))

/-- R12, R16, R18, R127: a slot form writes, of the registers of the array it issues on, those alone that it names as
destinations: scalar, predicate, capability, mask and loop registers, the control and status registers, the row selector, the
return stack. The counters and every cell stay, and so do the registers and cells of every other array. -/
def Obligations.RegisterFrame : Prop :=
  ∀ (i : Instr) (s t : State), i.slot.isSome = true → exec i s = .next t →
    let x := curA s
    let y := curA t
    (∀ d, d ∉ writesS i → y.regs.s[d] = x.regs.s[d]) ∧ (∀ d, d ∉ writesP i → y.regs.p[d] = x.regs.p[d])
    ∧ (∀ d, d ∉ i.writesH → y.regs.h[d] = x.regs.h[d]) ∧ (∀ d, d ∉ i.writesM → y.regs.m[d] = x.regs.m[d])
    ∧ (∀ d, d ∉ i.writesL → y.regs.l[d] = x.regs.l[d])
    ∧ (i.writesCsr = false → y.regs.orow = x.regs.orow ∧ y.regs.ocol = x.regs.ocol ∧ y.regs.nseed = x.regs.nseed
      ∧ y.regs.nstep = x.regs.nstep ∧ y.regs.dthr = x.regs.dthr ∧ y.regs.nflg = x.regs.nflg ∧ y.regs.nctl = x.regs.nctl
      ∧ y.regs.dscl = x.regs.dscl ∧ y.regs.xpc = x.regs.xpc ∧ y.regs.xnpc = x.regs.xnpc ∧ y.regs.xsw = x.regs.xsw)
    ∧ (i.writesRsw = false → y.regs.rsw = x.regs.rsw ∧ y.regs.travel = x.regs.travel)
    ∧ (i.movesRet = false → y.regs.ret = x.regs.ret)
    ∧ y.acnt = x.acnt ∧ y.fcnt = x.fcnt ∧ y.cells = x.cells ∧ y.prev = x.prev ∧ y.latch = x.latch ∧ y.snap = x.snap
    ∧ t.cur = s.cur
    ∧ ∀ b, b ≠ s.cur → (getA t b).regs = (getA s b).regs ∧ (getA t b).cells = (getA s b).cells
      ∧ (getA t b).acnt = (getA s b).acnt

/-! ### The step -/

/-- R357, R392: after reset the refreeze threshold is 256, and the state is sound.
The other values, queue registers of zero, no contexts and no tasks, `LINKEN` 0, sequencers that do not run, registers, masks and
a return stack of an idle array, are the model's choice (log entry 13), and so is that no byte of memory is listed and an unlisted
one reads as zero (log entry 4). -/
def Obligations.ResetState : Prop :=
  let s := State.reset
  s.Sound ∧ s.refthr = 256 ∧ (∀ q : Fin 64, s.queues[q].cfg = 0) ∧ s.contexts = [] ∧ s.tasks = [] ∧ s.quiet
    ∧ s.linken = 0 ∧ s.mem = []
    ∧ ∀ a : Fin 32, (getA s a).run = .off ∧ (getA s a).traps = [] ∧ (getA s a).regs.s = Vector.replicate 32 0
      ∧ (getA s a).regs.m = Vector.replicate 8 0xFFFFFFFFFFFFFFFF#64 ∧ (getA s a).regs.ret = []

/-- R14, R15, R16, R20, R39, R232, R233: a step of a sequencer whose bundle has reached slot `k`. The zero word goes on to the
next slot; a word that decodes to a form, with no earlier slot's destination, no unit busy and no chain rule against it, runs
as that form, and the bundle goes on where the form has not ended it; a word that decodes to none raises the
illegal-instruction trap of subcause 1 with its opcode, one with an earlier slot's destination that of subcause 6, and one
whose unit is busy the schedule fault of subcause 1.
That a step runs one slot is the model's choice (log entry 71). -/
def Obligations.StepRunsSlots : Prop :=
  ∀ (s : State) (k : Nat) (i : Instr), s.AtSlot k →
    let x := curA s
    let w := x.latch.toNat / 2 ^ (32 * k) % 2 ^ 32
    let on (t : State) : State := updCur t fun y => if y.run = .issuing k then { y with run := .issuing (k + 1) } else y
    (w = 0 → step s = .next (on s))
    ∧ (w ≠ 0 → decodeSlot k w = none →
      step s = .next (trapped s k k .illegal (BitVec.ofNat 48 (1 + 512 * (w / 2 ^ 25)))))
    ∧ (w ≠ 0 → decodeSlot k w = some i → x.duplicate k = true →
      step s = .next (trapped s k k .illegal (BitVec.ofNat 48 (6 + 512 * (w / 2 ^ 25)))))
    ∧ (w ≠ 0 → decodeSlot k w = some i → x.duplicate k = false → (isTail x = false ∨ k < 3) →
      (unaligned s s.cur = false ∨ k < 4) → busySlot s k = true → step s = .next (trapped s k k .schedule 1))
    ∧ (w ≠ 0 → decodeSlot k w = some i → x.duplicate k = false → (isTail x = false ∨ k < 3) →
      (unaligned s s.cur = false ∨ k < 4) → busySlot s k = false →
      ∀ t, exec i s = .next t → step s = .next (on t))

/-- R401: the next operation of another agent is made; a slot word is none; with power removed the part makes no step.
The agenda, and its refusal of slot words, are the model's choices (log entries 1 and 6).
With power on and no slot word in the agenda a step answers a next state: no operation of the part ends in a fault or a
refusal. -/
def Obligations.StepRunsEvents : Prop :=
  (∀ (s : State) (i : Instr) (rest : List Instr),
    (s.powered = true → s.agenda = i :: rest →
      (encode i = none → step s = exec i { s with agenda := rest })
      ∧ ((encode i).isSome = true → step s = .refused .notAnEvent))
    ∧ (s.powered = false → step s = .fault .poweredOff))
  ∧ (∀ (s : State), s.powered = true → (∀ i ∈ s.agenda.head?, encode i = none) → ∃ t, step s = .next t)

/-- R15, R21, R107, R115, R118, R126, R344: the end of a bundle on an array that is no chain's takes one active cycle; the bundle due next is
the transfer's target or else, of a bundle that was re-entered, its saved successor, and of any other the bundle after it; after
`TEND` the sequencer has ended, after a `FREEZE` it waits, and else it stands at a boundary; a `PHCANCEL` of the bundle starts
the rollback at the same end, and a fatal context error leaves the sequencer off.
That the end of a cycle is one step, in which time passes by a free amount, is the model's choice (log entries 9 and
71); where `PHCANCEL` starts its rollback, and where a fatal error stops a sequencer, are its readings (log entries 41 and
32). -/
def Obligations.BundleEnds : Prop :=
  ∀ (s : State) (a : Fin 32), s.powered = true → s.agenda = [] → s.quiet →
    let x := getA s a
    x.run = .issuing 8 → (∀ b : Fin 32, b < a → (getA s b).run ≠ .issuing 8) → x.kind = .cluster →
    ∃ t, step s = .next t ∧ (getA t a).acnt = x.acnt + 1 ∧ s.ptime ≤ t.ptime ∧ t.mem = s.mem
      ∧ (x.phcancel = false →
        (∀ w, x.transfer = some w → (getA t a).due = w)
        ∧ (x.transfer = none → (getA t a).due = (x.resumeNext.getD (x.snap.pc + 32#48)).setWidth 64)
        ∧ (getA t a).run = (if x.halt = true then .off else if x.ending ≠ none then .ended else if x.park = true then .parked
          else if x.freeze ≠ 0 then .waiting (.freeze x.freeze) else .boundary))
      ∧ (x.phcancel = true → x.halt = false → (getA t a).run = .rolling)

/-- Every step keeps the state sound: memory stays in its canonical form, and the refreeze threshold within its range (R392). -/
def Obligations.SoundPreserved : Prop :=
 ∀ (s t : State), s.Sound → step s = .next t → t.Sound

/-! ### Memory -/

/-- R37, R142, R384, R385: bytes written at a physical address outside a quarantined page read back, little-endian, and no other
byte changes; a whole clean sector frees its poison, and a poisoned write enters it or quarantines its page; a write to a
quarantined page is dropped. -/
def Obligations.MemoryReadsBack : Prop :=
  ∀ (s : State) (a n v : Nat) (bad : Bool),
    let t := writePhys s a n v bad
    (quarantinedAt s a = false → bytesAt t a n = v % 2 ^ (8 * n)
      ∧ (∀ z, z < a ∨ a + n ≤ z → Memory.read t.mem z = Memory.read s.mem z)
      ∧ (Memory.wf s.mem = true → Memory.wf t.mem = true)
      ∧ (bad = false → n = 32 → a % 32 = 0 → poisonAt t a 32 = false)
      ∧ (bad = true → a / 32 ∈ t.poison ∨ a / 65536 ∈ t.toQuarantine)
      ∧ t = { s with mem := t.mem, poison := t.poison, toQuarantine := t.toQuarantine })
    ∧ (quarantinedAt s a = true → t = s)

/-! ### Encodings -/

/-- R14, R38 to R53: some words of the manual's listings decode to the forms they stand for. -/
def Obligations.ListedWords : Prop :=
  decodeSlot 0 0x0C010002 = some (.loop 0 0 2 2) ∧ decodeSlot 0 0x0E000000 = some (.endloop 0 0)
  ∧ decodeSlot 0 0x7E000000 = some (.tend 0) ∧ decodeSlot 0 0x50000001 = some (.trap 0 1)
  ∧ decodeSlot 1 0x3209FFFF = some (.li 0 4 (-1)) ∧ decodeSlot 1 0x30063001 = some (.addi 0 3 3 1)
  ∧ decodeSlot 1 0x02021180 = some (.add 0 1 1 3) ∧ decodeSlot 2 0x62000000 = some (.cpyGo 0 0)
  ∧ decodeSlot 2 0x60006500 = some (.cpySet 0 0 3 5) ∧ decodeSlot 7 0x08000000 = some (.ecTopk 0 0)
  ∧ decodeSlot 7 0x14080000 = some (.tkRead 0 2) ∧ decodeSlot 7 0x16120000 = some (.tkCnt 0 9)

/-- R14, R38 to R53: the word of a well-formed slot form decodes, in its slot, to that form with every operand. -/
def Obligations.DecodeEncode : Prop :=
  ∀ (i : Instr) (k w : Nat), i.slot = some k → i.wellFormed = true → encode i = some w → decodeSlot k w = some i
end

