-- ==== Sys2Proof/Laws/State.lean ====
section
/-! SUPPORT. One lemma for each field of each update of the state: what the update does not touch. Written from the
fields of `State` and `Arr`. -/

namespace Sys2Proof.Machine

/-! ### `setA` -/

@[simp] theorem setA_agenda (s : State) (a : Fin 32) (x : Arr) : (setA s a x).agenda = s.agenda := rfl
@[simp] theorem setA_cur (s : State) (a : Fin 32) (x : Arr) : (setA s a x).cur = s.cur := rfl
@[simp] theorem setA_freeCtr (s : State) (a : Fin 32) (x : Arr) : (setA s a x).freeCtr = s.freeCtr := rfl
@[simp] theorem setA_powered (s : State) (a : Fin 32) (x : Arr) : (setA s a x).powered = s.powered := rfl
@[simp] theorem setA_ptime (s : State) (a : Fin 32) (x : Arr) : (setA s a x).ptime = s.ptime := rfl
@[simp] theorem setA_clusters (s : State) (a : Fin 32) (x : Arr) : (setA s a x).clusters = s.clusters := rfl
@[simp] theorem setA_mem (s : State) (a : Fin 32) (x : Arr) : (setA s a x).mem = s.mem := rfl
@[simp] theorem setA_poison (s : State) (a : Fin 32) (x : Arr) : (setA s a x).poison = s.poison := rfl
@[simp] theorem setA_toQuarantine (s : State) (a : Fin 32) (x : Arr) : (setA s a x).toQuarantine = s.toQuarantine := rfl
@[simp] theorem setA_objs (s : State) (a : Fin 32) (x : Arr) : (setA s a x).objs = s.objs := rfl
@[simp] theorem setA_headers (s : State) (a : Fin 32) (x : Arr) : (setA s a x).headers = s.headers := rfl
@[simp] theorem setA_markMsgs (s : State) (a : Fin 32) (x : Arr) : (setA s a x).markMsgs = s.markMsgs := rfl
@[simp] theorem setA_moves (s : State) (a : Fin 32) (x : Arr) : (setA s a x).moves = s.moves := rfl
@[simp] theorem setA_port (s : State) (a : Fin 32) (x : Arr) : (setA s a x).port = s.port := rfl
@[simp] theorem setA_pins (s : State) (a : Fin 32) (x : Arr) : (setA s a x).pins = s.pins := rfl
@[simp] theorem setA_translations (s : State) (a : Fin 32) (x : Arr) : (setA s a x).translations = s.translations := rfl
@[simp] theorem setA_routines (s : State) (a : Fin 32) (x : Arr) : (setA s a x).routines = s.routines := rfl
@[simp] theorem setA_descs (s : State) (a : Fin 32) (x : Arr) : (setA s a x).descs = s.descs := rfl
@[simp] theorem setA_stageJobs (s : State) (a : Fin 32) (x : Arr) : (setA s a x).stageJobs = s.stageJobs := rfl
@[simp] theorem setA_evictJobs (s : State) (a : Fin 32) (x : Arr) : (setA s a x).evictJobs = s.evictJobs := rfl
@[simp] theorem setA_backing (s : State) (a : Fin 32) (x : Arr) : (setA s a x).backing = s.backing := rfl
@[simp] theorem setA_fills (s : State) (a : Fin 32) (x : Arr) : (setA s a x).fills = s.fills := rfl
@[simp] theorem setA_tasks (s : State) (a : Fin 32) (x : Arr) : (setA s a x).tasks = s.tasks := rfl
@[simp] theorem setA_saveAreas (s : State) (a : Fin 32) (x : Arr) : (setA s a x).saveAreas = s.saveAreas := rfl
@[simp] theorem setA_nextSeq (s : State) (a : Fin 32) (x : Arr) : (setA s a x).nextSeq = s.nextSeq := rfl
@[simp] theorem setA_tids (s : State) (a : Fin 32) (x : Arr) : (setA s a x).tids = s.tids := rfl
@[simp] theorem setA_turns (s : State) (a : Fin 32) (x : Arr) : (setA s a x).turns = s.turns := rfl
@[simp] theorem setA_queues (s : State) (a : Fin 32) (x : Arr) : (setA s a x).queues = s.queues := rfl
@[simp] theorem setA_deviceQueue (s : State) (a : Fin 32) (x : Arr) : (setA s a x).deviceQueue = s.deviceQueue := rfl
@[simp] theorem setA_hostPort (s : State) (a : Fin 32) (x : Arr) : (setA s a x).hostPort = s.hostPort := rfl
@[simp] theorem setA_hostReads (s : State) (a : Fin 32) (x : Arr) : (setA s a x).hostReads = s.hostReads := rfl
@[simp] theorem setA_contexts (s : State) (a : Fin 32) (x : Arr) : (setA s a x).contexts = s.contexts := rfl
@[simp] theorem setA_events (s : State) (a : Fin 32) (x : Arr) : (setA s a x).events = s.events := rfl
@[simp] theorem setA_lines (s : State) (a : Fin 32) (x : Arr) : (setA s a x).lines = s.lines := rfl
@[simp] theorem setA_domain (s : State) (a : Fin 32) (x : Arr) : (setA s a x).domain = s.domain := rfl
@[simp] theorem setA_msix (s : State) (a : Fin 32) (x : Arr) : (setA s a x).msix = s.msix := rfl
@[simp] theorem setA_reports (s : State) (a : Fin 32) (x : Arr) : (setA s a x).reports = s.reports := rfl
@[simp] theorem setA_power (s : State) (a : Fin 32) (x : Arr) : (setA s a x).power = s.power := rfl
@[simp] theorem setA_stackCtl (s : State) (a : Fin 32) (x : Arr) : (setA s a x).stackCtl = s.stackCtl := rfl
@[simp] theorem setA_groups (s : State) (a : Fin 32) (x : Arr) : (setA s a x).groups = s.groups := rfl
@[simp] theorem setA_ports (s : State) (a : Fin 32) (x : Arr) : (setA s a x).ports = s.ports := rfl
@[simp] theorem setA_stops (s : State) (a : Fin 32) (x : Arr) : (setA s a x).stops = s.stops := rfl
@[simp] theorem setA_ready (s : State) (a : Fin 32) (x : Arr) : (setA s a x).ready = s.ready := rfl
@[simp] theorem setA_readyFail (s : State) (a : Fin 32) (x : Arr) : (setA s a x).readyFail = s.readyFail := rfl
@[simp] theorem setA_refthr (s : State) (a : Fin 32) (x : Arr) : (setA s a x).refthr = s.refthr := rfl
@[simp] theorem setA_alarm (s : State) (a : Fin 32) (x : Arr) : (setA s a x).alarm = s.alarm := rfl
@[simp] theorem setA_pkgnum (s : State) (a : Fin 32) (x : Arr) : (setA s a x).pkgnum = s.pkgnum := rfl
@[simp] theorem setA_linken (s : State) (a : Fin 32) (x : Arr) : (setA s a x).linken = s.linken := rfl
@[simp] theorem setA_command (s : State) (a : Fin 32) (x : Arr) : (setA s a x).command = s.command := rfl
@[simp] theorem setA_mgmtStatus (s : State) (a : Fin 32) (x : Arr) : (setA s a x).mgmtStatus = s.mgmtStatus := rfl
@[simp] theorem setA_ucie (s : State) (a : Fin 32) (x : Arr) : (setA s a x).ucie = s.ucie := rfl
@[simp] theorem setA_images (s : State) (a : Fin 32) (x : Arr) : (setA s a x).images = s.images := rfl
@[simp] theorem setA_measurement (s : State) (a : Fin 32) (x : Arr) : (setA s a x).measurement = s.measurement := rfl
@[simp] theorem setA_nextSerial (s : State) (a : Fin 32) (x : Arr) : (setA s a x).nextSerial = s.nextSerial := rfl

/-! ### `updA` -/

@[simp] theorem updA_agenda (s : State) (a : Fin 32) (f : Arr → Arr) : (updA s a f).agenda = s.agenda := rfl
@[simp] theorem updA_cur (s : State) (a : Fin 32) (f : Arr → Arr) : (updA s a f).cur = s.cur := rfl
@[simp] theorem updA_freeCtr (s : State) (a : Fin 32) (f : Arr → Arr) : (updA s a f).freeCtr = s.freeCtr := rfl
@[simp] theorem updA_powered (s : State) (a : Fin 32) (f : Arr → Arr) : (updA s a f).powered = s.powered := rfl
@[simp] theorem updA_ptime (s : State) (a : Fin 32) (f : Arr → Arr) : (updA s a f).ptime = s.ptime := rfl
@[simp] theorem updA_clusters (s : State) (a : Fin 32) (f : Arr → Arr) : (updA s a f).clusters = s.clusters := rfl
@[simp] theorem updA_mem (s : State) (a : Fin 32) (f : Arr → Arr) : (updA s a f).mem = s.mem := rfl
@[simp] theorem updA_poison (s : State) (a : Fin 32) (f : Arr → Arr) : (updA s a f).poison = s.poison := rfl
@[simp] theorem updA_toQuarantine (s : State) (a : Fin 32) (f : Arr → Arr) : (updA s a f).toQuarantine = s.toQuarantine := rfl
@[simp] theorem updA_objs (s : State) (a : Fin 32) (f : Arr → Arr) : (updA s a f).objs = s.objs := rfl
@[simp] theorem updA_headers (s : State) (a : Fin 32) (f : Arr → Arr) : (updA s a f).headers = s.headers := rfl
@[simp] theorem updA_markMsgs (s : State) (a : Fin 32) (f : Arr → Arr) : (updA s a f).markMsgs = s.markMsgs := rfl
@[simp] theorem updA_moves (s : State) (a : Fin 32) (f : Arr → Arr) : (updA s a f).moves = s.moves := rfl
@[simp] theorem updA_port (s : State) (a : Fin 32) (f : Arr → Arr) : (updA s a f).port = s.port := rfl
@[simp] theorem updA_pins (s : State) (a : Fin 32) (f : Arr → Arr) : (updA s a f).pins = s.pins := rfl
@[simp] theorem updA_translations (s : State) (a : Fin 32) (f : Arr → Arr) : (updA s a f).translations = s.translations := rfl
@[simp] theorem updA_routines (s : State) (a : Fin 32) (f : Arr → Arr) : (updA s a f).routines = s.routines := rfl
@[simp] theorem updA_descs (s : State) (a : Fin 32) (f : Arr → Arr) : (updA s a f).descs = s.descs := rfl
@[simp] theorem updA_stageJobs (s : State) (a : Fin 32) (f : Arr → Arr) : (updA s a f).stageJobs = s.stageJobs := rfl
@[simp] theorem updA_evictJobs (s : State) (a : Fin 32) (f : Arr → Arr) : (updA s a f).evictJobs = s.evictJobs := rfl
@[simp] theorem updA_backing (s : State) (a : Fin 32) (f : Arr → Arr) : (updA s a f).backing = s.backing := rfl
@[simp] theorem updA_fills (s : State) (a : Fin 32) (f : Arr → Arr) : (updA s a f).fills = s.fills := rfl
@[simp] theorem updA_tasks (s : State) (a : Fin 32) (f : Arr → Arr) : (updA s a f).tasks = s.tasks := rfl
@[simp] theorem updA_saveAreas (s : State) (a : Fin 32) (f : Arr → Arr) : (updA s a f).saveAreas = s.saveAreas := rfl
@[simp] theorem updA_nextSeq (s : State) (a : Fin 32) (f : Arr → Arr) : (updA s a f).nextSeq = s.nextSeq := rfl
@[simp] theorem updA_tids (s : State) (a : Fin 32) (f : Arr → Arr) : (updA s a f).tids = s.tids := rfl
@[simp] theorem updA_turns (s : State) (a : Fin 32) (f : Arr → Arr) : (updA s a f).turns = s.turns := rfl
@[simp] theorem updA_queues (s : State) (a : Fin 32) (f : Arr → Arr) : (updA s a f).queues = s.queues := rfl
@[simp] theorem updA_deviceQueue (s : State) (a : Fin 32) (f : Arr → Arr) : (updA s a f).deviceQueue = s.deviceQueue := rfl
@[simp] theorem updA_hostPort (s : State) (a : Fin 32) (f : Arr → Arr) : (updA s a f).hostPort = s.hostPort := rfl
@[simp] theorem updA_hostReads (s : State) (a : Fin 32) (f : Arr → Arr) : (updA s a f).hostReads = s.hostReads := rfl
@[simp] theorem updA_contexts (s : State) (a : Fin 32) (f : Arr → Arr) : (updA s a f).contexts = s.contexts := rfl
@[simp] theorem updA_events (s : State) (a : Fin 32) (f : Arr → Arr) : (updA s a f).events = s.events := rfl
@[simp] theorem updA_lines (s : State) (a : Fin 32) (f : Arr → Arr) : (updA s a f).lines = s.lines := rfl
@[simp] theorem updA_domain (s : State) (a : Fin 32) (f : Arr → Arr) : (updA s a f).domain = s.domain := rfl
@[simp] theorem updA_msix (s : State) (a : Fin 32) (f : Arr → Arr) : (updA s a f).msix = s.msix := rfl
@[simp] theorem updA_reports (s : State) (a : Fin 32) (f : Arr → Arr) : (updA s a f).reports = s.reports := rfl
@[simp] theorem updA_power (s : State) (a : Fin 32) (f : Arr → Arr) : (updA s a f).power = s.power := rfl
@[simp] theorem updA_stackCtl (s : State) (a : Fin 32) (f : Arr → Arr) : (updA s a f).stackCtl = s.stackCtl := rfl
@[simp] theorem updA_groups (s : State) (a : Fin 32) (f : Arr → Arr) : (updA s a f).groups = s.groups := rfl
@[simp] theorem updA_ports (s : State) (a : Fin 32) (f : Arr → Arr) : (updA s a f).ports = s.ports := rfl
@[simp] theorem updA_stops (s : State) (a : Fin 32) (f : Arr → Arr) : (updA s a f).stops = s.stops := rfl
@[simp] theorem updA_ready (s : State) (a : Fin 32) (f : Arr → Arr) : (updA s a f).ready = s.ready := rfl
@[simp] theorem updA_readyFail (s : State) (a : Fin 32) (f : Arr → Arr) : (updA s a f).readyFail = s.readyFail := rfl
@[simp] theorem updA_refthr (s : State) (a : Fin 32) (f : Arr → Arr) : (updA s a f).refthr = s.refthr := rfl
@[simp] theorem updA_alarm (s : State) (a : Fin 32) (f : Arr → Arr) : (updA s a f).alarm = s.alarm := rfl
@[simp] theorem updA_pkgnum (s : State) (a : Fin 32) (f : Arr → Arr) : (updA s a f).pkgnum = s.pkgnum := rfl
@[simp] theorem updA_linken (s : State) (a : Fin 32) (f : Arr → Arr) : (updA s a f).linken = s.linken := rfl
@[simp] theorem updA_command (s : State) (a : Fin 32) (f : Arr → Arr) : (updA s a f).command = s.command := rfl
@[simp] theorem updA_mgmtStatus (s : State) (a : Fin 32) (f : Arr → Arr) : (updA s a f).mgmtStatus = s.mgmtStatus := rfl
@[simp] theorem updA_ucie (s : State) (a : Fin 32) (f : Arr → Arr) : (updA s a f).ucie = s.ucie := rfl
@[simp] theorem updA_images (s : State) (a : Fin 32) (f : Arr → Arr) : (updA s a f).images = s.images := rfl
@[simp] theorem updA_measurement (s : State) (a : Fin 32) (f : Arr → Arr) : (updA s a f).measurement = s.measurement := rfl
@[simp] theorem updA_nextSerial (s : State) (a : Fin 32) (f : Arr → Arr) : (updA s a f).nextSerial = s.nextSerial := rfl

/-! ### `updCur` -/

@[simp] theorem updCur_agenda (s : State) (f : Arr → Arr) : (updCur s f).agenda = s.agenda := rfl
@[simp] theorem updCur_cur (s : State) (f : Arr → Arr) : (updCur s f).cur = s.cur := rfl
@[simp] theorem updCur_freeCtr (s : State) (f : Arr → Arr) : (updCur s f).freeCtr = s.freeCtr := rfl
@[simp] theorem updCur_powered (s : State) (f : Arr → Arr) : (updCur s f).powered = s.powered := rfl
@[simp] theorem updCur_ptime (s : State) (f : Arr → Arr) : (updCur s f).ptime = s.ptime := rfl
@[simp] theorem updCur_clusters (s : State) (f : Arr → Arr) : (updCur s f).clusters = s.clusters := rfl
@[simp] theorem updCur_mem (s : State) (f : Arr → Arr) : (updCur s f).mem = s.mem := rfl
@[simp] theorem updCur_poison (s : State) (f : Arr → Arr) : (updCur s f).poison = s.poison := rfl
@[simp] theorem updCur_toQuarantine (s : State) (f : Arr → Arr) : (updCur s f).toQuarantine = s.toQuarantine := rfl
@[simp] theorem updCur_objs (s : State) (f : Arr → Arr) : (updCur s f).objs = s.objs := rfl
@[simp] theorem updCur_headers (s : State) (f : Arr → Arr) : (updCur s f).headers = s.headers := rfl
@[simp] theorem updCur_markMsgs (s : State) (f : Arr → Arr) : (updCur s f).markMsgs = s.markMsgs := rfl
@[simp] theorem updCur_moves (s : State) (f : Arr → Arr) : (updCur s f).moves = s.moves := rfl
@[simp] theorem updCur_port (s : State) (f : Arr → Arr) : (updCur s f).port = s.port := rfl
@[simp] theorem updCur_pins (s : State) (f : Arr → Arr) : (updCur s f).pins = s.pins := rfl
@[simp] theorem updCur_translations (s : State) (f : Arr → Arr) : (updCur s f).translations = s.translations := rfl
@[simp] theorem updCur_routines (s : State) (f : Arr → Arr) : (updCur s f).routines = s.routines := rfl
@[simp] theorem updCur_descs (s : State) (f : Arr → Arr) : (updCur s f).descs = s.descs := rfl
@[simp] theorem updCur_stageJobs (s : State) (f : Arr → Arr) : (updCur s f).stageJobs = s.stageJobs := rfl
@[simp] theorem updCur_evictJobs (s : State) (f : Arr → Arr) : (updCur s f).evictJobs = s.evictJobs := rfl
@[simp] theorem updCur_backing (s : State) (f : Arr → Arr) : (updCur s f).backing = s.backing := rfl
@[simp] theorem updCur_fills (s : State) (f : Arr → Arr) : (updCur s f).fills = s.fills := rfl
@[simp] theorem updCur_tasks (s : State) (f : Arr → Arr) : (updCur s f).tasks = s.tasks := rfl
@[simp] theorem updCur_saveAreas (s : State) (f : Arr → Arr) : (updCur s f).saveAreas = s.saveAreas := rfl
@[simp] theorem updCur_nextSeq (s : State) (f : Arr → Arr) : (updCur s f).nextSeq = s.nextSeq := rfl
@[simp] theorem updCur_tids (s : State) (f : Arr → Arr) : (updCur s f).tids = s.tids := rfl
@[simp] theorem updCur_turns (s : State) (f : Arr → Arr) : (updCur s f).turns = s.turns := rfl
@[simp] theorem updCur_queues (s : State) (f : Arr → Arr) : (updCur s f).queues = s.queues := rfl
@[simp] theorem updCur_deviceQueue (s : State) (f : Arr → Arr) : (updCur s f).deviceQueue = s.deviceQueue := rfl
@[simp] theorem updCur_hostPort (s : State) (f : Arr → Arr) : (updCur s f).hostPort = s.hostPort := rfl
@[simp] theorem updCur_hostReads (s : State) (f : Arr → Arr) : (updCur s f).hostReads = s.hostReads := rfl
@[simp] theorem updCur_contexts (s : State) (f : Arr → Arr) : (updCur s f).contexts = s.contexts := rfl
@[simp] theorem updCur_events (s : State) (f : Arr → Arr) : (updCur s f).events = s.events := rfl
@[simp] theorem updCur_lines (s : State) (f : Arr → Arr) : (updCur s f).lines = s.lines := rfl
@[simp] theorem updCur_domain (s : State) (f : Arr → Arr) : (updCur s f).domain = s.domain := rfl
@[simp] theorem updCur_msix (s : State) (f : Arr → Arr) : (updCur s f).msix = s.msix := rfl
@[simp] theorem updCur_reports (s : State) (f : Arr → Arr) : (updCur s f).reports = s.reports := rfl
@[simp] theorem updCur_power (s : State) (f : Arr → Arr) : (updCur s f).power = s.power := rfl
@[simp] theorem updCur_stackCtl (s : State) (f : Arr → Arr) : (updCur s f).stackCtl = s.stackCtl := rfl
@[simp] theorem updCur_groups (s : State) (f : Arr → Arr) : (updCur s f).groups = s.groups := rfl
@[simp] theorem updCur_ports (s : State) (f : Arr → Arr) : (updCur s f).ports = s.ports := rfl
@[simp] theorem updCur_stops (s : State) (f : Arr → Arr) : (updCur s f).stops = s.stops := rfl
@[simp] theorem updCur_ready (s : State) (f : Arr → Arr) : (updCur s f).ready = s.ready := rfl
@[simp] theorem updCur_readyFail (s : State) (f : Arr → Arr) : (updCur s f).readyFail = s.readyFail := rfl
@[simp] theorem updCur_refthr (s : State) (f : Arr → Arr) : (updCur s f).refthr = s.refthr := rfl
@[simp] theorem updCur_alarm (s : State) (f : Arr → Arr) : (updCur s f).alarm = s.alarm := rfl
@[simp] theorem updCur_pkgnum (s : State) (f : Arr → Arr) : (updCur s f).pkgnum = s.pkgnum := rfl
@[simp] theorem updCur_linken (s : State) (f : Arr → Arr) : (updCur s f).linken = s.linken := rfl
@[simp] theorem updCur_command (s : State) (f : Arr → Arr) : (updCur s f).command = s.command := rfl
@[simp] theorem updCur_mgmtStatus (s : State) (f : Arr → Arr) : (updCur s f).mgmtStatus = s.mgmtStatus := rfl
@[simp] theorem updCur_ucie (s : State) (f : Arr → Arr) : (updCur s f).ucie = s.ucie := rfl
@[simp] theorem updCur_images (s : State) (f : Arr → Arr) : (updCur s f).images = s.images := rfl
@[simp] theorem updCur_measurement (s : State) (f : Arr → Arr) : (updCur s f).measurement = s.measurement := rfl
@[simp] theorem updCur_nextSerial (s : State) (f : Arr → Arr) : (updCur s f).nextSerial = s.nextSerial := rfl

/-! ### `updC` -/

@[simp] theorem updC_agenda (s : State) (c : Fin 8) (f : Cluster → Cluster) : (updC s c f).agenda = s.agenda := rfl
@[simp] theorem updC_cur (s : State) (c : Fin 8) (f : Cluster → Cluster) : (updC s c f).cur = s.cur := rfl
@[simp] theorem updC_freeCtr (s : State) (c : Fin 8) (f : Cluster → Cluster) : (updC s c f).freeCtr = s.freeCtr := rfl
@[simp] theorem updC_powered (s : State) (c : Fin 8) (f : Cluster → Cluster) : (updC s c f).powered = s.powered := rfl
@[simp] theorem updC_ptime (s : State) (c : Fin 8) (f : Cluster → Cluster) : (updC s c f).ptime = s.ptime := rfl
@[simp] theorem updC_arrs (s : State) (c : Fin 8) (f : Cluster → Cluster) : (updC s c f).arrs = s.arrs := rfl
@[simp] theorem updC_mem (s : State) (c : Fin 8) (f : Cluster → Cluster) : (updC s c f).mem = s.mem := rfl
@[simp] theorem updC_poison (s : State) (c : Fin 8) (f : Cluster → Cluster) : (updC s c f).poison = s.poison := rfl
@[simp] theorem updC_toQuarantine (s : State) (c : Fin 8) (f : Cluster → Cluster) : (updC s c f).toQuarantine = s.toQuarantine := rfl
@[simp] theorem updC_objs (s : State) (c : Fin 8) (f : Cluster → Cluster) : (updC s c f).objs = s.objs := rfl
@[simp] theorem updC_headers (s : State) (c : Fin 8) (f : Cluster → Cluster) : (updC s c f).headers = s.headers := rfl
@[simp] theorem updC_markMsgs (s : State) (c : Fin 8) (f : Cluster → Cluster) : (updC s c f).markMsgs = s.markMsgs := rfl
@[simp] theorem updC_moves (s : State) (c : Fin 8) (f : Cluster → Cluster) : (updC s c f).moves = s.moves := rfl
@[simp] theorem updC_port (s : State) (c : Fin 8) (f : Cluster → Cluster) : (updC s c f).port = s.port := rfl
@[simp] theorem updC_pins (s : State) (c : Fin 8) (f : Cluster → Cluster) : (updC s c f).pins = s.pins := rfl
@[simp] theorem updC_translations (s : State) (c : Fin 8) (f : Cluster → Cluster) : (updC s c f).translations = s.translations := rfl
@[simp] theorem updC_routines (s : State) (c : Fin 8) (f : Cluster → Cluster) : (updC s c f).routines = s.routines := rfl
@[simp] theorem updC_descs (s : State) (c : Fin 8) (f : Cluster → Cluster) : (updC s c f).descs = s.descs := rfl
@[simp] theorem updC_stageJobs (s : State) (c : Fin 8) (f : Cluster → Cluster) : (updC s c f).stageJobs = s.stageJobs := rfl
@[simp] theorem updC_evictJobs (s : State) (c : Fin 8) (f : Cluster → Cluster) : (updC s c f).evictJobs = s.evictJobs := rfl
@[simp] theorem updC_backing (s : State) (c : Fin 8) (f : Cluster → Cluster) : (updC s c f).backing = s.backing := rfl
@[simp] theorem updC_fills (s : State) (c : Fin 8) (f : Cluster → Cluster) : (updC s c f).fills = s.fills := rfl
@[simp] theorem updC_tasks (s : State) (c : Fin 8) (f : Cluster → Cluster) : (updC s c f).tasks = s.tasks := rfl
@[simp] theorem updC_saveAreas (s : State) (c : Fin 8) (f : Cluster → Cluster) : (updC s c f).saveAreas = s.saveAreas := rfl
@[simp] theorem updC_nextSeq (s : State) (c : Fin 8) (f : Cluster → Cluster) : (updC s c f).nextSeq = s.nextSeq := rfl
@[simp] theorem updC_tids (s : State) (c : Fin 8) (f : Cluster → Cluster) : (updC s c f).tids = s.tids := rfl
@[simp] theorem updC_turns (s : State) (c : Fin 8) (f : Cluster → Cluster) : (updC s c f).turns = s.turns := rfl
@[simp] theorem updC_queues (s : State) (c : Fin 8) (f : Cluster → Cluster) : (updC s c f).queues = s.queues := rfl
@[simp] theorem updC_deviceQueue (s : State) (c : Fin 8) (f : Cluster → Cluster) : (updC s c f).deviceQueue = s.deviceQueue := rfl
@[simp] theorem updC_hostPort (s : State) (c : Fin 8) (f : Cluster → Cluster) : (updC s c f).hostPort = s.hostPort := rfl
@[simp] theorem updC_hostReads (s : State) (c : Fin 8) (f : Cluster → Cluster) : (updC s c f).hostReads = s.hostReads := rfl
@[simp] theorem updC_contexts (s : State) (c : Fin 8) (f : Cluster → Cluster) : (updC s c f).contexts = s.contexts := rfl
@[simp] theorem updC_events (s : State) (c : Fin 8) (f : Cluster → Cluster) : (updC s c f).events = s.events := rfl
@[simp] theorem updC_lines (s : State) (c : Fin 8) (f : Cluster → Cluster) : (updC s c f).lines = s.lines := rfl
@[simp] theorem updC_domain (s : State) (c : Fin 8) (f : Cluster → Cluster) : (updC s c f).domain = s.domain := rfl
@[simp] theorem updC_msix (s : State) (c : Fin 8) (f : Cluster → Cluster) : (updC s c f).msix = s.msix := rfl
@[simp] theorem updC_reports (s : State) (c : Fin 8) (f : Cluster → Cluster) : (updC s c f).reports = s.reports := rfl
@[simp] theorem updC_power (s : State) (c : Fin 8) (f : Cluster → Cluster) : (updC s c f).power = s.power := rfl
@[simp] theorem updC_stackCtl (s : State) (c : Fin 8) (f : Cluster → Cluster) : (updC s c f).stackCtl = s.stackCtl := rfl
@[simp] theorem updC_groups (s : State) (c : Fin 8) (f : Cluster → Cluster) : (updC s c f).groups = s.groups := rfl
@[simp] theorem updC_ports (s : State) (c : Fin 8) (f : Cluster → Cluster) : (updC s c f).ports = s.ports := rfl
@[simp] theorem updC_stops (s : State) (c : Fin 8) (f : Cluster → Cluster) : (updC s c f).stops = s.stops := rfl
@[simp] theorem updC_ready (s : State) (c : Fin 8) (f : Cluster → Cluster) : (updC s c f).ready = s.ready := rfl
@[simp] theorem updC_readyFail (s : State) (c : Fin 8) (f : Cluster → Cluster) : (updC s c f).readyFail = s.readyFail := rfl
@[simp] theorem updC_refthr (s : State) (c : Fin 8) (f : Cluster → Cluster) : (updC s c f).refthr = s.refthr := rfl
@[simp] theorem updC_alarm (s : State) (c : Fin 8) (f : Cluster → Cluster) : (updC s c f).alarm = s.alarm := rfl
@[simp] theorem updC_pkgnum (s : State) (c : Fin 8) (f : Cluster → Cluster) : (updC s c f).pkgnum = s.pkgnum := rfl
@[simp] theorem updC_linken (s : State) (c : Fin 8) (f : Cluster → Cluster) : (updC s c f).linken = s.linken := rfl
@[simp] theorem updC_command (s : State) (c : Fin 8) (f : Cluster → Cluster) : (updC s c f).command = s.command := rfl
@[simp] theorem updC_mgmtStatus (s : State) (c : Fin 8) (f : Cluster → Cluster) : (updC s c f).mgmtStatus = s.mgmtStatus := rfl
@[simp] theorem updC_ucie (s : State) (c : Fin 8) (f : Cluster → Cluster) : (updC s c f).ucie = s.ucie := rfl
@[simp] theorem updC_images (s : State) (c : Fin 8) (f : Cluster → Cluster) : (updC s c f).images = s.images := rfl
@[simp] theorem updC_measurement (s : State) (c : Fin 8) (f : Cluster → Cluster) : (updC s c f).measurement = s.measurement := rfl
@[simp] theorem updC_nextSerial (s : State) (c : Fin 8) (f : Cluster → Cluster) : (updC s c f).nextSerial = s.nextSerial := rfl

/-! ### `putTongs` -/

@[simp] theorem putTongs_agenda (s : State) (c : Fin 8) (k : Nat) (t : Tongs) : (putTongs s c k t).agenda = s.agenda := rfl
@[simp] theorem putTongs_cur (s : State) (c : Fin 8) (k : Nat) (t : Tongs) : (putTongs s c k t).cur = s.cur := rfl
@[simp] theorem putTongs_freeCtr (s : State) (c : Fin 8) (k : Nat) (t : Tongs) : (putTongs s c k t).freeCtr = s.freeCtr := rfl
@[simp] theorem putTongs_powered (s : State) (c : Fin 8) (k : Nat) (t : Tongs) : (putTongs s c k t).powered = s.powered := rfl
@[simp] theorem putTongs_ptime (s : State) (c : Fin 8) (k : Nat) (t : Tongs) : (putTongs s c k t).ptime = s.ptime := rfl
@[simp] theorem putTongs_arrs (s : State) (c : Fin 8) (k : Nat) (t : Tongs) : (putTongs s c k t).arrs = s.arrs := rfl
@[simp] theorem putTongs_mem (s : State) (c : Fin 8) (k : Nat) (t : Tongs) : (putTongs s c k t).mem = s.mem := rfl
@[simp] theorem putTongs_poison (s : State) (c : Fin 8) (k : Nat) (t : Tongs) : (putTongs s c k t).poison = s.poison := rfl
@[simp] theorem putTongs_toQuarantine (s : State) (c : Fin 8) (k : Nat) (t : Tongs) : (putTongs s c k t).toQuarantine = s.toQuarantine := rfl
@[simp] theorem putTongs_objs (s : State) (c : Fin 8) (k : Nat) (t : Tongs) : (putTongs s c k t).objs = s.objs := rfl
@[simp] theorem putTongs_headers (s : State) (c : Fin 8) (k : Nat) (t : Tongs) : (putTongs s c k t).headers = s.headers := rfl
@[simp] theorem putTongs_markMsgs (s : State) (c : Fin 8) (k : Nat) (t : Tongs) : (putTongs s c k t).markMsgs = s.markMsgs := rfl
@[simp] theorem putTongs_moves (s : State) (c : Fin 8) (k : Nat) (t : Tongs) : (putTongs s c k t).moves = s.moves := rfl
@[simp] theorem putTongs_port (s : State) (c : Fin 8) (k : Nat) (t : Tongs) : (putTongs s c k t).port = s.port := rfl
@[simp] theorem putTongs_pins (s : State) (c : Fin 8) (k : Nat) (t : Tongs) : (putTongs s c k t).pins = s.pins := rfl
@[simp] theorem putTongs_translations (s : State) (c : Fin 8) (k : Nat) (t : Tongs) : (putTongs s c k t).translations = s.translations := rfl
@[simp] theorem putTongs_routines (s : State) (c : Fin 8) (k : Nat) (t : Tongs) : (putTongs s c k t).routines = s.routines := rfl
@[simp] theorem putTongs_descs (s : State) (c : Fin 8) (k : Nat) (t : Tongs) : (putTongs s c k t).descs = s.descs := rfl
@[simp] theorem putTongs_stageJobs (s : State) (c : Fin 8) (k : Nat) (t : Tongs) : (putTongs s c k t).stageJobs = s.stageJobs := rfl
@[simp] theorem putTongs_evictJobs (s : State) (c : Fin 8) (k : Nat) (t : Tongs) : (putTongs s c k t).evictJobs = s.evictJobs := rfl
@[simp] theorem putTongs_backing (s : State) (c : Fin 8) (k : Nat) (t : Tongs) : (putTongs s c k t).backing = s.backing := rfl
@[simp] theorem putTongs_fills (s : State) (c : Fin 8) (k : Nat) (t : Tongs) : (putTongs s c k t).fills = s.fills := rfl
@[simp] theorem putTongs_tasks (s : State) (c : Fin 8) (k : Nat) (t : Tongs) : (putTongs s c k t).tasks = s.tasks := rfl
@[simp] theorem putTongs_saveAreas (s : State) (c : Fin 8) (k : Nat) (t : Tongs) : (putTongs s c k t).saveAreas = s.saveAreas := rfl
@[simp] theorem putTongs_nextSeq (s : State) (c : Fin 8) (k : Nat) (t : Tongs) : (putTongs s c k t).nextSeq = s.nextSeq := rfl
@[simp] theorem putTongs_tids (s : State) (c : Fin 8) (k : Nat) (t : Tongs) : (putTongs s c k t).tids = s.tids := rfl
@[simp] theorem putTongs_turns (s : State) (c : Fin 8) (k : Nat) (t : Tongs) : (putTongs s c k t).turns = s.turns := rfl
@[simp] theorem putTongs_queues (s : State) (c : Fin 8) (k : Nat) (t : Tongs) : (putTongs s c k t).queues = s.queues := rfl
@[simp] theorem putTongs_deviceQueue (s : State) (c : Fin 8) (k : Nat) (t : Tongs) : (putTongs s c k t).deviceQueue = s.deviceQueue := rfl
@[simp] theorem putTongs_hostPort (s : State) (c : Fin 8) (k : Nat) (t : Tongs) : (putTongs s c k t).hostPort = s.hostPort := rfl
@[simp] theorem putTongs_hostReads (s : State) (c : Fin 8) (k : Nat) (t : Tongs) : (putTongs s c k t).hostReads = s.hostReads := rfl
@[simp] theorem putTongs_contexts (s : State) (c : Fin 8) (k : Nat) (t : Tongs) : (putTongs s c k t).contexts = s.contexts := rfl
@[simp] theorem putTongs_events (s : State) (c : Fin 8) (k : Nat) (t : Tongs) : (putTongs s c k t).events = s.events := rfl
@[simp] theorem putTongs_lines (s : State) (c : Fin 8) (k : Nat) (t : Tongs) : (putTongs s c k t).lines = s.lines := rfl
@[simp] theorem putTongs_domain (s : State) (c : Fin 8) (k : Nat) (t : Tongs) : (putTongs s c k t).domain = s.domain := rfl
@[simp] theorem putTongs_msix (s : State) (c : Fin 8) (k : Nat) (t : Tongs) : (putTongs s c k t).msix = s.msix := rfl
@[simp] theorem putTongs_reports (s : State) (c : Fin 8) (k : Nat) (t : Tongs) : (putTongs s c k t).reports = s.reports := rfl
@[simp] theorem putTongs_power (s : State) (c : Fin 8) (k : Nat) (t : Tongs) : (putTongs s c k t).power = s.power := rfl
@[simp] theorem putTongs_stackCtl (s : State) (c : Fin 8) (k : Nat) (t : Tongs) : (putTongs s c k t).stackCtl = s.stackCtl := rfl
@[simp] theorem putTongs_groups (s : State) (c : Fin 8) (k : Nat) (t : Tongs) : (putTongs s c k t).groups = s.groups := rfl
@[simp] theorem putTongs_ports (s : State) (c : Fin 8) (k : Nat) (t : Tongs) : (putTongs s c k t).ports = s.ports := rfl
@[simp] theorem putTongs_stops (s : State) (c : Fin 8) (k : Nat) (t : Tongs) : (putTongs s c k t).stops = s.stops := rfl
@[simp] theorem putTongs_ready (s : State) (c : Fin 8) (k : Nat) (t : Tongs) : (putTongs s c k t).ready = s.ready := rfl
@[simp] theorem putTongs_readyFail (s : State) (c : Fin 8) (k : Nat) (t : Tongs) : (putTongs s c k t).readyFail = s.readyFail := rfl
@[simp] theorem putTongs_refthr (s : State) (c : Fin 8) (k : Nat) (t : Tongs) : (putTongs s c k t).refthr = s.refthr := rfl
@[simp] theorem putTongs_alarm (s : State) (c : Fin 8) (k : Nat) (t : Tongs) : (putTongs s c k t).alarm = s.alarm := rfl
@[simp] theorem putTongs_pkgnum (s : State) (c : Fin 8) (k : Nat) (t : Tongs) : (putTongs s c k t).pkgnum = s.pkgnum := rfl
@[simp] theorem putTongs_linken (s : State) (c : Fin 8) (k : Nat) (t : Tongs) : (putTongs s c k t).linken = s.linken := rfl
@[simp] theorem putTongs_command (s : State) (c : Fin 8) (k : Nat) (t : Tongs) : (putTongs s c k t).command = s.command := rfl
@[simp] theorem putTongs_mgmtStatus (s : State) (c : Fin 8) (k : Nat) (t : Tongs) : (putTongs s c k t).mgmtStatus = s.mgmtStatus := rfl
@[simp] theorem putTongs_ucie (s : State) (c : Fin 8) (k : Nat) (t : Tongs) : (putTongs s c k t).ucie = s.ucie := rfl
@[simp] theorem putTongs_images (s : State) (c : Fin 8) (k : Nat) (t : Tongs) : (putTongs s c k t).images = s.images := rfl
@[simp] theorem putTongs_measurement (s : State) (c : Fin 8) (k : Nat) (t : Tongs) : (putTongs s c k t).measurement = s.measurement := rfl
@[simp] theorem putTongs_nextSerial (s : State) (c : Fin 8) (k : Nat) (t : Tongs) : (putTongs s c k t).nextSerial = s.nextSerial := rfl

/-! ### `updT` -/

@[simp] theorem updT_agenda (s : State) (t : BitVec 32) (f : Task → Task) : (updT s t f).agenda = s.agenda := rfl
@[simp] theorem updT_cur (s : State) (t : BitVec 32) (f : Task → Task) : (updT s t f).cur = s.cur := rfl
@[simp] theorem updT_freeCtr (s : State) (t : BitVec 32) (f : Task → Task) : (updT s t f).freeCtr = s.freeCtr := rfl
@[simp] theorem updT_powered (s : State) (t : BitVec 32) (f : Task → Task) : (updT s t f).powered = s.powered := rfl
@[simp] theorem updT_ptime (s : State) (t : BitVec 32) (f : Task → Task) : (updT s t f).ptime = s.ptime := rfl
@[simp] theorem updT_arrs (s : State) (t : BitVec 32) (f : Task → Task) : (updT s t f).arrs = s.arrs := rfl
@[simp] theorem updT_clusters (s : State) (t : BitVec 32) (f : Task → Task) : (updT s t f).clusters = s.clusters := rfl
@[simp] theorem updT_mem (s : State) (t : BitVec 32) (f : Task → Task) : (updT s t f).mem = s.mem := rfl
@[simp] theorem updT_poison (s : State) (t : BitVec 32) (f : Task → Task) : (updT s t f).poison = s.poison := rfl
@[simp] theorem updT_toQuarantine (s : State) (t : BitVec 32) (f : Task → Task) : (updT s t f).toQuarantine = s.toQuarantine := rfl
@[simp] theorem updT_objs (s : State) (t : BitVec 32) (f : Task → Task) : (updT s t f).objs = s.objs := rfl
@[simp] theorem updT_headers (s : State) (t : BitVec 32) (f : Task → Task) : (updT s t f).headers = s.headers := rfl
@[simp] theorem updT_markMsgs (s : State) (t : BitVec 32) (f : Task → Task) : (updT s t f).markMsgs = s.markMsgs := rfl
@[simp] theorem updT_moves (s : State) (t : BitVec 32) (f : Task → Task) : (updT s t f).moves = s.moves := rfl
@[simp] theorem updT_port (s : State) (t : BitVec 32) (f : Task → Task) : (updT s t f).port = s.port := rfl
@[simp] theorem updT_pins (s : State) (t : BitVec 32) (f : Task → Task) : (updT s t f).pins = s.pins := rfl
@[simp] theorem updT_translations (s : State) (t : BitVec 32) (f : Task → Task) : (updT s t f).translations = s.translations := rfl
@[simp] theorem updT_routines (s : State) (t : BitVec 32) (f : Task → Task) : (updT s t f).routines = s.routines := rfl
@[simp] theorem updT_descs (s : State) (t : BitVec 32) (f : Task → Task) : (updT s t f).descs = s.descs := rfl
@[simp] theorem updT_stageJobs (s : State) (t : BitVec 32) (f : Task → Task) : (updT s t f).stageJobs = s.stageJobs := rfl
@[simp] theorem updT_evictJobs (s : State) (t : BitVec 32) (f : Task → Task) : (updT s t f).evictJobs = s.evictJobs := rfl
@[simp] theorem updT_backing (s : State) (t : BitVec 32) (f : Task → Task) : (updT s t f).backing = s.backing := rfl
@[simp] theorem updT_fills (s : State) (t : BitVec 32) (f : Task → Task) : (updT s t f).fills = s.fills := rfl
@[simp] theorem updT_saveAreas (s : State) (t : BitVec 32) (f : Task → Task) : (updT s t f).saveAreas = s.saveAreas := rfl
@[simp] theorem updT_nextSeq (s : State) (t : BitVec 32) (f : Task → Task) : (updT s t f).nextSeq = s.nextSeq := rfl
@[simp] theorem updT_tids (s : State) (t : BitVec 32) (f : Task → Task) : (updT s t f).tids = s.tids := rfl
@[simp] theorem updT_turns (s : State) (t : BitVec 32) (f : Task → Task) : (updT s t f).turns = s.turns := rfl
@[simp] theorem updT_queues (s : State) (t : BitVec 32) (f : Task → Task) : (updT s t f).queues = s.queues := rfl
@[simp] theorem updT_deviceQueue (s : State) (t : BitVec 32) (f : Task → Task) : (updT s t f).deviceQueue = s.deviceQueue := rfl
@[simp] theorem updT_hostPort (s : State) (t : BitVec 32) (f : Task → Task) : (updT s t f).hostPort = s.hostPort := rfl
@[simp] theorem updT_hostReads (s : State) (t : BitVec 32) (f : Task → Task) : (updT s t f).hostReads = s.hostReads := rfl
@[simp] theorem updT_contexts (s : State) (t : BitVec 32) (f : Task → Task) : (updT s t f).contexts = s.contexts := rfl
@[simp] theorem updT_events (s : State) (t : BitVec 32) (f : Task → Task) : (updT s t f).events = s.events := rfl
@[simp] theorem updT_lines (s : State) (t : BitVec 32) (f : Task → Task) : (updT s t f).lines = s.lines := rfl
@[simp] theorem updT_domain (s : State) (t : BitVec 32) (f : Task → Task) : (updT s t f).domain = s.domain := rfl
@[simp] theorem updT_msix (s : State) (t : BitVec 32) (f : Task → Task) : (updT s t f).msix = s.msix := rfl
@[simp] theorem updT_reports (s : State) (t : BitVec 32) (f : Task → Task) : (updT s t f).reports = s.reports := rfl
@[simp] theorem updT_power (s : State) (t : BitVec 32) (f : Task → Task) : (updT s t f).power = s.power := rfl
@[simp] theorem updT_stackCtl (s : State) (t : BitVec 32) (f : Task → Task) : (updT s t f).stackCtl = s.stackCtl := rfl
@[simp] theorem updT_groups (s : State) (t : BitVec 32) (f : Task → Task) : (updT s t f).groups = s.groups := rfl
@[simp] theorem updT_ports (s : State) (t : BitVec 32) (f : Task → Task) : (updT s t f).ports = s.ports := rfl
@[simp] theorem updT_stops (s : State) (t : BitVec 32) (f : Task → Task) : (updT s t f).stops = s.stops := rfl
@[simp] theorem updT_ready (s : State) (t : BitVec 32) (f : Task → Task) : (updT s t f).ready = s.ready := rfl
@[simp] theorem updT_readyFail (s : State) (t : BitVec 32) (f : Task → Task) : (updT s t f).readyFail = s.readyFail := rfl
@[simp] theorem updT_refthr (s : State) (t : BitVec 32) (f : Task → Task) : (updT s t f).refthr = s.refthr := rfl
@[simp] theorem updT_alarm (s : State) (t : BitVec 32) (f : Task → Task) : (updT s t f).alarm = s.alarm := rfl
@[simp] theorem updT_pkgnum (s : State) (t : BitVec 32) (f : Task → Task) : (updT s t f).pkgnum = s.pkgnum := rfl
@[simp] theorem updT_linken (s : State) (t : BitVec 32) (f : Task → Task) : (updT s t f).linken = s.linken := rfl
@[simp] theorem updT_command (s : State) (t : BitVec 32) (f : Task → Task) : (updT s t f).command = s.command := rfl
@[simp] theorem updT_mgmtStatus (s : State) (t : BitVec 32) (f : Task → Task) : (updT s t f).mgmtStatus = s.mgmtStatus := rfl
@[simp] theorem updT_ucie (s : State) (t : BitVec 32) (f : Task → Task) : (updT s t f).ucie = s.ucie := rfl
@[simp] theorem updT_images (s : State) (t : BitVec 32) (f : Task → Task) : (updT s t f).images = s.images := rfl
@[simp] theorem updT_measurement (s : State) (t : BitVec 32) (f : Task → Task) : (updT s t f).measurement = s.measurement := rfl
@[simp] theorem updT_nextSerial (s : State) (t : BitVec 32) (f : Task → Task) : (updT s t f).nextSerial = s.nextSerial := rfl

/-! ### `bump` -/

@[simp] theorem bump_agenda (s : State) : (bump s).agenda = s.agenda := rfl
@[simp] theorem bump_cur (s : State) : (bump s).cur = s.cur := rfl
@[simp] theorem bump_powered (s : State) : (bump s).powered = s.powered := rfl
@[simp] theorem bump_ptime (s : State) : (bump s).ptime = s.ptime := rfl
@[simp] theorem bump_arrs (s : State) : (bump s).arrs = s.arrs := rfl
@[simp] theorem bump_clusters (s : State) : (bump s).clusters = s.clusters := rfl
@[simp] theorem bump_mem (s : State) : (bump s).mem = s.mem := rfl
@[simp] theorem bump_poison (s : State) : (bump s).poison = s.poison := rfl
@[simp] theorem bump_toQuarantine (s : State) : (bump s).toQuarantine = s.toQuarantine := rfl
@[simp] theorem bump_objs (s : State) : (bump s).objs = s.objs := rfl
@[simp] theorem bump_headers (s : State) : (bump s).headers = s.headers := rfl
@[simp] theorem bump_markMsgs (s : State) : (bump s).markMsgs = s.markMsgs := rfl
@[simp] theorem bump_moves (s : State) : (bump s).moves = s.moves := rfl
@[simp] theorem bump_port (s : State) : (bump s).port = s.port := rfl
@[simp] theorem bump_pins (s : State) : (bump s).pins = s.pins := rfl
@[simp] theorem bump_translations (s : State) : (bump s).translations = s.translations := rfl
@[simp] theorem bump_routines (s : State) : (bump s).routines = s.routines := rfl
@[simp] theorem bump_descs (s : State) : (bump s).descs = s.descs := rfl
@[simp] theorem bump_stageJobs (s : State) : (bump s).stageJobs = s.stageJobs := rfl
@[simp] theorem bump_evictJobs (s : State) : (bump s).evictJobs = s.evictJobs := rfl
@[simp] theorem bump_backing (s : State) : (bump s).backing = s.backing := rfl
@[simp] theorem bump_fills (s : State) : (bump s).fills = s.fills := rfl
@[simp] theorem bump_tasks (s : State) : (bump s).tasks = s.tasks := rfl
@[simp] theorem bump_saveAreas (s : State) : (bump s).saveAreas = s.saveAreas := rfl
@[simp] theorem bump_nextSeq (s : State) : (bump s).nextSeq = s.nextSeq := rfl
@[simp] theorem bump_tids (s : State) : (bump s).tids = s.tids := rfl
@[simp] theorem bump_turns (s : State) : (bump s).turns = s.turns := rfl
@[simp] theorem bump_queues (s : State) : (bump s).queues = s.queues := rfl
@[simp] theorem bump_deviceQueue (s : State) : (bump s).deviceQueue = s.deviceQueue := rfl
@[simp] theorem bump_hostPort (s : State) : (bump s).hostPort = s.hostPort := rfl
@[simp] theorem bump_hostReads (s : State) : (bump s).hostReads = s.hostReads := rfl
@[simp] theorem bump_contexts (s : State) : (bump s).contexts = s.contexts := rfl
@[simp] theorem bump_events (s : State) : (bump s).events = s.events := rfl
@[simp] theorem bump_lines (s : State) : (bump s).lines = s.lines := rfl
@[simp] theorem bump_domain (s : State) : (bump s).domain = s.domain := rfl
@[simp] theorem bump_msix (s : State) : (bump s).msix = s.msix := rfl
@[simp] theorem bump_reports (s : State) : (bump s).reports = s.reports := rfl
@[simp] theorem bump_power (s : State) : (bump s).power = s.power := rfl
@[simp] theorem bump_stackCtl (s : State) : (bump s).stackCtl = s.stackCtl := rfl
@[simp] theorem bump_groups (s : State) : (bump s).groups = s.groups := rfl
@[simp] theorem bump_ports (s : State) : (bump s).ports = s.ports := rfl
@[simp] theorem bump_stops (s : State) : (bump s).stops = s.stops := rfl
@[simp] theorem bump_ready (s : State) : (bump s).ready = s.ready := rfl
@[simp] theorem bump_readyFail (s : State) : (bump s).readyFail = s.readyFail := rfl
@[simp] theorem bump_refthr (s : State) : (bump s).refthr = s.refthr := rfl
@[simp] theorem bump_alarm (s : State) : (bump s).alarm = s.alarm := rfl
@[simp] theorem bump_pkgnum (s : State) : (bump s).pkgnum = s.pkgnum := rfl
@[simp] theorem bump_linken (s : State) : (bump s).linken = s.linken := rfl
@[simp] theorem bump_command (s : State) : (bump s).command = s.command := rfl
@[simp] theorem bump_mgmtStatus (s : State) : (bump s).mgmtStatus = s.mgmtStatus := rfl
@[simp] theorem bump_ucie (s : State) : (bump s).ucie = s.ucie := rfl
@[simp] theorem bump_images (s : State) : (bump s).images = s.images := rfl
@[simp] theorem bump_measurement (s : State) : (bump s).measurement = s.measurement := rfl
@[simp] theorem bump_nextSerial (s : State) : (bump s).nextSerial = s.nextSerial := rfl

/-! ### `dropLines` -/

@[simp] theorem dropLines_agenda (s : State) (l : List (Fin 32)) : (dropLines s l).agenda = s.agenda := rfl
@[simp] theorem dropLines_cur (s : State) (l : List (Fin 32)) : (dropLines s l).cur = s.cur := rfl
@[simp] theorem dropLines_freeCtr (s : State) (l : List (Fin 32)) : (dropLines s l).freeCtr = s.freeCtr := rfl
@[simp] theorem dropLines_powered (s : State) (l : List (Fin 32)) : (dropLines s l).powered = s.powered := rfl
@[simp] theorem dropLines_ptime (s : State) (l : List (Fin 32)) : (dropLines s l).ptime = s.ptime := rfl
@[simp] theorem dropLines_arrs (s : State) (l : List (Fin 32)) : (dropLines s l).arrs = s.arrs := rfl
@[simp] theorem dropLines_clusters (s : State) (l : List (Fin 32)) : (dropLines s l).clusters = s.clusters := rfl
@[simp] theorem dropLines_mem (s : State) (l : List (Fin 32)) : (dropLines s l).mem = s.mem := rfl
@[simp] theorem dropLines_poison (s : State) (l : List (Fin 32)) : (dropLines s l).poison = s.poison := rfl
@[simp] theorem dropLines_toQuarantine (s : State) (l : List (Fin 32)) : (dropLines s l).toQuarantine = s.toQuarantine := rfl
@[simp] theorem dropLines_objs (s : State) (l : List (Fin 32)) : (dropLines s l).objs = s.objs := rfl
@[simp] theorem dropLines_headers (s : State) (l : List (Fin 32)) : (dropLines s l).headers = s.headers := rfl
@[simp] theorem dropLines_markMsgs (s : State) (l : List (Fin 32)) : (dropLines s l).markMsgs = s.markMsgs := rfl
@[simp] theorem dropLines_moves (s : State) (l : List (Fin 32)) : (dropLines s l).moves = s.moves := rfl
@[simp] theorem dropLines_port (s : State) (l : List (Fin 32)) : (dropLines s l).port = s.port := rfl
@[simp] theorem dropLines_pins (s : State) (l : List (Fin 32)) : (dropLines s l).pins = s.pins := rfl
@[simp] theorem dropLines_translations (s : State) (l : List (Fin 32)) : (dropLines s l).translations = s.translations := rfl
@[simp] theorem dropLines_routines (s : State) (l : List (Fin 32)) : (dropLines s l).routines = s.routines := rfl
@[simp] theorem dropLines_descs (s : State) (l : List (Fin 32)) : (dropLines s l).descs = s.descs := rfl
@[simp] theorem dropLines_stageJobs (s : State) (l : List (Fin 32)) : (dropLines s l).stageJobs = s.stageJobs := rfl
@[simp] theorem dropLines_evictJobs (s : State) (l : List (Fin 32)) : (dropLines s l).evictJobs = s.evictJobs := rfl
@[simp] theorem dropLines_backing (s : State) (l : List (Fin 32)) : (dropLines s l).backing = s.backing := rfl
@[simp] theorem dropLines_fills (s : State) (l : List (Fin 32)) : (dropLines s l).fills = s.fills := rfl
@[simp] theorem dropLines_tasks (s : State) (l : List (Fin 32)) : (dropLines s l).tasks = s.tasks := rfl
@[simp] theorem dropLines_saveAreas (s : State) (l : List (Fin 32)) : (dropLines s l).saveAreas = s.saveAreas := rfl
@[simp] theorem dropLines_nextSeq (s : State) (l : List (Fin 32)) : (dropLines s l).nextSeq = s.nextSeq := rfl
@[simp] theorem dropLines_tids (s : State) (l : List (Fin 32)) : (dropLines s l).tids = s.tids := rfl
@[simp] theorem dropLines_turns (s : State) (l : List (Fin 32)) : (dropLines s l).turns = s.turns := rfl
@[simp] theorem dropLines_queues (s : State) (l : List (Fin 32)) : (dropLines s l).queues = s.queues := rfl
@[simp] theorem dropLines_deviceQueue (s : State) (l : List (Fin 32)) : (dropLines s l).deviceQueue = s.deviceQueue := rfl
@[simp] theorem dropLines_hostPort (s : State) (l : List (Fin 32)) : (dropLines s l).hostPort = s.hostPort := rfl
@[simp] theorem dropLines_hostReads (s : State) (l : List (Fin 32)) : (dropLines s l).hostReads = s.hostReads := rfl
@[simp] theorem dropLines_contexts (s : State) (l : List (Fin 32)) : (dropLines s l).contexts = s.contexts := rfl
@[simp] theorem dropLines_events (s : State) (l : List (Fin 32)) : (dropLines s l).events = s.events := rfl
@[simp] theorem dropLines_domain (s : State) (l : List (Fin 32)) : (dropLines s l).domain = s.domain := rfl
@[simp] theorem dropLines_msix (s : State) (l : List (Fin 32)) : (dropLines s l).msix = s.msix := rfl
@[simp] theorem dropLines_reports (s : State) (l : List (Fin 32)) : (dropLines s l).reports = s.reports := rfl
@[simp] theorem dropLines_power (s : State) (l : List (Fin 32)) : (dropLines s l).power = s.power := rfl
@[simp] theorem dropLines_stackCtl (s : State) (l : List (Fin 32)) : (dropLines s l).stackCtl = s.stackCtl := rfl
@[simp] theorem dropLines_groups (s : State) (l : List (Fin 32)) : (dropLines s l).groups = s.groups := rfl
@[simp] theorem dropLines_ports (s : State) (l : List (Fin 32)) : (dropLines s l).ports = s.ports := rfl
@[simp] theorem dropLines_stops (s : State) (l : List (Fin 32)) : (dropLines s l).stops = s.stops := rfl
@[simp] theorem dropLines_ready (s : State) (l : List (Fin 32)) : (dropLines s l).ready = s.ready := rfl
@[simp] theorem dropLines_readyFail (s : State) (l : List (Fin 32)) : (dropLines s l).readyFail = s.readyFail := rfl
@[simp] theorem dropLines_refthr (s : State) (l : List (Fin 32)) : (dropLines s l).refthr = s.refthr := rfl
@[simp] theorem dropLines_alarm (s : State) (l : List (Fin 32)) : (dropLines s l).alarm = s.alarm := rfl
@[simp] theorem dropLines_pkgnum (s : State) (l : List (Fin 32)) : (dropLines s l).pkgnum = s.pkgnum := rfl
@[simp] theorem dropLines_linken (s : State) (l : List (Fin 32)) : (dropLines s l).linken = s.linken := rfl
@[simp] theorem dropLines_command (s : State) (l : List (Fin 32)) : (dropLines s l).command = s.command := rfl
@[simp] theorem dropLines_mgmtStatus (s : State) (l : List (Fin 32)) : (dropLines s l).mgmtStatus = s.mgmtStatus := rfl
@[simp] theorem dropLines_ucie (s : State) (l : List (Fin 32)) : (dropLines s l).ucie = s.ucie := rfl
@[simp] theorem dropLines_images (s : State) (l : List (Fin 32)) : (dropLines s l).images = s.images := rfl
@[simp] theorem dropLines_measurement (s : State) (l : List (Fin 32)) : (dropLines s l).measurement = s.measurement := rfl
@[simp] theorem dropLines_nextSerial (s : State) (l : List (Fin 32)) : (dropLines s l).nextSerial = s.nextSerial := rfl

/-! ### `Arr.ws` -/

@[simp] theorem Arr.ws_task (x : Arr) (d : Fin 32) (v : Word64) : (x.ws d v).task = x.task := rfl
@[simp] theorem Arr.ws_ctx (x : Arr) (d : Fin 32) (v : Word64) : (x.ws d v).ctx = x.ctx := rfl
@[simp] theorem Arr.ws_grpIdx (x : Arr) (d : Fin 32) (v : Word64) : (x.ws d v).grpIdx = x.grpIdx := rfl
@[simp] theorem Arr.ws_group (x : Arr) (d : Fin 32) (v : Word64) : (x.ws d v).group = x.group := rfl
@[simp] theorem Arr.ws_kind (x : Arr) (d : Fin 32) (v : Word64) : (x.ws d v).kind = x.kind := rfl
@[simp] theorem Arr.ws_prog (x : Arr) (d : Fin 32) (v : Word64) : (x.ws d v).prog = x.prog := rfl
@[simp] theorem Arr.ws_run (x : Arr) (d : Fin 32) (v : Word64) : (x.ws d v).run = x.run := rfl
@[simp] theorem Arr.ws_due (x : Arr) (d : Fin 32) (v : Word64) : (x.ws d v).due = x.due := rfl
@[simp] theorem Arr.ws_resume (x : Arr) (d : Fin 32) (v : Word64) : (x.ws d v).resume = x.resume := rfl
@[simp] theorem Arr.ws_resumeNext (x : Arr) (d : Fin 32) (v : Word64) : (x.ws d v).resumeNext = x.resumeNext := rfl
@[simp] theorem Arr.ws_reenter (x : Arr) (d : Fin 32) (v : Word64) : (x.ws d v).reenter = x.reenter := rfl
@[simp] theorem Arr.ws_ending (x : Arr) (d : Fin 32) (v : Word64) : (x.ws d v).ending = x.ending := rfl
@[simp] theorem Arr.ws_gap (x : Arr) (d : Fin 32) (v : Word64) : (x.ws d v).gap = x.gap := rfl
@[simp] theorem Arr.ws_released (x : Arr) (d : Fin 32) (v : Word64) : (x.ws d v).released = x.released := rfl
@[simp] theorem Arr.ws_freeze (x : Arr) (d : Fin 32) (v : Word64) : (x.ws d v).freeze = x.freeze := rfl
@[simp] theorem Arr.ws_park (x : Arr) (d : Fin 32) (v : Word64) : (x.ws d v).park = x.park := rfl
@[simp] theorem Arr.ws_phcancel (x : Arr) (d : Fin 32) (v : Word64) : (x.ws d v).phcancel = x.phcancel := rfl
@[simp] theorem Arr.ws_halt (x : Arr) (d : Fin 32) (v : Word64) : (x.ws d v).halt = x.halt := rfl
@[simp] theorem Arr.ws_transfer (x : Arr) (d : Fin 32) (v : Word64) : (x.ws d v).transfer = x.transfer := rfl
@[simp] theorem Arr.ws_handler (x : Arr) (d : Fin 32) (v : Word64) : (x.ws d v).handler = x.handler := rfl
@[simp] theorem Arr.ws_latch (x : Arr) (d : Fin 32) (v : Word64) : (x.ws d v).latch = x.latch := rfl
@[simp] theorem Arr.ws_snap (x : Arr) (d : Fin 32) (v : Word64) : (x.ws d v).snap = x.snap := rfl
@[simp] theorem Arr.ws_pendS (x : Arr) (d : Fin 32) (v : Word64) : (x.ws d v).pendS = x.pendS := rfl
@[simp] theorem Arr.ws_flagPend (x : Arr) (d : Fin 32) (v : Word64) : (x.ws d v).flagPend = x.flagPend := rfl
@[simp] theorem Arr.ws_traps (x : Arr) (d : Fin 32) (v : Word64) : (x.ws d v).traps = x.traps := rfl
@[simp] theorem Arr.ws_slotTrap (x : Arr) (d : Fin 32) (v : Word64) : (x.ws d v).slotTrap = x.slotTrap := rfl
@[simp] theorem Arr.ws_acnt (x : Arr) (d : Fin 32) (v : Word64) : (x.ws d v).acnt = x.acnt := rfl
@[simp] theorem Arr.ws_fcnt (x : Arr) (d : Fin 32) (v : Word64) : (x.ws d v).fcnt = x.fcnt := rfl
@[simp] theorem Arr.ws_retIv (x : Arr) (d : Fin 32) (v : Word64) : (x.ws d v).retIv = x.retIv := rfl
@[simp] theorem Arr.ws_retLeft (x : Arr) (d : Fin 32) (v : Word64) : (x.ws d v).retLeft = x.retLeft := rfl
@[simp] theorem Arr.ws_phNum (x : Arr) (d : Fin 32) (v : Word64) : (x.ws d v).phNum = x.phNum := rfl
@[simp] theorem Arr.ws_phDirty (x : Arr) (d : Fin 32) (v : Word64) : (x.ws d v).phDirty = x.phDirty := rfl
@[simp] theorem Arr.ws_cancels (x : Arr) (d : Fin 32) (v : Word64) : (x.ws d v).cancels = x.cancels := rfl
@[simp] theorem Arr.ws_clease (x : Arr) (d : Fin 32) (v : Word64) : (x.ws d v).clease = x.clease := rfl
@[simp] theorem Arr.ws_firstBundle (x : Arr) (d : Fin 32) (v : Word64) : (x.ws d v).firstBundle = x.firstBundle := rfl
@[simp] theorem Arr.ws_aligned (x : Arr) (d : Fin 32) (v : Word64) : (x.ws d v).aligned = x.aligned := rfl
@[simp] theorem Arr.ws_leaveClass (x : Arr) (d : Fin 32) (v : Word64) : (x.ws d v).leaveClass = x.leaveClass := rfl
@[simp] theorem Arr.ws_leaveLeft (x : Arr) (d : Fin 32) (v : Word64) : (x.ws d v).leaveLeft = x.leaveLeft := rfl
@[simp] theorem Arr.ws_scChain (x : Arr) (d : Fin 32) (v : Word64) : (x.ws d v).scChain = x.scChain := rfl
@[simp] theorem Arr.ws_scope (x : Arr) (d : Fin 32) (v : Word64) : (x.ws d v).scope = x.scope := rfl
@[simp] theorem Arr.ws_streams (x : Arr) (d : Fin 32) (v : Word64) : (x.ws d v).streams = x.streams := rfl
@[simp] theorem Arr.ws_reposition (x : Arr) (d : Fin 32) (v : Word64) : (x.ws d v).reposition = x.reposition := rfl
@[simp] theorem Arr.ws_north (x : Arr) (d : Fin 32) (v : Word64) : (x.ws d v).north = x.north := rfl
@[simp] theorem Arr.ws_west (x : Arr) (d : Fin 32) (v : Word64) : (x.ws d v).west = x.west := rfl
@[simp] theorem Arr.ws_sorter (x : Arr) (d : Fin 32) (v : Word64) : (x.ws d v).sorter = x.sorter := rfl
@[simp] theorem Arr.ws_edge (x : Arr) (d : Fin 32) (v : Word64) : (x.ws d v).edge = x.edge := rfl
@[simp] theorem Arr.ws_edgeCmds (x : Arr) (d : Fin 32) (v : Word64) : (x.ws d v).edgeCmds = x.edgeCmds := rfl
@[simp] theorem Arr.ws_captures (x : Arr) (d : Fin 32) (v : Word64) : (x.ws d v).captures = x.captures := rfl
@[simp] theorem Arr.ws_wave (x : Arr) (d : Fin 32) (v : Word64) : (x.ws d v).wave = x.wave := rfl
@[simp] theorem Arr.ws_phaseMark (x : Arr) (d : Fin 32) (v : Word64) : (x.ws d v).phaseMark = x.phaseMark := rfl
@[simp] theorem Arr.ws_steps (x : Arr) (d : Fin 32) (v : Word64) : (x.ws d v).steps = x.steps := rfl
@[simp] theorem Arr.ws_link (x : Arr) (d : Fin 32) (v : Word64) : (x.ws d v).link = x.link := rfl
@[simp] theorem Arr.ws_cells (x : Arr) (d : Fin 32) (v : Word64) : (x.ws d v).cells = x.cells := rfl
@[simp] theorem Arr.ws_prev (x : Arr) (d : Fin 32) (v : Word64) : (x.ws d v).prev = x.prev := rfl
@[simp] theorem Arr.ws_done (x : Arr) (d : Fin 32) (v : Word64) : (x.ws d v).done = x.done := rfl
@[simp] theorem Arr.ws_queue (x : Arr) (d : Fin 32) (v : Word64) : (x.ws d v).queue = x.queue := rfl
@[simp] theorem Arr.ws_nextId (x : Arr) (d : Fin 32) (v : Word64) : (x.ws d v).nextId = x.nextId := rfl
@[simp] theorem Arr.ws_point (x : Arr) (d : Fin 32) (v : Word64) : (x.ws d v).point = x.point := rfl
@[simp] theorem Arr.ws_sq (x : Arr) (d : Fin 32) (v : Word64) : (x.ws d v).sq = x.sq := rfl
@[simp] theorem Arr.ws_sprints (x : Arr) (d : Fin 32) (v : Word64) : (x.ws d v).sprints = x.sprints := rfl

/-! ### `Arr.pendWrite` -/

@[simp] theorem Arr.pendWrite_task (x : Arr) (w : SeqWrite) (n : Nat) : (x.pendWrite w n).task = x.task := rfl
@[simp] theorem Arr.pendWrite_ctx (x : Arr) (w : SeqWrite) (n : Nat) : (x.pendWrite w n).ctx = x.ctx := rfl
@[simp] theorem Arr.pendWrite_grpIdx (x : Arr) (w : SeqWrite) (n : Nat) : (x.pendWrite w n).grpIdx = x.grpIdx := rfl
@[simp] theorem Arr.pendWrite_group (x : Arr) (w : SeqWrite) (n : Nat) : (x.pendWrite w n).group = x.group := rfl
@[simp] theorem Arr.pendWrite_kind (x : Arr) (w : SeqWrite) (n : Nat) : (x.pendWrite w n).kind = x.kind := rfl
@[simp] theorem Arr.pendWrite_prog (x : Arr) (w : SeqWrite) (n : Nat) : (x.pendWrite w n).prog = x.prog := rfl
@[simp] theorem Arr.pendWrite_run (x : Arr) (w : SeqWrite) (n : Nat) : (x.pendWrite w n).run = x.run := rfl
@[simp] theorem Arr.pendWrite_due (x : Arr) (w : SeqWrite) (n : Nat) : (x.pendWrite w n).due = x.due := rfl
@[simp] theorem Arr.pendWrite_resume (x : Arr) (w : SeqWrite) (n : Nat) : (x.pendWrite w n).resume = x.resume := rfl
@[simp] theorem Arr.pendWrite_resumeNext (x : Arr) (w : SeqWrite) (n : Nat) : (x.pendWrite w n).resumeNext = x.resumeNext := rfl
@[simp] theorem Arr.pendWrite_reenter (x : Arr) (w : SeqWrite) (n : Nat) : (x.pendWrite w n).reenter = x.reenter := rfl
@[simp] theorem Arr.pendWrite_ending (x : Arr) (w : SeqWrite) (n : Nat) : (x.pendWrite w n).ending = x.ending := rfl
@[simp] theorem Arr.pendWrite_gap (x : Arr) (w : SeqWrite) (n : Nat) : (x.pendWrite w n).gap = x.gap := rfl
@[simp] theorem Arr.pendWrite_released (x : Arr) (w : SeqWrite) (n : Nat) : (x.pendWrite w n).released = x.released := rfl
@[simp] theorem Arr.pendWrite_freeze (x : Arr) (w : SeqWrite) (n : Nat) : (x.pendWrite w n).freeze = x.freeze := rfl
@[simp] theorem Arr.pendWrite_park (x : Arr) (w : SeqWrite) (n : Nat) : (x.pendWrite w n).park = x.park := rfl
@[simp] theorem Arr.pendWrite_phcancel (x : Arr) (w : SeqWrite) (n : Nat) : (x.pendWrite w n).phcancel = x.phcancel := rfl
@[simp] theorem Arr.pendWrite_halt (x : Arr) (w : SeqWrite) (n : Nat) : (x.pendWrite w n).halt = x.halt := rfl
@[simp] theorem Arr.pendWrite_transfer (x : Arr) (w : SeqWrite) (n : Nat) : (x.pendWrite w n).transfer = x.transfer := rfl
@[simp] theorem Arr.pendWrite_handler (x : Arr) (w : SeqWrite) (n : Nat) : (x.pendWrite w n).handler = x.handler := rfl
@[simp] theorem Arr.pendWrite_latch (x : Arr) (w : SeqWrite) (n : Nat) : (x.pendWrite w n).latch = x.latch := rfl
@[simp] theorem Arr.pendWrite_snap (x : Arr) (w : SeqWrite) (n : Nat) : (x.pendWrite w n).snap = x.snap := rfl
@[simp] theorem Arr.pendWrite_regs (x : Arr) (w : SeqWrite) (n : Nat) : (x.pendWrite w n).regs = x.regs := rfl
@[simp] theorem Arr.pendWrite_pendS (x : Arr) (w : SeqWrite) (n : Nat) : (x.pendWrite w n).pendS = x.pendS := rfl
@[simp] theorem Arr.pendWrite_flagPend (x : Arr) (w : SeqWrite) (n : Nat) : (x.pendWrite w n).flagPend = x.flagPend := rfl
@[simp] theorem Arr.pendWrite_traps (x : Arr) (w : SeqWrite) (n : Nat) : (x.pendWrite w n).traps = x.traps := rfl
@[simp] theorem Arr.pendWrite_slotTrap (x : Arr) (w : SeqWrite) (n : Nat) : (x.pendWrite w n).slotTrap = x.slotTrap := rfl
@[simp] theorem Arr.pendWrite_acnt (x : Arr) (w : SeqWrite) (n : Nat) : (x.pendWrite w n).acnt = x.acnt := rfl
@[simp] theorem Arr.pendWrite_fcnt (x : Arr) (w : SeqWrite) (n : Nat) : (x.pendWrite w n).fcnt = x.fcnt := rfl
@[simp] theorem Arr.pendWrite_retIv (x : Arr) (w : SeqWrite) (n : Nat) : (x.pendWrite w n).retIv = x.retIv := rfl
@[simp] theorem Arr.pendWrite_retLeft (x : Arr) (w : SeqWrite) (n : Nat) : (x.pendWrite w n).retLeft = x.retLeft := rfl
@[simp] theorem Arr.pendWrite_phNum (x : Arr) (w : SeqWrite) (n : Nat) : (x.pendWrite w n).phNum = x.phNum := rfl
@[simp] theorem Arr.pendWrite_phDirty (x : Arr) (w : SeqWrite) (n : Nat) : (x.pendWrite w n).phDirty = x.phDirty := rfl
@[simp] theorem Arr.pendWrite_cancels (x : Arr) (w : SeqWrite) (n : Nat) : (x.pendWrite w n).cancels = x.cancels := rfl
@[simp] theorem Arr.pendWrite_clease (x : Arr) (w : SeqWrite) (n : Nat) : (x.pendWrite w n).clease = x.clease := rfl
@[simp] theorem Arr.pendWrite_firstBundle (x : Arr) (w : SeqWrite) (n : Nat) : (x.pendWrite w n).firstBundle = x.firstBundle := rfl
@[simp] theorem Arr.pendWrite_aligned (x : Arr) (w : SeqWrite) (n : Nat) : (x.pendWrite w n).aligned = x.aligned := rfl
@[simp] theorem Arr.pendWrite_leaveClass (x : Arr) (w : SeqWrite) (n : Nat) : (x.pendWrite w n).leaveClass = x.leaveClass := rfl
@[simp] theorem Arr.pendWrite_leaveLeft (x : Arr) (w : SeqWrite) (n : Nat) : (x.pendWrite w n).leaveLeft = x.leaveLeft := rfl
@[simp] theorem Arr.pendWrite_scChain (x : Arr) (w : SeqWrite) (n : Nat) : (x.pendWrite w n).scChain = x.scChain := rfl
@[simp] theorem Arr.pendWrite_scope (x : Arr) (w : SeqWrite) (n : Nat) : (x.pendWrite w n).scope = x.scope := rfl
@[simp] theorem Arr.pendWrite_streams (x : Arr) (w : SeqWrite) (n : Nat) : (x.pendWrite w n).streams = x.streams := rfl
@[simp] theorem Arr.pendWrite_reposition (x : Arr) (w : SeqWrite) (n : Nat) : (x.pendWrite w n).reposition = x.reposition := rfl
@[simp] theorem Arr.pendWrite_north (x : Arr) (w : SeqWrite) (n : Nat) : (x.pendWrite w n).north = x.north := rfl
@[simp] theorem Arr.pendWrite_west (x : Arr) (w : SeqWrite) (n : Nat) : (x.pendWrite w n).west = x.west := rfl
@[simp] theorem Arr.pendWrite_sorter (x : Arr) (w : SeqWrite) (n : Nat) : (x.pendWrite w n).sorter = x.sorter := rfl
@[simp] theorem Arr.pendWrite_edge (x : Arr) (w : SeqWrite) (n : Nat) : (x.pendWrite w n).edge = x.edge := rfl
@[simp] theorem Arr.pendWrite_edgeCmds (x : Arr) (w : SeqWrite) (n : Nat) : (x.pendWrite w n).edgeCmds = x.edgeCmds := rfl
@[simp] theorem Arr.pendWrite_captures (x : Arr) (w : SeqWrite) (n : Nat) : (x.pendWrite w n).captures = x.captures := rfl
@[simp] theorem Arr.pendWrite_wave (x : Arr) (w : SeqWrite) (n : Nat) : (x.pendWrite w n).wave = x.wave := rfl
@[simp] theorem Arr.pendWrite_phaseMark (x : Arr) (w : SeqWrite) (n : Nat) : (x.pendWrite w n).phaseMark = x.phaseMark := rfl
@[simp] theorem Arr.pendWrite_steps (x : Arr) (w : SeqWrite) (n : Nat) : (x.pendWrite w n).steps = x.steps := rfl
@[simp] theorem Arr.pendWrite_link (x : Arr) (w : SeqWrite) (n : Nat) : (x.pendWrite w n).link = x.link := rfl
@[simp] theorem Arr.pendWrite_cells (x : Arr) (w : SeqWrite) (n : Nat) : (x.pendWrite w n).cells = x.cells := rfl
@[simp] theorem Arr.pendWrite_prev (x : Arr) (w : SeqWrite) (n : Nat) : (x.pendWrite w n).prev = x.prev := rfl
@[simp] theorem Arr.pendWrite_done (x : Arr) (w : SeqWrite) (n : Nat) : (x.pendWrite w n).done = x.done := rfl
@[simp] theorem Arr.pendWrite_queue (x : Arr) (w : SeqWrite) (n : Nat) : (x.pendWrite w n).queue = x.queue := rfl
@[simp] theorem Arr.pendWrite_nextId (x : Arr) (w : SeqWrite) (n : Nat) : (x.pendWrite w n).nextId = x.nextId := rfl
@[simp] theorem Arr.pendWrite_point (x : Arr) (w : SeqWrite) (n : Nat) : (x.pendWrite w n).point = x.point := rfl
@[simp] theorem Arr.pendWrite_sq (x : Arr) (w : SeqWrite) (n : Nat) : (x.pendWrite w n).sq = x.sq := rfl
@[simp] theorem Arr.pendWrite_sprints (x : Arr) (w : SeqWrite) (n : Nat) : (x.pendWrite w n).sprints = x.sprints := rfl

/-! ### `Arr.supersedeP` -/

@[simp] theorem Arr.supersedeP_task (x : Arr) (d : Fin 8) (k n : Nat) : (x.supersedeP d k n).task = x.task := rfl
@[simp] theorem Arr.supersedeP_ctx (x : Arr) (d : Fin 8) (k n : Nat) : (x.supersedeP d k n).ctx = x.ctx := rfl
@[simp] theorem Arr.supersedeP_grpIdx (x : Arr) (d : Fin 8) (k n : Nat) : (x.supersedeP d k n).grpIdx = x.grpIdx := rfl
@[simp] theorem Arr.supersedeP_group (x : Arr) (d : Fin 8) (k n : Nat) : (x.supersedeP d k n).group = x.group := rfl
@[simp] theorem Arr.supersedeP_kind (x : Arr) (d : Fin 8) (k n : Nat) : (x.supersedeP d k n).kind = x.kind := rfl
@[simp] theorem Arr.supersedeP_prog (x : Arr) (d : Fin 8) (k n : Nat) : (x.supersedeP d k n).prog = x.prog := rfl
@[simp] theorem Arr.supersedeP_run (x : Arr) (d : Fin 8) (k n : Nat) : (x.supersedeP d k n).run = x.run := rfl
@[simp] theorem Arr.supersedeP_due (x : Arr) (d : Fin 8) (k n : Nat) : (x.supersedeP d k n).due = x.due := rfl
@[simp] theorem Arr.supersedeP_resume (x : Arr) (d : Fin 8) (k n : Nat) : (x.supersedeP d k n).resume = x.resume := rfl
@[simp] theorem Arr.supersedeP_resumeNext (x : Arr) (d : Fin 8) (k n : Nat) : (x.supersedeP d k n).resumeNext = x.resumeNext := rfl
@[simp] theorem Arr.supersedeP_reenter (x : Arr) (d : Fin 8) (k n : Nat) : (x.supersedeP d k n).reenter = x.reenter := rfl
@[simp] theorem Arr.supersedeP_ending (x : Arr) (d : Fin 8) (k n : Nat) : (x.supersedeP d k n).ending = x.ending := rfl
@[simp] theorem Arr.supersedeP_gap (x : Arr) (d : Fin 8) (k n : Nat) : (x.supersedeP d k n).gap = x.gap := rfl
@[simp] theorem Arr.supersedeP_released (x : Arr) (d : Fin 8) (k n : Nat) : (x.supersedeP d k n).released = x.released := rfl
@[simp] theorem Arr.supersedeP_freeze (x : Arr) (d : Fin 8) (k n : Nat) : (x.supersedeP d k n).freeze = x.freeze := rfl
@[simp] theorem Arr.supersedeP_park (x : Arr) (d : Fin 8) (k n : Nat) : (x.supersedeP d k n).park = x.park := rfl
@[simp] theorem Arr.supersedeP_phcancel (x : Arr) (d : Fin 8) (k n : Nat) : (x.supersedeP d k n).phcancel = x.phcancel := rfl
@[simp] theorem Arr.supersedeP_halt (x : Arr) (d : Fin 8) (k n : Nat) : (x.supersedeP d k n).halt = x.halt := rfl
@[simp] theorem Arr.supersedeP_transfer (x : Arr) (d : Fin 8) (k n : Nat) : (x.supersedeP d k n).transfer = x.transfer := rfl
@[simp] theorem Arr.supersedeP_handler (x : Arr) (d : Fin 8) (k n : Nat) : (x.supersedeP d k n).handler = x.handler := rfl
@[simp] theorem Arr.supersedeP_latch (x : Arr) (d : Fin 8) (k n : Nat) : (x.supersedeP d k n).latch = x.latch := rfl
@[simp] theorem Arr.supersedeP_snap (x : Arr) (d : Fin 8) (k n : Nat) : (x.supersedeP d k n).snap = x.snap := rfl
@[simp] theorem Arr.supersedeP_regs (x : Arr) (d : Fin 8) (k n : Nat) : (x.supersedeP d k n).regs = x.regs := rfl
@[simp] theorem Arr.supersedeP_pendS (x : Arr) (d : Fin 8) (k n : Nat) : (x.supersedeP d k n).pendS = x.pendS := rfl
@[simp] theorem Arr.supersedeP_regPend (x : Arr) (d : Fin 8) (k n : Nat) : (x.supersedeP d k n).regPend = x.regPend := rfl
@[simp] theorem Arr.supersedeP_flagPend (x : Arr) (d : Fin 8) (k n : Nat) : (x.supersedeP d k n).flagPend = x.flagPend := rfl
@[simp] theorem Arr.supersedeP_traps (x : Arr) (d : Fin 8) (k n : Nat) : (x.supersedeP d k n).traps = x.traps := rfl
@[simp] theorem Arr.supersedeP_slotTrap (x : Arr) (d : Fin 8) (k n : Nat) : (x.supersedeP d k n).slotTrap = x.slotTrap := rfl
@[simp] theorem Arr.supersedeP_acnt (x : Arr) (d : Fin 8) (k n : Nat) : (x.supersedeP d k n).acnt = x.acnt := rfl
@[simp] theorem Arr.supersedeP_fcnt (x : Arr) (d : Fin 8) (k n : Nat) : (x.supersedeP d k n).fcnt = x.fcnt := rfl
@[simp] theorem Arr.supersedeP_retIv (x : Arr) (d : Fin 8) (k n : Nat) : (x.supersedeP d k n).retIv = x.retIv := rfl
@[simp] theorem Arr.supersedeP_retLeft (x : Arr) (d : Fin 8) (k n : Nat) : (x.supersedeP d k n).retLeft = x.retLeft := rfl
@[simp] theorem Arr.supersedeP_phNum (x : Arr) (d : Fin 8) (k n : Nat) : (x.supersedeP d k n).phNum = x.phNum := rfl
@[simp] theorem Arr.supersedeP_phDirty (x : Arr) (d : Fin 8) (k n : Nat) : (x.supersedeP d k n).phDirty = x.phDirty := rfl
@[simp] theorem Arr.supersedeP_cancels (x : Arr) (d : Fin 8) (k n : Nat) : (x.supersedeP d k n).cancels = x.cancels := rfl
@[simp] theorem Arr.supersedeP_clease (x : Arr) (d : Fin 8) (k n : Nat) : (x.supersedeP d k n).clease = x.clease := rfl
@[simp] theorem Arr.supersedeP_firstBundle (x : Arr) (d : Fin 8) (k n : Nat) : (x.supersedeP d k n).firstBundle = x.firstBundle := rfl
@[simp] theorem Arr.supersedeP_aligned (x : Arr) (d : Fin 8) (k n : Nat) : (x.supersedeP d k n).aligned = x.aligned := rfl
@[simp] theorem Arr.supersedeP_leaveClass (x : Arr) (d : Fin 8) (k n : Nat) : (x.supersedeP d k n).leaveClass = x.leaveClass := rfl
@[simp] theorem Arr.supersedeP_leaveLeft (x : Arr) (d : Fin 8) (k n : Nat) : (x.supersedeP d k n).leaveLeft = x.leaveLeft := rfl
@[simp] theorem Arr.supersedeP_scChain (x : Arr) (d : Fin 8) (k n : Nat) : (x.supersedeP d k n).scChain = x.scChain := rfl
@[simp] theorem Arr.supersedeP_scope (x : Arr) (d : Fin 8) (k n : Nat) : (x.supersedeP d k n).scope = x.scope := rfl
@[simp] theorem Arr.supersedeP_streams (x : Arr) (d : Fin 8) (k n : Nat) : (x.supersedeP d k n).streams = x.streams := rfl
@[simp] theorem Arr.supersedeP_reposition (x : Arr) (d : Fin 8) (k n : Nat) : (x.supersedeP d k n).reposition = x.reposition := rfl
@[simp] theorem Arr.supersedeP_north (x : Arr) (d : Fin 8) (k n : Nat) : (x.supersedeP d k n).north = x.north := rfl
@[simp] theorem Arr.supersedeP_west (x : Arr) (d : Fin 8) (k n : Nat) : (x.supersedeP d k n).west = x.west := rfl
@[simp] theorem Arr.supersedeP_sorter (x : Arr) (d : Fin 8) (k n : Nat) : (x.supersedeP d k n).sorter = x.sorter := rfl
@[simp] theorem Arr.supersedeP_edge (x : Arr) (d : Fin 8) (k n : Nat) : (x.supersedeP d k n).edge = x.edge := rfl
@[simp] theorem Arr.supersedeP_edgeCmds (x : Arr) (d : Fin 8) (k n : Nat) : (x.supersedeP d k n).edgeCmds = x.edgeCmds := rfl
@[simp] theorem Arr.supersedeP_captures (x : Arr) (d : Fin 8) (k n : Nat) : (x.supersedeP d k n).captures = x.captures := rfl
@[simp] theorem Arr.supersedeP_wave (x : Arr) (d : Fin 8) (k n : Nat) : (x.supersedeP d k n).wave = x.wave := rfl
@[simp] theorem Arr.supersedeP_phaseMark (x : Arr) (d : Fin 8) (k n : Nat) : (x.supersedeP d k n).phaseMark = x.phaseMark := rfl
@[simp] theorem Arr.supersedeP_steps (x : Arr) (d : Fin 8) (k n : Nat) : (x.supersedeP d k n).steps = x.steps := rfl
@[simp] theorem Arr.supersedeP_link (x : Arr) (d : Fin 8) (k n : Nat) : (x.supersedeP d k n).link = x.link := rfl
@[simp] theorem Arr.supersedeP_cells (x : Arr) (d : Fin 8) (k n : Nat) : (x.supersedeP d k n).cells = x.cells := rfl
@[simp] theorem Arr.supersedeP_prev (x : Arr) (d : Fin 8) (k n : Nat) : (x.supersedeP d k n).prev = x.prev := rfl
@[simp] theorem Arr.supersedeP_done (x : Arr) (d : Fin 8) (k n : Nat) : (x.supersedeP d k n).done = x.done := rfl
@[simp] theorem Arr.supersedeP_nextId (x : Arr) (d : Fin 8) (k n : Nat) : (x.supersedeP d k n).nextId = x.nextId := rfl
@[simp] theorem Arr.supersedeP_point (x : Arr) (d : Fin 8) (k n : Nat) : (x.supersedeP d k n).point = x.point := rfl
@[simp] theorem Arr.supersedeP_sq (x : Arr) (d : Fin 8) (k n : Nat) : (x.supersedeP d k n).sq = x.sq := rfl

/-! ### `Arr.wp` -/

@[simp] theorem Arr.wp_task (x : Arr) (d : Fin 8) (v : Bool) : (x.wp d v).task = x.task := rfl
@[simp] theorem Arr.wp_ctx (x : Arr) (d : Fin 8) (v : Bool) : (x.wp d v).ctx = x.ctx := rfl
@[simp] theorem Arr.wp_grpIdx (x : Arr) (d : Fin 8) (v : Bool) : (x.wp d v).grpIdx = x.grpIdx := rfl
@[simp] theorem Arr.wp_group (x : Arr) (d : Fin 8) (v : Bool) : (x.wp d v).group = x.group := rfl
@[simp] theorem Arr.wp_kind (x : Arr) (d : Fin 8) (v : Bool) : (x.wp d v).kind = x.kind := rfl
@[simp] theorem Arr.wp_prog (x : Arr) (d : Fin 8) (v : Bool) : (x.wp d v).prog = x.prog := rfl
@[simp] theorem Arr.wp_run (x : Arr) (d : Fin 8) (v : Bool) : (x.wp d v).run = x.run := rfl
@[simp] theorem Arr.wp_due (x : Arr) (d : Fin 8) (v : Bool) : (x.wp d v).due = x.due := rfl
@[simp] theorem Arr.wp_resume (x : Arr) (d : Fin 8) (v : Bool) : (x.wp d v).resume = x.resume := rfl
@[simp] theorem Arr.wp_resumeNext (x : Arr) (d : Fin 8) (v : Bool) : (x.wp d v).resumeNext = x.resumeNext := rfl
@[simp] theorem Arr.wp_reenter (x : Arr) (d : Fin 8) (v : Bool) : (x.wp d v).reenter = x.reenter := rfl
@[simp] theorem Arr.wp_ending (x : Arr) (d : Fin 8) (v : Bool) : (x.wp d v).ending = x.ending := rfl
@[simp] theorem Arr.wp_gap (x : Arr) (d : Fin 8) (v : Bool) : (x.wp d v).gap = x.gap := rfl
@[simp] theorem Arr.wp_released (x : Arr) (d : Fin 8) (v : Bool) : (x.wp d v).released = x.released := rfl
@[simp] theorem Arr.wp_freeze (x : Arr) (d : Fin 8) (v : Bool) : (x.wp d v).freeze = x.freeze := rfl
@[simp] theorem Arr.wp_park (x : Arr) (d : Fin 8) (v : Bool) : (x.wp d v).park = x.park := rfl
@[simp] theorem Arr.wp_phcancel (x : Arr) (d : Fin 8) (v : Bool) : (x.wp d v).phcancel = x.phcancel := rfl
@[simp] theorem Arr.wp_halt (x : Arr) (d : Fin 8) (v : Bool) : (x.wp d v).halt = x.halt := rfl
@[simp] theorem Arr.wp_transfer (x : Arr) (d : Fin 8) (v : Bool) : (x.wp d v).transfer = x.transfer := rfl
@[simp] theorem Arr.wp_handler (x : Arr) (d : Fin 8) (v : Bool) : (x.wp d v).handler = x.handler := rfl
@[simp] theorem Arr.wp_latch (x : Arr) (d : Fin 8) (v : Bool) : (x.wp d v).latch = x.latch := rfl
@[simp] theorem Arr.wp_snap (x : Arr) (d : Fin 8) (v : Bool) : (x.wp d v).snap = x.snap := rfl
@[simp] theorem Arr.wp_pendS (x : Arr) (d : Fin 8) (v : Bool) : (x.wp d v).pendS = x.pendS := rfl
@[simp] theorem Arr.wp_flagPend (x : Arr) (d : Fin 8) (v : Bool) : (x.wp d v).flagPend = x.flagPend := rfl
@[simp] theorem Arr.wp_traps (x : Arr) (d : Fin 8) (v : Bool) : (x.wp d v).traps = x.traps := rfl
@[simp] theorem Arr.wp_slotTrap (x : Arr) (d : Fin 8) (v : Bool) : (x.wp d v).slotTrap = x.slotTrap := rfl
@[simp] theorem Arr.wp_acnt (x : Arr) (d : Fin 8) (v : Bool) : (x.wp d v).acnt = x.acnt := rfl
@[simp] theorem Arr.wp_fcnt (x : Arr) (d : Fin 8) (v : Bool) : (x.wp d v).fcnt = x.fcnt := rfl
@[simp] theorem Arr.wp_retIv (x : Arr) (d : Fin 8) (v : Bool) : (x.wp d v).retIv = x.retIv := rfl
@[simp] theorem Arr.wp_retLeft (x : Arr) (d : Fin 8) (v : Bool) : (x.wp d v).retLeft = x.retLeft := rfl
@[simp] theorem Arr.wp_phNum (x : Arr) (d : Fin 8) (v : Bool) : (x.wp d v).phNum = x.phNum := rfl
@[simp] theorem Arr.wp_phDirty (x : Arr) (d : Fin 8) (v : Bool) : (x.wp d v).phDirty = x.phDirty := rfl
@[simp] theorem Arr.wp_cancels (x : Arr) (d : Fin 8) (v : Bool) : (x.wp d v).cancels = x.cancels := rfl
@[simp] theorem Arr.wp_clease (x : Arr) (d : Fin 8) (v : Bool) : (x.wp d v).clease = x.clease := rfl
@[simp] theorem Arr.wp_firstBundle (x : Arr) (d : Fin 8) (v : Bool) : (x.wp d v).firstBundle = x.firstBundle := rfl
@[simp] theorem Arr.wp_aligned (x : Arr) (d : Fin 8) (v : Bool) : (x.wp d v).aligned = x.aligned := rfl
@[simp] theorem Arr.wp_leaveClass (x : Arr) (d : Fin 8) (v : Bool) : (x.wp d v).leaveClass = x.leaveClass := rfl
@[simp] theorem Arr.wp_leaveLeft (x : Arr) (d : Fin 8) (v : Bool) : (x.wp d v).leaveLeft = x.leaveLeft := rfl
@[simp] theorem Arr.wp_scChain (x : Arr) (d : Fin 8) (v : Bool) : (x.wp d v).scChain = x.scChain := rfl
@[simp] theorem Arr.wp_scope (x : Arr) (d : Fin 8) (v : Bool) : (x.wp d v).scope = x.scope := rfl
@[simp] theorem Arr.wp_streams (x : Arr) (d : Fin 8) (v : Bool) : (x.wp d v).streams = x.streams := rfl
@[simp] theorem Arr.wp_reposition (x : Arr) (d : Fin 8) (v : Bool) : (x.wp d v).reposition = x.reposition := rfl
@[simp] theorem Arr.wp_north (x : Arr) (d : Fin 8) (v : Bool) : (x.wp d v).north = x.north := rfl
@[simp] theorem Arr.wp_west (x : Arr) (d : Fin 8) (v : Bool) : (x.wp d v).west = x.west := rfl
@[simp] theorem Arr.wp_sorter (x : Arr) (d : Fin 8) (v : Bool) : (x.wp d v).sorter = x.sorter := rfl
@[simp] theorem Arr.wp_edge (x : Arr) (d : Fin 8) (v : Bool) : (x.wp d v).edge = x.edge := rfl
@[simp] theorem Arr.wp_edgeCmds (x : Arr) (d : Fin 8) (v : Bool) : (x.wp d v).edgeCmds = x.edgeCmds := rfl
@[simp] theorem Arr.wp_captures (x : Arr) (d : Fin 8) (v : Bool) : (x.wp d v).captures = x.captures := rfl
@[simp] theorem Arr.wp_wave (x : Arr) (d : Fin 8) (v : Bool) : (x.wp d v).wave = x.wave := rfl
@[simp] theorem Arr.wp_phaseMark (x : Arr) (d : Fin 8) (v : Bool) : (x.wp d v).phaseMark = x.phaseMark := rfl
@[simp] theorem Arr.wp_steps (x : Arr) (d : Fin 8) (v : Bool) : (x.wp d v).steps = x.steps := rfl
@[simp] theorem Arr.wp_link (x : Arr) (d : Fin 8) (v : Bool) : (x.wp d v).link = x.link := rfl
@[simp] theorem Arr.wp_cells (x : Arr) (d : Fin 8) (v : Bool) : (x.wp d v).cells = x.cells := rfl
@[simp] theorem Arr.wp_prev (x : Arr) (d : Fin 8) (v : Bool) : (x.wp d v).prev = x.prev := rfl
@[simp] theorem Arr.wp_done (x : Arr) (d : Fin 8) (v : Bool) : (x.wp d v).done = x.done := rfl
@[simp] theorem Arr.wp_nextId (x : Arr) (d : Fin 8) (v : Bool) : (x.wp d v).nextId = x.nextId := rfl
@[simp] theorem Arr.wp_point (x : Arr) (d : Fin 8) (v : Bool) : (x.wp d v).point = x.point := rfl
@[simp] theorem Arr.wp_sq (x : Arr) (d : Fin 8) (v : Bool) : (x.wp d v).sq = x.sq := rfl

/-! ### `Arr.enqueue` -/

@[simp] theorem Arr.enqueue_task (x : Arr) (op : QOp) (c : Cap) (n : Nat) : (x.enqueue op c n).task = x.task := rfl
@[simp] theorem Arr.enqueue_ctx (x : Arr) (op : QOp) (c : Cap) (n : Nat) : (x.enqueue op c n).ctx = x.ctx := rfl
@[simp] theorem Arr.enqueue_grpIdx (x : Arr) (op : QOp) (c : Cap) (n : Nat) : (x.enqueue op c n).grpIdx = x.grpIdx := rfl
@[simp] theorem Arr.enqueue_group (x : Arr) (op : QOp) (c : Cap) (n : Nat) : (x.enqueue op c n).group = x.group := rfl
@[simp] theorem Arr.enqueue_kind (x : Arr) (op : QOp) (c : Cap) (n : Nat) : (x.enqueue op c n).kind = x.kind := rfl
@[simp] theorem Arr.enqueue_prog (x : Arr) (op : QOp) (c : Cap) (n : Nat) : (x.enqueue op c n).prog = x.prog := rfl
@[simp] theorem Arr.enqueue_run (x : Arr) (op : QOp) (c : Cap) (n : Nat) : (x.enqueue op c n).run = x.run := rfl
@[simp] theorem Arr.enqueue_due (x : Arr) (op : QOp) (c : Cap) (n : Nat) : (x.enqueue op c n).due = x.due := rfl
@[simp] theorem Arr.enqueue_resume (x : Arr) (op : QOp) (c : Cap) (n : Nat) : (x.enqueue op c n).resume = x.resume := rfl
@[simp] theorem Arr.enqueue_resumeNext (x : Arr) (op : QOp) (c : Cap) (n : Nat) : (x.enqueue op c n).resumeNext = x.resumeNext := rfl
@[simp] theorem Arr.enqueue_reenter (x : Arr) (op : QOp) (c : Cap) (n : Nat) : (x.enqueue op c n).reenter = x.reenter := rfl
@[simp] theorem Arr.enqueue_ending (x : Arr) (op : QOp) (c : Cap) (n : Nat) : (x.enqueue op c n).ending = x.ending := rfl
@[simp] theorem Arr.enqueue_gap (x : Arr) (op : QOp) (c : Cap) (n : Nat) : (x.enqueue op c n).gap = x.gap := rfl
@[simp] theorem Arr.enqueue_released (x : Arr) (op : QOp) (c : Cap) (n : Nat) : (x.enqueue op c n).released = x.released := rfl
@[simp] theorem Arr.enqueue_freeze (x : Arr) (op : QOp) (c : Cap) (n : Nat) : (x.enqueue op c n).freeze = x.freeze := rfl
@[simp] theorem Arr.enqueue_park (x : Arr) (op : QOp) (c : Cap) (n : Nat) : (x.enqueue op c n).park = x.park := rfl
@[simp] theorem Arr.enqueue_phcancel (x : Arr) (op : QOp) (c : Cap) (n : Nat) : (x.enqueue op c n).phcancel = x.phcancel := rfl
@[simp] theorem Arr.enqueue_halt (x : Arr) (op : QOp) (c : Cap) (n : Nat) : (x.enqueue op c n).halt = x.halt := rfl
@[simp] theorem Arr.enqueue_transfer (x : Arr) (op : QOp) (c : Cap) (n : Nat) : (x.enqueue op c n).transfer = x.transfer := rfl
@[simp] theorem Arr.enqueue_handler (x : Arr) (op : QOp) (c : Cap) (n : Nat) : (x.enqueue op c n).handler = x.handler := rfl
@[simp] theorem Arr.enqueue_latch (x : Arr) (op : QOp) (c : Cap) (n : Nat) : (x.enqueue op c n).latch = x.latch := rfl
@[simp] theorem Arr.enqueue_snap (x : Arr) (op : QOp) (c : Cap) (n : Nat) : (x.enqueue op c n).snap = x.snap := rfl
@[simp] theorem Arr.enqueue_regs (x : Arr) (op : QOp) (c : Cap) (n : Nat) : (x.enqueue op c n).regs = x.regs := rfl
@[simp] theorem Arr.enqueue_pendS (x : Arr) (op : QOp) (c : Cap) (n : Nat) : (x.enqueue op c n).pendS = x.pendS := rfl
@[simp] theorem Arr.enqueue_regPend (x : Arr) (op : QOp) (c : Cap) (n : Nat) : (x.enqueue op c n).regPend = x.regPend := rfl
@[simp] theorem Arr.enqueue_flagPend (x : Arr) (op : QOp) (c : Cap) (n : Nat) : (x.enqueue op c n).flagPend = x.flagPend := rfl
@[simp] theorem Arr.enqueue_traps (x : Arr) (op : QOp) (c : Cap) (n : Nat) : (x.enqueue op c n).traps = x.traps := rfl
@[simp] theorem Arr.enqueue_slotTrap (x : Arr) (op : QOp) (c : Cap) (n : Nat) : (x.enqueue op c n).slotTrap = x.slotTrap := rfl
@[simp] theorem Arr.enqueue_acnt (x : Arr) (op : QOp) (c : Cap) (n : Nat) : (x.enqueue op c n).acnt = x.acnt := rfl
@[simp] theorem Arr.enqueue_fcnt (x : Arr) (op : QOp) (c : Cap) (n : Nat) : (x.enqueue op c n).fcnt = x.fcnt := rfl
@[simp] theorem Arr.enqueue_retIv (x : Arr) (op : QOp) (c : Cap) (n : Nat) : (x.enqueue op c n).retIv = x.retIv := rfl
@[simp] theorem Arr.enqueue_retLeft (x : Arr) (op : QOp) (c : Cap) (n : Nat) : (x.enqueue op c n).retLeft = x.retLeft := rfl
@[simp] theorem Arr.enqueue_phNum (x : Arr) (op : QOp) (c : Cap) (n : Nat) : (x.enqueue op c n).phNum = x.phNum := rfl
@[simp] theorem Arr.enqueue_phDirty (x : Arr) (op : QOp) (c : Cap) (n : Nat) : (x.enqueue op c n).phDirty = x.phDirty := rfl
@[simp] theorem Arr.enqueue_cancels (x : Arr) (op : QOp) (c : Cap) (n : Nat) : (x.enqueue op c n).cancels = x.cancels := rfl
@[simp] theorem Arr.enqueue_clease (x : Arr) (op : QOp) (c : Cap) (n : Nat) : (x.enqueue op c n).clease = x.clease := rfl
@[simp] theorem Arr.enqueue_firstBundle (x : Arr) (op : QOp) (c : Cap) (n : Nat) : (x.enqueue op c n).firstBundle = x.firstBundle := rfl
@[simp] theorem Arr.enqueue_aligned (x : Arr) (op : QOp) (c : Cap) (n : Nat) : (x.enqueue op c n).aligned = x.aligned := rfl
@[simp] theorem Arr.enqueue_leaveClass (x : Arr) (op : QOp) (c : Cap) (n : Nat) : (x.enqueue op c n).leaveClass = x.leaveClass := rfl
@[simp] theorem Arr.enqueue_leaveLeft (x : Arr) (op : QOp) (c : Cap) (n : Nat) : (x.enqueue op c n).leaveLeft = x.leaveLeft := rfl
@[simp] theorem Arr.enqueue_scChain (x : Arr) (op : QOp) (c : Cap) (n : Nat) : (x.enqueue op c n).scChain = x.scChain := rfl
@[simp] theorem Arr.enqueue_scope (x : Arr) (op : QOp) (c : Cap) (n : Nat) : (x.enqueue op c n).scope = x.scope := rfl
@[simp] theorem Arr.enqueue_streams (x : Arr) (op : QOp) (c : Cap) (n : Nat) : (x.enqueue op c n).streams = x.streams := rfl
@[simp] theorem Arr.enqueue_reposition (x : Arr) (op : QOp) (c : Cap) (n : Nat) : (x.enqueue op c n).reposition = x.reposition := rfl
@[simp] theorem Arr.enqueue_north (x : Arr) (op : QOp) (c : Cap) (n : Nat) : (x.enqueue op c n).north = x.north := rfl
@[simp] theorem Arr.enqueue_west (x : Arr) (op : QOp) (c : Cap) (n : Nat) : (x.enqueue op c n).west = x.west := rfl
@[simp] theorem Arr.enqueue_sorter (x : Arr) (op : QOp) (c : Cap) (n : Nat) : (x.enqueue op c n).sorter = x.sorter := rfl
@[simp] theorem Arr.enqueue_edge (x : Arr) (op : QOp) (c : Cap) (n : Nat) : (x.enqueue op c n).edge = x.edge := rfl
@[simp] theorem Arr.enqueue_edgeCmds (x : Arr) (op : QOp) (c : Cap) (n : Nat) : (x.enqueue op c n).edgeCmds = x.edgeCmds := rfl
@[simp] theorem Arr.enqueue_captures (x : Arr) (op : QOp) (c : Cap) (n : Nat) : (x.enqueue op c n).captures = x.captures := rfl
@[simp] theorem Arr.enqueue_wave (x : Arr) (op : QOp) (c : Cap) (n : Nat) : (x.enqueue op c n).wave = x.wave := rfl
@[simp] theorem Arr.enqueue_phaseMark (x : Arr) (op : QOp) (c : Cap) (n : Nat) : (x.enqueue op c n).phaseMark = x.phaseMark := rfl
@[simp] theorem Arr.enqueue_steps (x : Arr) (op : QOp) (c : Cap) (n : Nat) : (x.enqueue op c n).steps = x.steps := rfl
@[simp] theorem Arr.enqueue_link (x : Arr) (op : QOp) (c : Cap) (n : Nat) : (x.enqueue op c n).link = x.link := rfl
@[simp] theorem Arr.enqueue_cells (x : Arr) (op : QOp) (c : Cap) (n : Nat) : (x.enqueue op c n).cells = x.cells := rfl
@[simp] theorem Arr.enqueue_prev (x : Arr) (op : QOp) (c : Cap) (n : Nat) : (x.enqueue op c n).prev = x.prev := rfl
@[simp] theorem Arr.enqueue_done (x : Arr) (op : QOp) (c : Cap) (n : Nat) : (x.enqueue op c n).done = x.done := rfl
@[simp] theorem Arr.enqueue_point (x : Arr) (op : QOp) (c : Cap) (n : Nat) : (x.enqueue op c n).point = x.point := rfl
@[simp] theorem Arr.enqueue_sq (x : Arr) (op : QOp) (c : Cap) (n : Nat) : (x.enqueue op c n).sq = x.sq := rfl
@[simp] theorem Arr.enqueue_sprints (x : Arr) (op : QOp) (c : Cap) (n : Nat) : (x.enqueue op c n).sprints = x.sprints := rfl

/-! ### `Arr.dirty` -/

@[simp] theorem Arr.dirty_task (x : Arr) : (x.dirty).task = x.task := rfl
@[simp] theorem Arr.dirty_ctx (x : Arr) : (x.dirty).ctx = x.ctx := rfl
@[simp] theorem Arr.dirty_grpIdx (x : Arr) : (x.dirty).grpIdx = x.grpIdx := rfl
@[simp] theorem Arr.dirty_group (x : Arr) : (x.dirty).group = x.group := rfl
@[simp] theorem Arr.dirty_kind (x : Arr) : (x.dirty).kind = x.kind := rfl
@[simp] theorem Arr.dirty_prog (x : Arr) : (x.dirty).prog = x.prog := rfl
@[simp] theorem Arr.dirty_run (x : Arr) : (x.dirty).run = x.run := rfl
@[simp] theorem Arr.dirty_due (x : Arr) : (x.dirty).due = x.due := rfl
@[simp] theorem Arr.dirty_resume (x : Arr) : (x.dirty).resume = x.resume := rfl
@[simp] theorem Arr.dirty_resumeNext (x : Arr) : (x.dirty).resumeNext = x.resumeNext := rfl
@[simp] theorem Arr.dirty_reenter (x : Arr) : (x.dirty).reenter = x.reenter := rfl
@[simp] theorem Arr.dirty_ending (x : Arr) : (x.dirty).ending = x.ending := rfl
@[simp] theorem Arr.dirty_gap (x : Arr) : (x.dirty).gap = x.gap := rfl
@[simp] theorem Arr.dirty_released (x : Arr) : (x.dirty).released = x.released := rfl
@[simp] theorem Arr.dirty_freeze (x : Arr) : (x.dirty).freeze = x.freeze := rfl
@[simp] theorem Arr.dirty_park (x : Arr) : (x.dirty).park = x.park := rfl
@[simp] theorem Arr.dirty_phcancel (x : Arr) : (x.dirty).phcancel = x.phcancel := rfl
@[simp] theorem Arr.dirty_halt (x : Arr) : (x.dirty).halt = x.halt := rfl
@[simp] theorem Arr.dirty_transfer (x : Arr) : (x.dirty).transfer = x.transfer := rfl
@[simp] theorem Arr.dirty_handler (x : Arr) : (x.dirty).handler = x.handler := rfl
@[simp] theorem Arr.dirty_latch (x : Arr) : (x.dirty).latch = x.latch := rfl
@[simp] theorem Arr.dirty_snap (x : Arr) : (x.dirty).snap = x.snap := rfl
@[simp] theorem Arr.dirty_regs (x : Arr) : (x.dirty).regs = x.regs := rfl
@[simp] theorem Arr.dirty_pendS (x : Arr) : (x.dirty).pendS = x.pendS := rfl
@[simp] theorem Arr.dirty_regPend (x : Arr) : (x.dirty).regPend = x.regPend := rfl
@[simp] theorem Arr.dirty_flagPend (x : Arr) : (x.dirty).flagPend = x.flagPend := rfl
@[simp] theorem Arr.dirty_traps (x : Arr) : (x.dirty).traps = x.traps := rfl
@[simp] theorem Arr.dirty_slotTrap (x : Arr) : (x.dirty).slotTrap = x.slotTrap := rfl
@[simp] theorem Arr.dirty_acnt (x : Arr) : (x.dirty).acnt = x.acnt := rfl
@[simp] theorem Arr.dirty_fcnt (x : Arr) : (x.dirty).fcnt = x.fcnt := rfl
@[simp] theorem Arr.dirty_retIv (x : Arr) : (x.dirty).retIv = x.retIv := rfl
@[simp] theorem Arr.dirty_retLeft (x : Arr) : (x.dirty).retLeft = x.retLeft := rfl
@[simp] theorem Arr.dirty_phNum (x : Arr) : (x.dirty).phNum = x.phNum := rfl
@[simp] theorem Arr.dirty_cancels (x : Arr) : (x.dirty).cancels = x.cancels := rfl
@[simp] theorem Arr.dirty_clease (x : Arr) : (x.dirty).clease = x.clease := rfl
@[simp] theorem Arr.dirty_firstBundle (x : Arr) : (x.dirty).firstBundle = x.firstBundle := rfl
@[simp] theorem Arr.dirty_aligned (x : Arr) : (x.dirty).aligned = x.aligned := rfl
@[simp] theorem Arr.dirty_leaveClass (x : Arr) : (x.dirty).leaveClass = x.leaveClass := rfl
@[simp] theorem Arr.dirty_leaveLeft (x : Arr) : (x.dirty).leaveLeft = x.leaveLeft := rfl
@[simp] theorem Arr.dirty_scChain (x : Arr) : (x.dirty).scChain = x.scChain := rfl
@[simp] theorem Arr.dirty_scope (x : Arr) : (x.dirty).scope = x.scope := rfl
@[simp] theorem Arr.dirty_streams (x : Arr) : (x.dirty).streams = x.streams := rfl
@[simp] theorem Arr.dirty_reposition (x : Arr) : (x.dirty).reposition = x.reposition := rfl
@[simp] theorem Arr.dirty_north (x : Arr) : (x.dirty).north = x.north := rfl
@[simp] theorem Arr.dirty_west (x : Arr) : (x.dirty).west = x.west := rfl
@[simp] theorem Arr.dirty_sorter (x : Arr) : (x.dirty).sorter = x.sorter := rfl
@[simp] theorem Arr.dirty_edge (x : Arr) : (x.dirty).edge = x.edge := rfl
@[simp] theorem Arr.dirty_edgeCmds (x : Arr) : (x.dirty).edgeCmds = x.edgeCmds := rfl
@[simp] theorem Arr.dirty_captures (x : Arr) : (x.dirty).captures = x.captures := rfl
@[simp] theorem Arr.dirty_wave (x : Arr) : (x.dirty).wave = x.wave := rfl
@[simp] theorem Arr.dirty_phaseMark (x : Arr) : (x.dirty).phaseMark = x.phaseMark := rfl
@[simp] theorem Arr.dirty_steps (x : Arr) : (x.dirty).steps = x.steps := rfl
@[simp] theorem Arr.dirty_link (x : Arr) : (x.dirty).link = x.link := rfl
@[simp] theorem Arr.dirty_cells (x : Arr) : (x.dirty).cells = x.cells := rfl
@[simp] theorem Arr.dirty_prev (x : Arr) : (x.dirty).prev = x.prev := rfl
@[simp] theorem Arr.dirty_done (x : Arr) : (x.dirty).done = x.done := rfl
@[simp] theorem Arr.dirty_queue (x : Arr) : (x.dirty).queue = x.queue := rfl
@[simp] theorem Arr.dirty_nextId (x : Arr) : (x.dirty).nextId = x.nextId := rfl
@[simp] theorem Arr.dirty_point (x : Arr) : (x.dirty).point = x.point := rfl
@[simp] theorem Arr.dirty_sq (x : Arr) : (x.dirty).sq = x.sq := rfl
@[simp] theorem Arr.dirty_sprints (x : Arr) : (x.dirty).sprints = x.sprints := rfl

/-! ### `Arr.landS` -/

@[simp] theorem Arr.landS_task (x : Arr) (d : Fin 32) (v : Word64) : (x.landS d v).task = x.task := rfl
@[simp] theorem Arr.landS_ctx (x : Arr) (d : Fin 32) (v : Word64) : (x.landS d v).ctx = x.ctx := rfl
@[simp] theorem Arr.landS_grpIdx (x : Arr) (d : Fin 32) (v : Word64) : (x.landS d v).grpIdx = x.grpIdx := rfl
@[simp] theorem Arr.landS_group (x : Arr) (d : Fin 32) (v : Word64) : (x.landS d v).group = x.group := rfl
@[simp] theorem Arr.landS_kind (x : Arr) (d : Fin 32) (v : Word64) : (x.landS d v).kind = x.kind := rfl
@[simp] theorem Arr.landS_prog (x : Arr) (d : Fin 32) (v : Word64) : (x.landS d v).prog = x.prog := rfl
@[simp] theorem Arr.landS_run (x : Arr) (d : Fin 32) (v : Word64) : (x.landS d v).run = x.run := rfl
@[simp] theorem Arr.landS_due (x : Arr) (d : Fin 32) (v : Word64) : (x.landS d v).due = x.due := rfl
@[simp] theorem Arr.landS_resume (x : Arr) (d : Fin 32) (v : Word64) : (x.landS d v).resume = x.resume := rfl
@[simp] theorem Arr.landS_resumeNext (x : Arr) (d : Fin 32) (v : Word64) : (x.landS d v).resumeNext = x.resumeNext := rfl
@[simp] theorem Arr.landS_reenter (x : Arr) (d : Fin 32) (v : Word64) : (x.landS d v).reenter = x.reenter := rfl
@[simp] theorem Arr.landS_ending (x : Arr) (d : Fin 32) (v : Word64) : (x.landS d v).ending = x.ending := rfl
@[simp] theorem Arr.landS_gap (x : Arr) (d : Fin 32) (v : Word64) : (x.landS d v).gap = x.gap := rfl
@[simp] theorem Arr.landS_released (x : Arr) (d : Fin 32) (v : Word64) : (x.landS d v).released = x.released := rfl
@[simp] theorem Arr.landS_freeze (x : Arr) (d : Fin 32) (v : Word64) : (x.landS d v).freeze = x.freeze := rfl
@[simp] theorem Arr.landS_park (x : Arr) (d : Fin 32) (v : Word64) : (x.landS d v).park = x.park := rfl
@[simp] theorem Arr.landS_phcancel (x : Arr) (d : Fin 32) (v : Word64) : (x.landS d v).phcancel = x.phcancel := rfl
@[simp] theorem Arr.landS_halt (x : Arr) (d : Fin 32) (v : Word64) : (x.landS d v).halt = x.halt := rfl
@[simp] theorem Arr.landS_transfer (x : Arr) (d : Fin 32) (v : Word64) : (x.landS d v).transfer = x.transfer := rfl
@[simp] theorem Arr.landS_handler (x : Arr) (d : Fin 32) (v : Word64) : (x.landS d v).handler = x.handler := rfl
@[simp] theorem Arr.landS_latch (x : Arr) (d : Fin 32) (v : Word64) : (x.landS d v).latch = x.latch := rfl
@[simp] theorem Arr.landS_snap (x : Arr) (d : Fin 32) (v : Word64) : (x.landS d v).snap = x.snap := rfl
@[simp] theorem Arr.landS_flagPend (x : Arr) (d : Fin 32) (v : Word64) : (x.landS d v).flagPend = x.flagPend := rfl
@[simp] theorem Arr.landS_traps (x : Arr) (d : Fin 32) (v : Word64) : (x.landS d v).traps = x.traps := rfl
@[simp] theorem Arr.landS_slotTrap (x : Arr) (d : Fin 32) (v : Word64) : (x.landS d v).slotTrap = x.slotTrap := rfl
@[simp] theorem Arr.landS_acnt (x : Arr) (d : Fin 32) (v : Word64) : (x.landS d v).acnt = x.acnt := rfl
@[simp] theorem Arr.landS_fcnt (x : Arr) (d : Fin 32) (v : Word64) : (x.landS d v).fcnt = x.fcnt := rfl
@[simp] theorem Arr.landS_retIv (x : Arr) (d : Fin 32) (v : Word64) : (x.landS d v).retIv = x.retIv := rfl
@[simp] theorem Arr.landS_retLeft (x : Arr) (d : Fin 32) (v : Word64) : (x.landS d v).retLeft = x.retLeft := rfl
@[simp] theorem Arr.landS_phNum (x : Arr) (d : Fin 32) (v : Word64) : (x.landS d v).phNum = x.phNum := rfl
@[simp] theorem Arr.landS_phDirty (x : Arr) (d : Fin 32) (v : Word64) : (x.landS d v).phDirty = x.phDirty := rfl
@[simp] theorem Arr.landS_cancels (x : Arr) (d : Fin 32) (v : Word64) : (x.landS d v).cancels = x.cancels := rfl
@[simp] theorem Arr.landS_clease (x : Arr) (d : Fin 32) (v : Word64) : (x.landS d v).clease = x.clease := rfl
@[simp] theorem Arr.landS_firstBundle (x : Arr) (d : Fin 32) (v : Word64) : (x.landS d v).firstBundle = x.firstBundle := rfl
@[simp] theorem Arr.landS_aligned (x : Arr) (d : Fin 32) (v : Word64) : (x.landS d v).aligned = x.aligned := rfl
@[simp] theorem Arr.landS_leaveClass (x : Arr) (d : Fin 32) (v : Word64) : (x.landS d v).leaveClass = x.leaveClass := rfl
@[simp] theorem Arr.landS_leaveLeft (x : Arr) (d : Fin 32) (v : Word64) : (x.landS d v).leaveLeft = x.leaveLeft := rfl
@[simp] theorem Arr.landS_scChain (x : Arr) (d : Fin 32) (v : Word64) : (x.landS d v).scChain = x.scChain := rfl
@[simp] theorem Arr.landS_scope (x : Arr) (d : Fin 32) (v : Word64) : (x.landS d v).scope = x.scope := rfl
@[simp] theorem Arr.landS_streams (x : Arr) (d : Fin 32) (v : Word64) : (x.landS d v).streams = x.streams := rfl
@[simp] theorem Arr.landS_reposition (x : Arr) (d : Fin 32) (v : Word64) : (x.landS d v).reposition = x.reposition := rfl
@[simp] theorem Arr.landS_north (x : Arr) (d : Fin 32) (v : Word64) : (x.landS d v).north = x.north := rfl
@[simp] theorem Arr.landS_west (x : Arr) (d : Fin 32) (v : Word64) : (x.landS d v).west = x.west := rfl
@[simp] theorem Arr.landS_sorter (x : Arr) (d : Fin 32) (v : Word64) : (x.landS d v).sorter = x.sorter := rfl
@[simp] theorem Arr.landS_edge (x : Arr) (d : Fin 32) (v : Word64) : (x.landS d v).edge = x.edge := rfl
@[simp] theorem Arr.landS_edgeCmds (x : Arr) (d : Fin 32) (v : Word64) : (x.landS d v).edgeCmds = x.edgeCmds := rfl
@[simp] theorem Arr.landS_captures (x : Arr) (d : Fin 32) (v : Word64) : (x.landS d v).captures = x.captures := rfl
@[simp] theorem Arr.landS_wave (x : Arr) (d : Fin 32) (v : Word64) : (x.landS d v).wave = x.wave := rfl
@[simp] theorem Arr.landS_phaseMark (x : Arr) (d : Fin 32) (v : Word64) : (x.landS d v).phaseMark = x.phaseMark := rfl
@[simp] theorem Arr.landS_steps (x : Arr) (d : Fin 32) (v : Word64) : (x.landS d v).steps = x.steps := rfl
@[simp] theorem Arr.landS_link (x : Arr) (d : Fin 32) (v : Word64) : (x.landS d v).link = x.link := rfl
@[simp] theorem Arr.landS_cells (x : Arr) (d : Fin 32) (v : Word64) : (x.landS d v).cells = x.cells := rfl
@[simp] theorem Arr.landS_prev (x : Arr) (d : Fin 32) (v : Word64) : (x.landS d v).prev = x.prev := rfl
@[simp] theorem Arr.landS_done (x : Arr) (d : Fin 32) (v : Word64) : (x.landS d v).done = x.done := rfl
@[simp] theorem Arr.landS_queue (x : Arr) (d : Fin 32) (v : Word64) : (x.landS d v).queue = x.queue := rfl
@[simp] theorem Arr.landS_nextId (x : Arr) (d : Fin 32) (v : Word64) : (x.landS d v).nextId = x.nextId := rfl
@[simp] theorem Arr.landS_point (x : Arr) (d : Fin 32) (v : Word64) : (x.landS d v).point = x.point := rfl
@[simp] theorem Arr.landS_sq (x : Arr) (d : Fin 32) (v : Word64) : (x.landS d v).sq = x.sq := rfl
@[simp] theorem Arr.landS_sprints (x : Arr) (d : Fin 32) (v : Word64) : (x.landS d v).sprints = x.sprints := rfl

/-! ### `Arr.setPending` -/

@[simp] theorem Arr.setPending_task (x : Arr) (d : Fin 32) : (x.setPending d).task = x.task := rfl
@[simp] theorem Arr.setPending_ctx (x : Arr) (d : Fin 32) : (x.setPending d).ctx = x.ctx := rfl
@[simp] theorem Arr.setPending_grpIdx (x : Arr) (d : Fin 32) : (x.setPending d).grpIdx = x.grpIdx := rfl
@[simp] theorem Arr.setPending_group (x : Arr) (d : Fin 32) : (x.setPending d).group = x.group := rfl
@[simp] theorem Arr.setPending_kind (x : Arr) (d : Fin 32) : (x.setPending d).kind = x.kind := rfl
@[simp] theorem Arr.setPending_prog (x : Arr) (d : Fin 32) : (x.setPending d).prog = x.prog := rfl
@[simp] theorem Arr.setPending_run (x : Arr) (d : Fin 32) : (x.setPending d).run = x.run := rfl
@[simp] theorem Arr.setPending_due (x : Arr) (d : Fin 32) : (x.setPending d).due = x.due := rfl
@[simp] theorem Arr.setPending_resume (x : Arr) (d : Fin 32) : (x.setPending d).resume = x.resume := rfl
@[simp] theorem Arr.setPending_resumeNext (x : Arr) (d : Fin 32) : (x.setPending d).resumeNext = x.resumeNext := rfl
@[simp] theorem Arr.setPending_reenter (x : Arr) (d : Fin 32) : (x.setPending d).reenter = x.reenter := rfl
@[simp] theorem Arr.setPending_ending (x : Arr) (d : Fin 32) : (x.setPending d).ending = x.ending := rfl
@[simp] theorem Arr.setPending_gap (x : Arr) (d : Fin 32) : (x.setPending d).gap = x.gap := rfl
@[simp] theorem Arr.setPending_released (x : Arr) (d : Fin 32) : (x.setPending d).released = x.released := rfl
@[simp] theorem Arr.setPending_freeze (x : Arr) (d : Fin 32) : (x.setPending d).freeze = x.freeze := rfl
@[simp] theorem Arr.setPending_park (x : Arr) (d : Fin 32) : (x.setPending d).park = x.park := rfl
@[simp] theorem Arr.setPending_phcancel (x : Arr) (d : Fin 32) : (x.setPending d).phcancel = x.phcancel := rfl
@[simp] theorem Arr.setPending_halt (x : Arr) (d : Fin 32) : (x.setPending d).halt = x.halt := rfl
@[simp] theorem Arr.setPending_transfer (x : Arr) (d : Fin 32) : (x.setPending d).transfer = x.transfer := rfl
@[simp] theorem Arr.setPending_handler (x : Arr) (d : Fin 32) : (x.setPending d).handler = x.handler := rfl
@[simp] theorem Arr.setPending_latch (x : Arr) (d : Fin 32) : (x.setPending d).latch = x.latch := rfl
@[simp] theorem Arr.setPending_snap (x : Arr) (d : Fin 32) : (x.setPending d).snap = x.snap := rfl
@[simp] theorem Arr.setPending_regs (x : Arr) (d : Fin 32) : (x.setPending d).regs = x.regs := rfl
@[simp] theorem Arr.setPending_regPend (x : Arr) (d : Fin 32) : (x.setPending d).regPend = x.regPend := rfl
@[simp] theorem Arr.setPending_flagPend (x : Arr) (d : Fin 32) : (x.setPending d).flagPend = x.flagPend := rfl
@[simp] theorem Arr.setPending_traps (x : Arr) (d : Fin 32) : (x.setPending d).traps = x.traps := rfl
@[simp] theorem Arr.setPending_slotTrap (x : Arr) (d : Fin 32) : (x.setPending d).slotTrap = x.slotTrap := rfl
@[simp] theorem Arr.setPending_acnt (x : Arr) (d : Fin 32) : (x.setPending d).acnt = x.acnt := rfl
@[simp] theorem Arr.setPending_fcnt (x : Arr) (d : Fin 32) : (x.setPending d).fcnt = x.fcnt := rfl
@[simp] theorem Arr.setPending_retIv (x : Arr) (d : Fin 32) : (x.setPending d).retIv = x.retIv := rfl
@[simp] theorem Arr.setPending_retLeft (x : Arr) (d : Fin 32) : (x.setPending d).retLeft = x.retLeft := rfl
@[simp] theorem Arr.setPending_phNum (x : Arr) (d : Fin 32) : (x.setPending d).phNum = x.phNum := rfl
@[simp] theorem Arr.setPending_phDirty (x : Arr) (d : Fin 32) : (x.setPending d).phDirty = x.phDirty := rfl
@[simp] theorem Arr.setPending_cancels (x : Arr) (d : Fin 32) : (x.setPending d).cancels = x.cancels := rfl
@[simp] theorem Arr.setPending_clease (x : Arr) (d : Fin 32) : (x.setPending d).clease = x.clease := rfl
@[simp] theorem Arr.setPending_firstBundle (x : Arr) (d : Fin 32) : (x.setPending d).firstBundle = x.firstBundle := rfl
@[simp] theorem Arr.setPending_aligned (x : Arr) (d : Fin 32) : (x.setPending d).aligned = x.aligned := rfl
@[simp] theorem Arr.setPending_leaveClass (x : Arr) (d : Fin 32) : (x.setPending d).leaveClass = x.leaveClass := rfl
@[simp] theorem Arr.setPending_leaveLeft (x : Arr) (d : Fin 32) : (x.setPending d).leaveLeft = x.leaveLeft := rfl
@[simp] theorem Arr.setPending_scChain (x : Arr) (d : Fin 32) : (x.setPending d).scChain = x.scChain := rfl
@[simp] theorem Arr.setPending_scope (x : Arr) (d : Fin 32) : (x.setPending d).scope = x.scope := rfl
@[simp] theorem Arr.setPending_streams (x : Arr) (d : Fin 32) : (x.setPending d).streams = x.streams := rfl
@[simp] theorem Arr.setPending_reposition (x : Arr) (d : Fin 32) : (x.setPending d).reposition = x.reposition := rfl
@[simp] theorem Arr.setPending_north (x : Arr) (d : Fin 32) : (x.setPending d).north = x.north := rfl
@[simp] theorem Arr.setPending_west (x : Arr) (d : Fin 32) : (x.setPending d).west = x.west := rfl
@[simp] theorem Arr.setPending_sorter (x : Arr) (d : Fin 32) : (x.setPending d).sorter = x.sorter := rfl
@[simp] theorem Arr.setPending_edge (x : Arr) (d : Fin 32) : (x.setPending d).edge = x.edge := rfl
@[simp] theorem Arr.setPending_edgeCmds (x : Arr) (d : Fin 32) : (x.setPending d).edgeCmds = x.edgeCmds := rfl
@[simp] theorem Arr.setPending_captures (x : Arr) (d : Fin 32) : (x.setPending d).captures = x.captures := rfl
@[simp] theorem Arr.setPending_wave (x : Arr) (d : Fin 32) : (x.setPending d).wave = x.wave := rfl
@[simp] theorem Arr.setPending_phaseMark (x : Arr) (d : Fin 32) : (x.setPending d).phaseMark = x.phaseMark := rfl
@[simp] theorem Arr.setPending_steps (x : Arr) (d : Fin 32) : (x.setPending d).steps = x.steps := rfl
@[simp] theorem Arr.setPending_link (x : Arr) (d : Fin 32) : (x.setPending d).link = x.link := rfl
@[simp] theorem Arr.setPending_cells (x : Arr) (d : Fin 32) : (x.setPending d).cells = x.cells := rfl
@[simp] theorem Arr.setPending_prev (x : Arr) (d : Fin 32) : (x.setPending d).prev = x.prev := rfl
@[simp] theorem Arr.setPending_done (x : Arr) (d : Fin 32) : (x.setPending d).done = x.done := rfl
@[simp] theorem Arr.setPending_queue (x : Arr) (d : Fin 32) : (x.setPending d).queue = x.queue := rfl
@[simp] theorem Arr.setPending_nextId (x : Arr) (d : Fin 32) : (x.setPending d).nextId = x.nextId := rfl
@[simp] theorem Arr.setPending_point (x : Arr) (d : Fin 32) : (x.setPending d).point = x.point := rfl
@[simp] theorem Arr.setPending_sq (x : Arr) (d : Fin 32) : (x.setPending d).sq = x.sq := rfl
@[simp] theorem Arr.setPending_sprints (x : Arr) (d : Fin 32) : (x.setPending d).sprints = x.sprints := rfl

/-! ### `Arr.slotFault` -/

@[simp] theorem Arr.slotFault_task (x : Arr) (k : Nat) (c : Cause) (d : Nat) : (x.slotFault k c d).task = x.task := rfl
@[simp] theorem Arr.slotFault_ctx (x : Arr) (k : Nat) (c : Cause) (d : Nat) : (x.slotFault k c d).ctx = x.ctx := rfl
@[simp] theorem Arr.slotFault_grpIdx (x : Arr) (k : Nat) (c : Cause) (d : Nat) : (x.slotFault k c d).grpIdx = x.grpIdx := rfl
@[simp] theorem Arr.slotFault_group (x : Arr) (k : Nat) (c : Cause) (d : Nat) : (x.slotFault k c d).group = x.group := rfl
@[simp] theorem Arr.slotFault_kind (x : Arr) (k : Nat) (c : Cause) (d : Nat) : (x.slotFault k c d).kind = x.kind := rfl
@[simp] theorem Arr.slotFault_prog (x : Arr) (k : Nat) (c : Cause) (d : Nat) : (x.slotFault k c d).prog = x.prog := rfl
@[simp] theorem Arr.slotFault_due (x : Arr) (k : Nat) (c : Cause) (d : Nat) : (x.slotFault k c d).due = x.due := rfl
@[simp] theorem Arr.slotFault_resume (x : Arr) (k : Nat) (c : Cause) (d : Nat) : (x.slotFault k c d).resume = x.resume := rfl
@[simp] theorem Arr.slotFault_resumeNext (x : Arr) (k : Nat) (c : Cause) (d : Nat) : (x.slotFault k c d).resumeNext = x.resumeNext := rfl
@[simp] theorem Arr.slotFault_reenter (x : Arr) (k : Nat) (c : Cause) (d : Nat) : (x.slotFault k c d).reenter = x.reenter := rfl
@[simp] theorem Arr.slotFault_ending (x : Arr) (k : Nat) (c : Cause) (d : Nat) : (x.slotFault k c d).ending = x.ending := rfl
@[simp] theorem Arr.slotFault_gap (x : Arr) (k : Nat) (c : Cause) (d : Nat) : (x.slotFault k c d).gap = x.gap := rfl
@[simp] theorem Arr.slotFault_released (x : Arr) (k : Nat) (c : Cause) (d : Nat) : (x.slotFault k c d).released = x.released := rfl
@[simp] theorem Arr.slotFault_freeze (x : Arr) (k : Nat) (c : Cause) (d : Nat) : (x.slotFault k c d).freeze = x.freeze := rfl
@[simp] theorem Arr.slotFault_park (x : Arr) (k : Nat) (c : Cause) (d : Nat) : (x.slotFault k c d).park = x.park := rfl
@[simp] theorem Arr.slotFault_phcancel (x : Arr) (k : Nat) (c : Cause) (d : Nat) : (x.slotFault k c d).phcancel = x.phcancel := rfl
@[simp] theorem Arr.slotFault_halt (x : Arr) (k : Nat) (c : Cause) (d : Nat) : (x.slotFault k c d).halt = x.halt := rfl
@[simp] theorem Arr.slotFault_transfer (x : Arr) (k : Nat) (c : Cause) (d : Nat) : (x.slotFault k c d).transfer = x.transfer := rfl
@[simp] theorem Arr.slotFault_handler (x : Arr) (k : Nat) (c : Cause) (d : Nat) : (x.slotFault k c d).handler = x.handler := rfl
@[simp] theorem Arr.slotFault_latch (x : Arr) (k : Nat) (c : Cause) (d : Nat) : (x.slotFault k c d).latch = x.latch := rfl
@[simp] theorem Arr.slotFault_snap (x : Arr) (k : Nat) (c : Cause) (d : Nat) : (x.slotFault k c d).snap = x.snap := rfl
@[simp] theorem Arr.slotFault_regs (x : Arr) (k : Nat) (c : Cause) (d : Nat) : (x.slotFault k c d).regs = x.regs := rfl
@[simp] theorem Arr.slotFault_pendS (x : Arr) (k : Nat) (c : Cause) (d : Nat) : (x.slotFault k c d).pendS = x.pendS := rfl
@[simp] theorem Arr.slotFault_regPend (x : Arr) (k : Nat) (c : Cause) (d : Nat) : (x.slotFault k c d).regPend = x.regPend := rfl
@[simp] theorem Arr.slotFault_flagPend (x : Arr) (k : Nat) (c : Cause) (d : Nat) : (x.slotFault k c d).flagPend = x.flagPend := rfl
@[simp] theorem Arr.slotFault_traps (x : Arr) (k : Nat) (c : Cause) (d : Nat) : (x.slotFault k c d).traps = x.traps := rfl
@[simp] theorem Arr.slotFault_acnt (x : Arr) (k : Nat) (c : Cause) (d : Nat) : (x.slotFault k c d).acnt = x.acnt := rfl
@[simp] theorem Arr.slotFault_fcnt (x : Arr) (k : Nat) (c : Cause) (d : Nat) : (x.slotFault k c d).fcnt = x.fcnt := rfl
@[simp] theorem Arr.slotFault_retIv (x : Arr) (k : Nat) (c : Cause) (d : Nat) : (x.slotFault k c d).retIv = x.retIv := rfl
@[simp] theorem Arr.slotFault_retLeft (x : Arr) (k : Nat) (c : Cause) (d : Nat) : (x.slotFault k c d).retLeft = x.retLeft := rfl
@[simp] theorem Arr.slotFault_phNum (x : Arr) (k : Nat) (c : Cause) (d : Nat) : (x.slotFault k c d).phNum = x.phNum := rfl
@[simp] theorem Arr.slotFault_phDirty (x : Arr) (k : Nat) (c : Cause) (d : Nat) : (x.slotFault k c d).phDirty = x.phDirty := rfl
@[simp] theorem Arr.slotFault_cancels (x : Arr) (k : Nat) (c : Cause) (d : Nat) : (x.slotFault k c d).cancels = x.cancels := rfl
@[simp] theorem Arr.slotFault_clease (x : Arr) (k : Nat) (c : Cause) (d : Nat) : (x.slotFault k c d).clease = x.clease := rfl
@[simp] theorem Arr.slotFault_firstBundle (x : Arr) (k : Nat) (c : Cause) (d : Nat) : (x.slotFault k c d).firstBundle = x.firstBundle := rfl
@[simp] theorem Arr.slotFault_aligned (x : Arr) (k : Nat) (c : Cause) (d : Nat) : (x.slotFault k c d).aligned = x.aligned := rfl
@[simp] theorem Arr.slotFault_leaveClass (x : Arr) (k : Nat) (c : Cause) (d : Nat) : (x.slotFault k c d).leaveClass = x.leaveClass := rfl
@[simp] theorem Arr.slotFault_leaveLeft (x : Arr) (k : Nat) (c : Cause) (d : Nat) : (x.slotFault k c d).leaveLeft = x.leaveLeft := rfl
@[simp] theorem Arr.slotFault_scChain (x : Arr) (k : Nat) (c : Cause) (d : Nat) : (x.slotFault k c d).scChain = x.scChain := rfl
@[simp] theorem Arr.slotFault_scope (x : Arr) (k : Nat) (c : Cause) (d : Nat) : (x.slotFault k c d).scope = x.scope := rfl
@[simp] theorem Arr.slotFault_streams (x : Arr) (k : Nat) (c : Cause) (d : Nat) : (x.slotFault k c d).streams = x.streams := rfl
@[simp] theorem Arr.slotFault_reposition (x : Arr) (k : Nat) (c : Cause) (d : Nat) : (x.slotFault k c d).reposition = x.reposition := rfl
@[simp] theorem Arr.slotFault_north (x : Arr) (k : Nat) (c : Cause) (d : Nat) : (x.slotFault k c d).north = x.north := rfl
@[simp] theorem Arr.slotFault_west (x : Arr) (k : Nat) (c : Cause) (d : Nat) : (x.slotFault k c d).west = x.west := rfl
@[simp] theorem Arr.slotFault_sorter (x : Arr) (k : Nat) (c : Cause) (d : Nat) : (x.slotFault k c d).sorter = x.sorter := rfl
@[simp] theorem Arr.slotFault_edge (x : Arr) (k : Nat) (c : Cause) (d : Nat) : (x.slotFault k c d).edge = x.edge := rfl
@[simp] theorem Arr.slotFault_edgeCmds (x : Arr) (k : Nat) (c : Cause) (d : Nat) : (x.slotFault k c d).edgeCmds = x.edgeCmds := rfl
@[simp] theorem Arr.slotFault_captures (x : Arr) (k : Nat) (c : Cause) (d : Nat) : (x.slotFault k c d).captures = x.captures := rfl
@[simp] theorem Arr.slotFault_wave (x : Arr) (k : Nat) (c : Cause) (d : Nat) : (x.slotFault k c d).wave = x.wave := rfl
@[simp] theorem Arr.slotFault_phaseMark (x : Arr) (k : Nat) (c : Cause) (d : Nat) : (x.slotFault k c d).phaseMark = x.phaseMark := rfl
@[simp] theorem Arr.slotFault_steps (x : Arr) (k : Nat) (c : Cause) (d : Nat) : (x.slotFault k c d).steps = x.steps := rfl
@[simp] theorem Arr.slotFault_link (x : Arr) (k : Nat) (c : Cause) (d : Nat) : (x.slotFault k c d).link = x.link := rfl
@[simp] theorem Arr.slotFault_cells (x : Arr) (k : Nat) (c : Cause) (d : Nat) : (x.slotFault k c d).cells = x.cells := rfl
@[simp] theorem Arr.slotFault_prev (x : Arr) (k : Nat) (c : Cause) (d : Nat) : (x.slotFault k c d).prev = x.prev := rfl
@[simp] theorem Arr.slotFault_done (x : Arr) (k : Nat) (c : Cause) (d : Nat) : (x.slotFault k c d).done = x.done := rfl
@[simp] theorem Arr.slotFault_queue (x : Arr) (k : Nat) (c : Cause) (d : Nat) : (x.slotFault k c d).queue = x.queue := rfl
@[simp] theorem Arr.slotFault_nextId (x : Arr) (k : Nat) (c : Cause) (d : Nat) : (x.slotFault k c d).nextId = x.nextId := rfl
@[simp] theorem Arr.slotFault_point (x : Arr) (k : Nat) (c : Cause) (d : Nat) : (x.slotFault k c d).point = x.point := rfl
@[simp] theorem Arr.slotFault_sq (x : Arr) (k : Nat) (c : Cause) (d : Nat) : (x.slotFault k c d).sq = x.sq := rfl
@[simp] theorem Arr.slotFault_sprints (x : Arr) (k : Nat) (c : Cause) (d : Nat) : (x.slotFault k c d).sprints = x.sprints := rfl

/-! ### `Arr.goto` -/

@[simp] theorem Arr.goto_task (x : Arr) (t : Word64) (g : Nat) : (x.goto t g).task = x.task := rfl
@[simp] theorem Arr.goto_ctx (x : Arr) (t : Word64) (g : Nat) : (x.goto t g).ctx = x.ctx := rfl
@[simp] theorem Arr.goto_grpIdx (x : Arr) (t : Word64) (g : Nat) : (x.goto t g).grpIdx = x.grpIdx := rfl
@[simp] theorem Arr.goto_group (x : Arr) (t : Word64) (g : Nat) : (x.goto t g).group = x.group := rfl
@[simp] theorem Arr.goto_kind (x : Arr) (t : Word64) (g : Nat) : (x.goto t g).kind = x.kind := rfl
@[simp] theorem Arr.goto_prog (x : Arr) (t : Word64) (g : Nat) : (x.goto t g).prog = x.prog := rfl
@[simp] theorem Arr.goto_run (x : Arr) (t : Word64) (g : Nat) : (x.goto t g).run = x.run := rfl
@[simp] theorem Arr.goto_due (x : Arr) (t : Word64) (g : Nat) : (x.goto t g).due = x.due := rfl
@[simp] theorem Arr.goto_resume (x : Arr) (t : Word64) (g : Nat) : (x.goto t g).resume = x.resume := rfl
@[simp] theorem Arr.goto_resumeNext (x : Arr) (t : Word64) (g : Nat) : (x.goto t g).resumeNext = x.resumeNext := rfl
@[simp] theorem Arr.goto_reenter (x : Arr) (t : Word64) (g : Nat) : (x.goto t g).reenter = x.reenter := rfl
@[simp] theorem Arr.goto_ending (x : Arr) (t : Word64) (g : Nat) : (x.goto t g).ending = x.ending := rfl
@[simp] theorem Arr.goto_released (x : Arr) (t : Word64) (g : Nat) : (x.goto t g).released = x.released := rfl
@[simp] theorem Arr.goto_freeze (x : Arr) (t : Word64) (g : Nat) : (x.goto t g).freeze = x.freeze := rfl
@[simp] theorem Arr.goto_park (x : Arr) (t : Word64) (g : Nat) : (x.goto t g).park = x.park := rfl
@[simp] theorem Arr.goto_phcancel (x : Arr) (t : Word64) (g : Nat) : (x.goto t g).phcancel = x.phcancel := rfl
@[simp] theorem Arr.goto_halt (x : Arr) (t : Word64) (g : Nat) : (x.goto t g).halt = x.halt := rfl
@[simp] theorem Arr.goto_handler (x : Arr) (t : Word64) (g : Nat) : (x.goto t g).handler = x.handler := rfl
@[simp] theorem Arr.goto_latch (x : Arr) (t : Word64) (g : Nat) : (x.goto t g).latch = x.latch := rfl
@[simp] theorem Arr.goto_snap (x : Arr) (t : Word64) (g : Nat) : (x.goto t g).snap = x.snap := rfl
@[simp] theorem Arr.goto_regs (x : Arr) (t : Word64) (g : Nat) : (x.goto t g).regs = x.regs := rfl
@[simp] theorem Arr.goto_pendS (x : Arr) (t : Word64) (g : Nat) : (x.goto t g).pendS = x.pendS := rfl
@[simp] theorem Arr.goto_regPend (x : Arr) (t : Word64) (g : Nat) : (x.goto t g).regPend = x.regPend := rfl
@[simp] theorem Arr.goto_flagPend (x : Arr) (t : Word64) (g : Nat) : (x.goto t g).flagPend = x.flagPend := rfl
@[simp] theorem Arr.goto_traps (x : Arr) (t : Word64) (g : Nat) : (x.goto t g).traps = x.traps := rfl
@[simp] theorem Arr.goto_slotTrap (x : Arr) (t : Word64) (g : Nat) : (x.goto t g).slotTrap = x.slotTrap := rfl
@[simp] theorem Arr.goto_acnt (x : Arr) (t : Word64) (g : Nat) : (x.goto t g).acnt = x.acnt := rfl
@[simp] theorem Arr.goto_fcnt (x : Arr) (t : Word64) (g : Nat) : (x.goto t g).fcnt = x.fcnt := rfl
@[simp] theorem Arr.goto_retIv (x : Arr) (t : Word64) (g : Nat) : (x.goto t g).retIv = x.retIv := rfl
@[simp] theorem Arr.goto_retLeft (x : Arr) (t : Word64) (g : Nat) : (x.goto t g).retLeft = x.retLeft := rfl
@[simp] theorem Arr.goto_phNum (x : Arr) (t : Word64) (g : Nat) : (x.goto t g).phNum = x.phNum := rfl
@[simp] theorem Arr.goto_phDirty (x : Arr) (t : Word64) (g : Nat) : (x.goto t g).phDirty = x.phDirty := rfl
@[simp] theorem Arr.goto_cancels (x : Arr) (t : Word64) (g : Nat) : (x.goto t g).cancels = x.cancels := rfl
@[simp] theorem Arr.goto_clease (x : Arr) (t : Word64) (g : Nat) : (x.goto t g).clease = x.clease := rfl
@[simp] theorem Arr.goto_firstBundle (x : Arr) (t : Word64) (g : Nat) : (x.goto t g).firstBundle = x.firstBundle := rfl
@[simp] theorem Arr.goto_aligned (x : Arr) (t : Word64) (g : Nat) : (x.goto t g).aligned = x.aligned := rfl
@[simp] theorem Arr.goto_leaveClass (x : Arr) (t : Word64) (g : Nat) : (x.goto t g).leaveClass = x.leaveClass := rfl
@[simp] theorem Arr.goto_leaveLeft (x : Arr) (t : Word64) (g : Nat) : (x.goto t g).leaveLeft = x.leaveLeft := rfl
@[simp] theorem Arr.goto_scChain (x : Arr) (t : Word64) (g : Nat) : (x.goto t g).scChain = x.scChain := rfl
@[simp] theorem Arr.goto_scope (x : Arr) (t : Word64) (g : Nat) : (x.goto t g).scope = x.scope := rfl
@[simp] theorem Arr.goto_streams (x : Arr) (t : Word64) (g : Nat) : (x.goto t g).streams = x.streams := rfl
@[simp] theorem Arr.goto_reposition (x : Arr) (t : Word64) (g : Nat) : (x.goto t g).reposition = x.reposition := rfl
@[simp] theorem Arr.goto_north (x : Arr) (t : Word64) (g : Nat) : (x.goto t g).north = x.north := rfl
@[simp] theorem Arr.goto_west (x : Arr) (t : Word64) (g : Nat) : (x.goto t g).west = x.west := rfl
@[simp] theorem Arr.goto_sorter (x : Arr) (t : Word64) (g : Nat) : (x.goto t g).sorter = x.sorter := rfl
@[simp] theorem Arr.goto_edge (x : Arr) (t : Word64) (g : Nat) : (x.goto t g).edge = x.edge := rfl
@[simp] theorem Arr.goto_edgeCmds (x : Arr) (t : Word64) (g : Nat) : (x.goto t g).edgeCmds = x.edgeCmds := rfl
@[simp] theorem Arr.goto_captures (x : Arr) (t : Word64) (g : Nat) : (x.goto t g).captures = x.captures := rfl
@[simp] theorem Arr.goto_wave (x : Arr) (t : Word64) (g : Nat) : (x.goto t g).wave = x.wave := rfl
@[simp] theorem Arr.goto_phaseMark (x : Arr) (t : Word64) (g : Nat) : (x.goto t g).phaseMark = x.phaseMark := rfl
@[simp] theorem Arr.goto_steps (x : Arr) (t : Word64) (g : Nat) : (x.goto t g).steps = x.steps := rfl
@[simp] theorem Arr.goto_link (x : Arr) (t : Word64) (g : Nat) : (x.goto t g).link = x.link := rfl
@[simp] theorem Arr.goto_cells (x : Arr) (t : Word64) (g : Nat) : (x.goto t g).cells = x.cells := rfl
@[simp] theorem Arr.goto_prev (x : Arr) (t : Word64) (g : Nat) : (x.goto t g).prev = x.prev := rfl
@[simp] theorem Arr.goto_done (x : Arr) (t : Word64) (g : Nat) : (x.goto t g).done = x.done := rfl
@[simp] theorem Arr.goto_queue (x : Arr) (t : Word64) (g : Nat) : (x.goto t g).queue = x.queue := rfl
@[simp] theorem Arr.goto_nextId (x : Arr) (t : Word64) (g : Nat) : (x.goto t g).nextId = x.nextId := rfl
@[simp] theorem Arr.goto_point (x : Arr) (t : Word64) (g : Nat) : (x.goto t g).point = x.point := rfl
@[simp] theorem Arr.goto_sq (x : Arr) (t : Word64) (g : Nat) : (x.goto t g).sq = x.sq := rfl
@[simp] theorem Arr.goto_sprints (x : Arr) (t : Word64) (g : Nat) : (x.goto t g).sprints = x.sprints := rfl

/-! ### `Arr.raise` -/

@[simp] theorem Arr.raise_task (x : Arr) (c : Cause) (d : Nat) : (x.raise c d).task = x.task := rfl
@[simp] theorem Arr.raise_ctx (x : Arr) (c : Cause) (d : Nat) : (x.raise c d).ctx = x.ctx := rfl
@[simp] theorem Arr.raise_grpIdx (x : Arr) (c : Cause) (d : Nat) : (x.raise c d).grpIdx = x.grpIdx := rfl
@[simp] theorem Arr.raise_group (x : Arr) (c : Cause) (d : Nat) : (x.raise c d).group = x.group := rfl
@[simp] theorem Arr.raise_kind (x : Arr) (c : Cause) (d : Nat) : (x.raise c d).kind = x.kind := rfl
@[simp] theorem Arr.raise_prog (x : Arr) (c : Cause) (d : Nat) : (x.raise c d).prog = x.prog := rfl
@[simp] theorem Arr.raise_run (x : Arr) (c : Cause) (d : Nat) : (x.raise c d).run = x.run := rfl
@[simp] theorem Arr.raise_due (x : Arr) (c : Cause) (d : Nat) : (x.raise c d).due = x.due := rfl
@[simp] theorem Arr.raise_resume (x : Arr) (c : Cause) (d : Nat) : (x.raise c d).resume = x.resume := rfl
@[simp] theorem Arr.raise_resumeNext (x : Arr) (c : Cause) (d : Nat) : (x.raise c d).resumeNext = x.resumeNext := rfl
@[simp] theorem Arr.raise_reenter (x : Arr) (c : Cause) (d : Nat) : (x.raise c d).reenter = x.reenter := rfl
@[simp] theorem Arr.raise_ending (x : Arr) (c : Cause) (d : Nat) : (x.raise c d).ending = x.ending := rfl
@[simp] theorem Arr.raise_gap (x : Arr) (c : Cause) (d : Nat) : (x.raise c d).gap = x.gap := rfl
@[simp] theorem Arr.raise_released (x : Arr) (c : Cause) (d : Nat) : (x.raise c d).released = x.released := rfl
@[simp] theorem Arr.raise_freeze (x : Arr) (c : Cause) (d : Nat) : (x.raise c d).freeze = x.freeze := rfl
@[simp] theorem Arr.raise_park (x : Arr) (c : Cause) (d : Nat) : (x.raise c d).park = x.park := rfl
@[simp] theorem Arr.raise_phcancel (x : Arr) (c : Cause) (d : Nat) : (x.raise c d).phcancel = x.phcancel := rfl
@[simp] theorem Arr.raise_halt (x : Arr) (c : Cause) (d : Nat) : (x.raise c d).halt = x.halt := rfl
@[simp] theorem Arr.raise_transfer (x : Arr) (c : Cause) (d : Nat) : (x.raise c d).transfer = x.transfer := rfl
@[simp] theorem Arr.raise_handler (x : Arr) (c : Cause) (d : Nat) : (x.raise c d).handler = x.handler := rfl
@[simp] theorem Arr.raise_latch (x : Arr) (c : Cause) (d : Nat) : (x.raise c d).latch = x.latch := rfl
@[simp] theorem Arr.raise_snap (x : Arr) (c : Cause) (d : Nat) : (x.raise c d).snap = x.snap := rfl
@[simp] theorem Arr.raise_regs (x : Arr) (c : Cause) (d : Nat) : (x.raise c d).regs = x.regs := rfl
@[simp] theorem Arr.raise_pendS (x : Arr) (c : Cause) (d : Nat) : (x.raise c d).pendS = x.pendS := rfl
@[simp] theorem Arr.raise_regPend (x : Arr) (c : Cause) (d : Nat) : (x.raise c d).regPend = x.regPend := rfl
@[simp] theorem Arr.raise_flagPend (x : Arr) (c : Cause) (d : Nat) : (x.raise c d).flagPend = x.flagPend := rfl
@[simp] theorem Arr.raise_slotTrap (x : Arr) (c : Cause) (d : Nat) : (x.raise c d).slotTrap = x.slotTrap := rfl
@[simp] theorem Arr.raise_acnt (x : Arr) (c : Cause) (d : Nat) : (x.raise c d).acnt = x.acnt := rfl
@[simp] theorem Arr.raise_fcnt (x : Arr) (c : Cause) (d : Nat) : (x.raise c d).fcnt = x.fcnt := rfl
@[simp] theorem Arr.raise_retIv (x : Arr) (c : Cause) (d : Nat) : (x.raise c d).retIv = x.retIv := rfl
@[simp] theorem Arr.raise_retLeft (x : Arr) (c : Cause) (d : Nat) : (x.raise c d).retLeft = x.retLeft := rfl
@[simp] theorem Arr.raise_phNum (x : Arr) (c : Cause) (d : Nat) : (x.raise c d).phNum = x.phNum := rfl
@[simp] theorem Arr.raise_phDirty (x : Arr) (c : Cause) (d : Nat) : (x.raise c d).phDirty = x.phDirty := rfl
@[simp] theorem Arr.raise_cancels (x : Arr) (c : Cause) (d : Nat) : (x.raise c d).cancels = x.cancels := rfl
@[simp] theorem Arr.raise_clease (x : Arr) (c : Cause) (d : Nat) : (x.raise c d).clease = x.clease := rfl
@[simp] theorem Arr.raise_firstBundle (x : Arr) (c : Cause) (d : Nat) : (x.raise c d).firstBundle = x.firstBundle := rfl
@[simp] theorem Arr.raise_aligned (x : Arr) (c : Cause) (d : Nat) : (x.raise c d).aligned = x.aligned := rfl
@[simp] theorem Arr.raise_leaveClass (x : Arr) (c : Cause) (d : Nat) : (x.raise c d).leaveClass = x.leaveClass := rfl
@[simp] theorem Arr.raise_leaveLeft (x : Arr) (c : Cause) (d : Nat) : (x.raise c d).leaveLeft = x.leaveLeft := rfl
@[simp] theorem Arr.raise_scChain (x : Arr) (c : Cause) (d : Nat) : (x.raise c d).scChain = x.scChain := rfl
@[simp] theorem Arr.raise_scope (x : Arr) (c : Cause) (d : Nat) : (x.raise c d).scope = x.scope := rfl
@[simp] theorem Arr.raise_streams (x : Arr) (c : Cause) (d : Nat) : (x.raise c d).streams = x.streams := rfl
@[simp] theorem Arr.raise_reposition (x : Arr) (c : Cause) (d : Nat) : (x.raise c d).reposition = x.reposition := rfl
@[simp] theorem Arr.raise_north (x : Arr) (c : Cause) (d : Nat) : (x.raise c d).north = x.north := rfl
@[simp] theorem Arr.raise_west (x : Arr) (c : Cause) (d : Nat) : (x.raise c d).west = x.west := rfl
@[simp] theorem Arr.raise_sorter (x : Arr) (c : Cause) (d : Nat) : (x.raise c d).sorter = x.sorter := rfl
@[simp] theorem Arr.raise_edge (x : Arr) (c : Cause) (d : Nat) : (x.raise c d).edge = x.edge := rfl
@[simp] theorem Arr.raise_edgeCmds (x : Arr) (c : Cause) (d : Nat) : (x.raise c d).edgeCmds = x.edgeCmds := rfl
@[simp] theorem Arr.raise_captures (x : Arr) (c : Cause) (d : Nat) : (x.raise c d).captures = x.captures := rfl
@[simp] theorem Arr.raise_wave (x : Arr) (c : Cause) (d : Nat) : (x.raise c d).wave = x.wave := rfl
@[simp] theorem Arr.raise_phaseMark (x : Arr) (c : Cause) (d : Nat) : (x.raise c d).phaseMark = x.phaseMark := rfl
@[simp] theorem Arr.raise_steps (x : Arr) (c : Cause) (d : Nat) : (x.raise c d).steps = x.steps := rfl
@[simp] theorem Arr.raise_link (x : Arr) (c : Cause) (d : Nat) : (x.raise c d).link = x.link := rfl
@[simp] theorem Arr.raise_cells (x : Arr) (c : Cause) (d : Nat) : (x.raise c d).cells = x.cells := rfl
@[simp] theorem Arr.raise_prev (x : Arr) (c : Cause) (d : Nat) : (x.raise c d).prev = x.prev := rfl
@[simp] theorem Arr.raise_done (x : Arr) (c : Cause) (d : Nat) : (x.raise c d).done = x.done := rfl
@[simp] theorem Arr.raise_queue (x : Arr) (c : Cause) (d : Nat) : (x.raise c d).queue = x.queue := rfl
@[simp] theorem Arr.raise_nextId (x : Arr) (c : Cause) (d : Nat) : (x.raise c d).nextId = x.nextId := rfl
@[simp] theorem Arr.raise_point (x : Arr) (c : Cause) (d : Nat) : (x.raise c d).point = x.point := rfl
@[simp] theorem Arr.raise_sq (x : Arr) (c : Cause) (d : Nat) : (x.raise c d).sq = x.sq := rfl
@[simp] theorem Arr.raise_sprints (x : Arr) (c : Cause) (d : Nat) : (x.raise c d).sprints = x.sprints := rfl

end Sys2Proof.Machine
end

