-- ==== Sys2Proof/Laws/Arrays.lean ====
section
/-! SUPPORT. What reading and changing arrays, clusters and tasks do, said once. -/

namespace Sys2Proof.Machine

@[simp] theorem getA_setA_same (s : State) (a : Fin 32) (x : Arr) : getA (setA s a x) a = x := by
  simp [getA, setA]

theorem getA_setA_ne (s : State) {a b : Fin 32} (x : Arr) (h : b ≠ a) : getA (setA s a x) b = getA s b := by
  simp only [getA, setA, Fin.getElem_fin]
  rw [Vector.getElem_set_ne]
  exact fun e => h (Fin.ext e.symm)

/-- What reading an array gives after any array is put. -/
theorem getA_setA (s : State) (a b : Fin 32) (x : Arr) :
    getA (setA s a x) b = if b = a then x else getA s b := by
  split
  · next h => subst h; simp
  · next h => exact getA_setA_ne s x h

@[simp] theorem setA_setA (s : State) (a : Fin 32) (x y : Arr) : setA (setA s a x) a y = setA s a y := by
  simp [setA, Vector.set_set]

@[simp] theorem setA_getA (s : State) (a : Fin 32) : setA s a (getA s a) = s := by
  simp [setA, getA]

@[simp] theorem getA_updA_same (s : State) (a : Fin 32) (f : Arr → Arr) :
    getA (updA s a f) a = f (getA s a) := by simp [updA]

theorem getA_updA_ne (s : State) {a b : Fin 32} (f : Arr → Arr) (h : b ≠ a) :
    getA (updA s a f) b = getA s b := getA_setA_ne s _ h

theorem getA_updA (s : State) (a b : Fin 32) (f : Arr → Arr) :
    getA (updA s a f) b = if b = a then f (getA s a) else getA s b := getA_setA s a b _

@[simp] theorem updA_updA (s : State) (a : Fin 32) (f g : Arr → Arr) :
    updA (updA s a f) a g = updA s a fun x => g (f x) := by
  simp [updA]

@[simp] theorem updA_id (s : State) (a : Fin 32) : (updA s a fun x => x) = s := by simp [updA]

/-- Two changes that agree on the array as it stands make the same state. -/
theorem updA_congr (s : State) (a : Fin 32) {f g : Arr → Arr} (h : f (getA s a) = g (getA s a)) :
    updA s a f = updA s a g := by simp only [updA, h]

@[simp] theorem curA_updCur (s : State) (f : Arr → Arr) : curA (updCur s f) = f (curA s) := by
  simp [curA, updCur]

@[simp] theorem updCur_updCur (s : State) (f g : Arr → Arr) :
    updCur (updCur s f) g = updCur s fun x => g (f x) := by
  simp [updCur]

@[simp] theorem updCur_id (s : State) : (updCur s fun x => x) = s := by simp [updCur]

/-- Two changes that agree on the issuing array as it stands make the same state. -/
theorem updCur_congr (s : State) {f g : Arr → Arr} (h : f (curA s) = g (curA s)) : updCur s f = updCur s g :=
  updA_congr s s.cur h

theorem getA_updCur (s : State) (b : Fin 32) (f : Arr → Arr) :
    getA (updCur s f) b = if b = s.cur then f (curA s) else getA s b := getA_updA s s.cur b f

theorem updCur_eq_setA (s : State) (f : Arr → Arr) : updCur s f = setA s s.cur (f (curA s)) := rfl

@[simp] theorem curA_bump (s : State) : curA (bump s) = curA s := rfl

@[simp] theorem getA_bump (s : State) (a : Fin 32) : getA (bump s) a = getA s a := rfl

/-! ### Changes made over a list -/

/-- What every move of a list keeps, the list keeps. -/
theorem foldl_keep {β γ : Type} (l : List β) (f : State → β → State) (P : State → γ)
    (h : ∀ s b, P (f s b) = P s) (s : State) : P (l.foldl f s) = P s := by
  induction l generalizing s with
  | nil => rfl
  | cons b l ih => rw [List.foldl_cons, ih, h]

/-- Where every move of a list changes arrays alone, the list does. -/
theorem foldl_arrs {β : Type} (l : List β) (f : State → β → State)
    (h : ∀ s b, f s b = { s with arrs := (f s b).arrs }) (s : State) :
    l.foldl f s = { s with arrs := (l.foldl f s).arrs } := by
  induction l generalizing s with
  | nil => rfl
  | cons b l ih => rw [List.foldl_cons, ih, h]

theorem updA_arrs (s : State) (a : Fin 32) (f : Arr → Arr) : updA s a f = { s with arrs := (updA s a f).arrs } := rfl

theorem updAll_arrs (s : State) (as : List (Fin 32)) (f : Arr → Arr) :
    updAll s as f = { s with arrs := (updAll s as f).arrs } := foldl_arrs as _ (fun s a => updA_arrs s a f) s

theorem updAll_cons (s : State) (a : Fin 32) (as : List (Fin 32)) (f : Arr → Arr) :
    updAll s (a :: as) f = updAll (updA s a f) as f := rfl

/-- What a change of arrays keeps of each, a change of several keeps. -/
theorem updAll_keep {γ : Type} (s : State) (as : List (Fin 32)) (f : Arr → Arr) (m : Fin 32) (P : Arr → γ)
    (h : ∀ x, P (f x) = P x) : P (getA (updAll s as f) m) = P (getA s m) := by
  refine foldl_keep as _ (fun s => P (getA s m)) (fun s b => ?_) s
  rw [getA_updA]
  split
  · next e => rw [h, e]
  · rfl

/-- What a change of arrays brings about, a change of several brings about in each of them. -/
theorem updAll_holds (s : State) (as : List (Fin 32)) (f : Arr → Arr) (m : Fin 32) (P : Arr → Prop)
    (h : ∀ x, P (f x)) (hm : m ∈ as) : P (getA (updAll s as f) m) := by
  suffices ∀ s, m ∈ as ∨ P (getA s m) → P (getA (updAll s as f) m) from this s (.inl hm)
  clear hm s
  induction as with
  | nil => intro s hm; exact hm.resolve_left (by simp)
  | cons a as ih =>
    intro s hm
    rw [updAll_cons]
    apply ih
    rw [getA_updA]
    split
    · exact .inr (h _)
    · next e =>
      rcases hm with hm | hm
      · exact .inl ((List.mem_cons.1 hm).resolve_left e)
      · exact .inr hm

/-- A change of several arrays leaves the others. -/
theorem getA_updAll_out (s : State) (as : List (Fin 32)) (f : Arr → Arr) (m : Fin 32) (h : m ∉ as) :
    getA (updAll s as f) m = getA s m := by
  induction as generalizing s with
  | nil => rfl
  | cons a as ih =>
    have h1 : m ≠ a := by
      intro e
      exact h (by simp [e])
    rw [updAll_cons, ih _ (fun e => h (List.mem_cons_of_mem _ e)), getA_updA, if_neg h1]

end Sys2Proof.Machine
end

