-- ==== Sys2Proof/Laws/Forms.lean ====
section
/-! SUPPORT. What the operations that the slot forms share do, said once for each. -/

namespace Sys2Proof.Machine

/-- R17: a form whose predicate lets it act acts. -/
theorem gated_lets {s : State} {p : Fin 8} {f : State → State} (h : s.lets p) : gated p s f = f s := by
  simp only [State.lets] at h
  simp [gated, h]

/-- R17: a form whose predicate is false does nothing. -/
theorem gated_off {s : State} {p : Fin 8} {f : State → State} (h : ¬ s.lets p) : gated p s f = s := by
  simp only [State.lets] at h
  simp [gated, h]

theorem updCur_ws (s : State) (d : Fin 32) (f : Arr → Word64) :
    (updCur s fun x => x.ws d (f x)) = wrote s d (f (curA s)) := by
  unfold wrote
  apply updCur_congr
  simp only [Arr.ws, SeqRegs.putS]
  split <;> rfl

theorem sclWrite_lets {s : State} {p : Fin 8} {d : Fin 32} (f : Arr → Word64) (h : s.lets p) :
    sclWrite p d f s = wrote s d (f (curA s)) := by
  rw [sclWrite, gated_lets h, updCur_ws]

theorem sclWrite3_lets {s : State} {p : Fin 8} {d : Fin 32} (f : Arr → Word64) (h : s.lets p) :
    sclWrite3 p d f s
      = bump (updCur s fun x => x.pendWrite (.s d (f (curA s))) (landingCycle s (curA s) 3)) := by
  rw [sclWrite3, gated_lets h]
  exact congrArg bump (updCur_congr s rfl)

/-- R8: a result of latency bound `n` lands after this cycle and within the bound. -/
theorem landingCycle_bounds (s : State) (x : Arr) {n : Nat} (h : 0 < n) :
    x.acnt < landingCycle s x n ∧ landingCycle s x n ≤ x.acnt + n := by
  have := Nat.mod_lt (Config.landing s.freeCtr) h
  unfold landingCycle
  omega

theorem updCur_enqueue (s : State) (op : QOp) (c : Cap) (off : Nat) :
    (updCur s fun x => x.enqueue op c off) = queued s op c off := rfl

theorem updCur_setPending (s : State) (d : Fin 32) : (updCur s fun x => x.setPending d) = pended s d := rfl

theorem updCur_dirty (s : State) : (updCur s fun x => x.dirty) = dirtied s := rfl

theorem updCur_slotFault (s : State) (k : Nat) (c : Cause) (d : Nat) :
    (updCur s fun x => x.slotFault k c d) = trapped s k k c (BitVec.ofNat 48 d) := rfl

/-! ### Memory forms -/

/-- R135: an access that passes every check has no failing check; one through a noise capability needs a form that may. -/
theorem permits_ok {s : State} {h : Fin 16} {need : List Nat} {off size align : Nat} {w : Word64}
    (H : s.Permits h need off size align) (hw : w.toNat = off) (noise : Bool)
    (hn : ((curA s).rh h).has Right.noise = true → noise = true) :
    capFail ((curA s).rh h) need w size align noise = none := by
  obtain ⟨h1, h2, h3, h4, h5⟩ := H
  subst hw
  unfold capFail
  rw [if_neg (by simp [h1]), if_neg (by simpa using h2), if_neg (by omega),
    if_neg (by simpa [State.objectOffset] using h5), if_neg]
  simpa using hn

/-- R135: a form whose access passes its checks does what it does. -/
theorem memForm_ok {s : State} {p : Fin 8} {m : Arr → Access} {c : Access → State → State} (h : s.lets p)
    (hf : (m (curA s)).fail (curA s) = none) : memForm p m s c = c (m (curA s)) s := by
  rw [memForm, gated_lets h]
  simp only [hf]

/-- R135, R338: one whose access fails a check raises the capability fault of that check in slot 2. -/
theorem memForm_bad {s : State} {p : Fin 8} {sub : Nat} {m : Arr → Access} {c : Access → State → State} (h : s.lets p)
    (hf : (m (curA s)).fail (curA s) = some sub) :
    memForm p m s c = trapped s 2 2 .capability (BitVec.ofNat 48 (sub + 256 * (m (curA s)).h.val)) := by
  rw [memForm, gated_lets h]
  simp only [hf]
  rfl

/-- R44: the offset of an access. -/
theorem offset_toNat (x : Arr) (o : Fin 32) (i : BitVec 5) (w : Nat) :
    (offset x o i w).toNat = ((x.rs o).toNat + i.toNat * w) % 2 ^ 64 := by
  simp [offset, w64, BitVec.toNat_add]

/-! ### Feeder and edge forms on an array that is no chain's -/

theorem tall_cluster {s : State} (h : (curA s).kind = .cluster) : tall s s.cur = [s.cur] := by
  have h' : (getA s s.cur).kind = .cluster := h
  simp [tall, h']

theorem feederTargets_cluster {s : State} (west : Bool) (h : (curA s).kind = .cluster) :
    feederTargets s west = [s.cur] := by
  simp [feederTargets, tall_cluster h]

/-- R206, R209, R210, R236: a feeder form begins with nothing pending on its feeder and, for a pop, with its stream bound.
A pop enters the load queue, and the rotation that stands is bound to it. -/
theorem feederForm_begins {s : State} {p : Fin 8} {q : Fin 16} {k : Skew} {n : Nat} {west : Bool} {kind : FeederKind}
    (hl : s.lets p) (hk : (curA s).kind = .cluster) (hw : ((curA s).feeder west).Idle)
    (hm : kind.pops = true → (curA s).streams[q].mode = .bound ∨ (curA s).streams[q].mode = .binding
      ∨ (curA s).streams[q].mode = .exhausted) :
    feederForm west p kind q k n s = updCur s fun x =>
      let e := x.nextId
      let x := if kind.pops then x.enqueue (.pop s.cur west) Cap.none 0 else x
      x.setFeeder west ((x.feeder west).begin (curA s).acnt 0
        ⟨kind, q, k, ((curA s).feeder west).rot, n, false, s.cur, e⟩) := by
  rw [feederForm, gated_lets hl]
  dsimp only
  rw [feederTargets_cluster west hk]
  have none' : (if kind.pops then (List.filterMap (fun a => popFault (getA s a) q) [s.cur]).head? else none) = none := by
    split
    · next h =>
      have e : popFault (getA s s.cur) q = none := by
        have hm : (getA s s.cur).streams[q].mode = _ ∨ (getA s s.cur).streams[q].mode = _
          ∨ (getA s s.cur).streams[q].mode = _ := hm h
        unfold popFault
        rcases hm with hm | hm | hm <;> rw [hm]
      simp [e]
    · rfl
  have hw' : ((getA s s.cur).feeder west).Idle := hw
  obtain ⟨h1, h2, h3⟩ := hw'
  rw [none']
  dsimp only
  rw [if_neg (by simp [Arr.clashes, Feeder.clash, Feeder.pending, h1, h2, h3])]
  simp only [List.foldl_cons, List.foldl_nil]
  have hk : (getA s s.cur).kind = .cluster := hk
  have hd : linkDelay (getA s s.cur) = 0 := by simp [linkDelay, hk]
  have hb : feederBase (getA s s.cur) west = 0 := by simp [feederBase, rowBase, hk]
  have hs : ((getA s s.cur).feeder west).standing = ((getA s s.cur).feeder west).rot := by simp [Feeder.standing, h3]
  split
  · have hc : (updCur s fun x => x.enqueue (QOp.pop s.cur west) Cap.none 0).cur = s.cur := rfl
    rw [updCur, updA_updA]
    refine updA_congr _ _ ?_
    have hd : linkDelay ((getA s s.cur).enqueue (QOp.pop s.cur west) Cap.none 0) = 0 := hd
    have hb : feederBase ((getA s s.cur).enqueue (QOp.pop s.cur west) Cap.none 0) west = 0 := hb
    have hf : ((getA s s.cur).enqueue (QOp.pop s.cur west) Cap.none 0).feeder west = (getA s s.cur).feeder west := rfl
    simp only [Feeder.give, hd, hb, hf, hs, if_true, Feeder.act, curA]
  · refine updA_congr _ _ ?_
    simp only [Feeder.give, hd, hb, hs, if_true, Feeder.act, curA]

/-- R215: a pushing form whose streams take blocks does what it does. -/
theorem pushForm_ok {s : State} {p : Fin 8} {as : State → List (Fin 32)} {q : Fin 16} {f : State → State} (hl : s.lets p)
    (h : ∀ a ∈ as s, pushFault (getA s a) q = none) : pushForm p as q s f = f s := by
  rw [pushForm, gated_lets hl]
  have : (as s).filterMap (fun a => pushFault (getA s a) q) = [] := by
    rw [List.filterMap_eq_nil_iff]
    exact h
  simp [this]

/-! ### Forms that are abandoned -/

theorem dropEntries_arrs (s : State) (a : Fin 32) (l : List Nat) :
    dropEntries s a l = { s with arrs := (dropEntries s a l).arrs } := rfl

/-- R346: abandoning forms changes arrays alone. -/
theorem abandonForms_arrs (s : State) (a : Fin 32) (travel : Bool) :
    abandonForms s a travel = { s with arrs := (abandonForms s a travel).arrs } := by
  unfold abandonForms
  dsimp only
  rw [updA_arrs, foldl_arrs _ _ fun s b => dropEntries_arrs s _ _]

/-- R346: where no beat is on its way down a chain, the array has no feeder or edge form after it. -/
theorem abandonForms_none (s : State) (a : Fin 32) (travel : Bool) (h : travel = false ∨ linkDelay (getA s a) = 0) :
    (getA (abandonForms s a travel) a).north.form = none ∧ (getA (abandonForms s a travel) a).west.form = none
      ∧ (getA (abandonForms s a travel) a).edge = none := by
  have hd : (if travel then linkDelay (getA s a) else 0) = 0 := by
    rcases h with h | h <;> simp [h]
  have hf (f : Feeder) (now base : Nat) : (f.abandon now 0 base).form = none := by
    unfold Feeder.abandon
    split
    · simpa
    · next m hm =>
      have : m.issued now 0 now = none := by simp [FeederForm.issued]
      simp [this]
  have he (x : Arr) : (x.edge.bind fun e => e.issued 0) = none := by
    cases x.edge with
    | none => rfl
    | some e => cases e <;> simp [EdgeForm.issued]
  unfold abandonForms
  dsimp only
  rw [getA_updA, if_pos rfl]
  rw [hd]
  exact ⟨hf _ _ _, hf _ _ _, he _⟩

/-- R346: it keeps what of an array depends on neither its queue, its feeders nor its edge. -/
theorem abandonForms_keep {γ : Type} (s : State) (a m : Fin 32) (travel : Bool) (P : Arr → γ)
    (hq : ∀ x q, P { x with queue := q } = P x)
    (hn : ∀ x n w e c d, P { x with north := n, west := w, edge := e, edgeCmds := c, captures := d } = P x) :
    P (getA (abandonForms s a travel) m) = P (getA s m) := by
  have drop : ∀ (l : List (Fin 32 × List Nat)) (k : Fin 32),
      P (getA (l.foldl (fun s e => dropEntries s e.1 e.2) s) k) = P (getA s k) := by
    intro l k
    refine foldl_keep l _ (fun s => P (getA s k)) (fun s b => ?_) s
    rw [dropEntries, getA_updA]
    split
    · next e => rw [hq, e]
    · rfl
  unfold abandonForms
  dsimp only
  rw [getA_updA]
  split
  · next e => rw [hn, e, drop]
  · rw [drop]

/-! ### The slots of a bundle -/

/-- R16, R20, R39, R232, R233: a word that passes every check of its slot runs as its form. -/
theorem slotPlan_run {s : State} {k : Nat} {i : Instr} (hw : (curA s).word k ≠ 0) (hi : (curA s).form k = some i)
    (hd : (curA s).duplicate k = false) (ht : isTail (curA s) = false ∨ k < 3)
    (hu : unaligned s s.cur = false ∨ k < 4) (hb : busySlot s k = false) : slotPlan s k = .run i := by
  have ht : (isTail (curA s) && decide (3 ≤ k)) = false := by
    rcases ht with h | h
    · simp [h]
    · simp; omega
  have hu : (unaligned s s.cur && decide (4 ≤ k)) = false := by
    rcases hu with h | h
    · simp [h]
    · simp; omega
  simp [slotPlan, hw, hi, hd, ht, hu, hb]

/-- R38: a NOP word passes. -/
theorem slotPlan_nop {s : State} {k : Nat} (hw : (curA s).word k = 0) : slotPlan s k = .pass := by simp [slotPlan, hw]

/-- R39: an illegal word raises the illegal-instruction trap. -/
theorem slotPlan_illegal {s : State} {k : Nat} (hw : (curA s).word k ≠ 0) (hi : (curA s).form k = none) :
    slotPlan s k = .fault ((curA s).illegalFault k 1 (fld ((curA s).word k) 25 7)) := by
  simp [slotPlan, hw, hi]

end Sys2Proof.Machine
end

