-- ==== Sys2Proof/Laws/Memory.lean ====
section
/-! SUPPORT. The canonical form of memory is kept by every operation on it, and what a byte reads as after one. -/

namespace Sys2Proof.Machine

/-! ### Tables -/

theorem tableFind_tableSet {α : Type} (t : List (Nat × α)) (k : Nat) (v : α) (j : Nat) :
    tableFind (tableSet t k v) j = if j = k then some v else tableFind t j := by
  induction t with
  | nil => simp [tableSet, tableFind]
  | cons e t ih =>
    obtain ⟨k', v'⟩ := e
    simp only [tableSet]
    split
    · next h => subst h; simp only [tableFind]; split <;> rfl
    · split
      · simp only [tableFind]
      · simp only [tableFind, ih]
        split
        · next h1 h2 h3 => rw [if_neg (by omega)]
        · rfl

theorem tableFind_tableErase {α : Type} (t : List (Nat × α)) (k j : Nat) :
    tableFind (tableErase t k) j = if j = k then none else tableFind t j := by
  induction t with
  | nil => simp [tableErase, tableFind]
  | cons e t ih =>
    obtain ⟨k', v'⟩ := e
    simp only [tableErase, List.filter_cons] at ih ⊢
    by_cases h : k' = k
    · subst h
      simp only [bne_self_eq_false, Bool.false_eq_true, if_false, ih, tableFind]
      split <;> rfl
    · simp only [bne_iff_ne, ne_eq, h, not_false_eq_true, if_true, tableFind, ih]
      split
      · next h1 => rw [if_neg (by omega)]
      · rfl

/-! ### One byte -/

/-- R142: a byte written reads back, and no other byte changes. -/
theorem Memory.read_write (m : List Host.Cell) (a z : Nat) (b : Byte) :
    Memory.read (Memory.write m a b) z = if z = a then b else Memory.read m z := by
  unfold Memory.read Memory.write tableGet
  split
  · next h => rw [tableFind_tableErase]; split <;> simp [h]
  · rw [tableFind_tableSet]; split <;> rfl

theorem Memory.wfFrom_le {m : List Host.Cell} {lo hi : Nat} (h : Memory.wfFrom hi m = true) (hl : lo ≤ hi) :
    Memory.wfFrom lo m = true := by
  cases m with
  | nil => rfl
  | cons e t =>
    obtain ⟨k, v⟩ := e
    simp only [Memory.wfFrom, Bool.and_eq_true, decide_eq_true_eq] at h ⊢
    exact ⟨⟨by omega, h.1.2⟩, h.2⟩

theorem Memory.wfFrom_filter (m : List Host.Cell) (p : Host.Cell → Bool) (lo : Nat) (h : Memory.wfFrom lo m = true) :
    Memory.wfFrom lo (m.filter p) = true := by
  induction m generalizing lo with
  | nil => rfl
  | cons e t ih =>
    obtain ⟨k, v⟩ := e
    simp only [Memory.wfFrom, Bool.and_eq_true, decide_eq_true_eq] at h
    simp only [List.filter_cons]
    split
    · simp only [Memory.wfFrom, Bool.and_eq_true, decide_eq_true_eq]
      exact ⟨h.1, ih _ h.2⟩
    · exact Memory.wfFrom_le (ih _ h.2) (by omega)

theorem Memory.wfFrom_tableSet (m : List Host.Cell) (lo a : Nat) (b : Byte) (h : Memory.wfFrom lo m = true)
    (hl : lo ≤ a) (hb : b ≠ Memory.unlisted) : Memory.wfFrom lo (tableSet m a b) = true := by
  induction m generalizing lo with
  | nil => simp [tableSet, Memory.wfFrom, hl, hb]
  | cons e t ih =>
    obtain ⟨k, v⟩ := e
    simp only [Memory.wfFrom, Bool.and_eq_true, decide_eq_true_eq] at h
    simp only [tableSet]
    split
    · next e => subst e; simpa [Memory.wfFrom, hl, hb] using h.2
    · split
      · next h1 =>
        simp only [Memory.wfFrom, Bool.and_eq_true, decide_eq_true_eq]
        exact ⟨⟨hl, hb⟩, ⟨by omega, h.1.2⟩, h.2⟩
      · simp only [Memory.wfFrom, Bool.and_eq_true, decide_eq_true_eq]
        exact ⟨h.1, ih _ h.2 (by omega)⟩

theorem Memory.wf_write {m : List Host.Cell} (a : Nat) (b : Byte) (h : Memory.wf m = true) :
    Memory.wf (Memory.write m a b) = true := by
  unfold Memory.write
  split
  · exact Memory.wfFrom_filter m _ 0 h
  · next hb => exact Memory.wfFrom_tableSet m 0 a b h (by omega) hb

/-! ### Several bytes -/

theorem Memory.wf_writeN {m : List Host.Cell} (a n v : Nat) (h : Memory.wf m = true) :
    Memory.wf (Memory.writeN m a n v) = true := by
  induction n generalizing m a v with
  | zero => exact h
  | succ n ih => exact ih _ _ (Memory.wf_write a _ h)

/-- R142: bytes outside the `n` from `a` are as before. -/
theorem Memory.read_writeN_out (m : List Host.Cell) (a n v z : Nat) (h : z < a ∨ a + n ≤ z) :
    Memory.read (Memory.writeN m a n v) z = Memory.read m z := by
  induction n generalizing m a v with
  | zero => rfl
  | succ n ih =>
    rw [Memory.writeN, ih _ _ _ (by omega), Memory.read_write, if_neg (by omega)]

theorem Memory.wf_fill {m : List Host.Cell} (base size : Nat) (l : List Host.Cell) (h : Memory.wf m = true) :
    Memory.wf (Memory.fill m base size l) = true := by
  unfold Memory.fill
  have h1 : Memory.wf (m.filter fun e => !decide (base ≤ e.1 ∧ e.1 < base + size)) = true :=
    Memory.wfFrom_filter m _ 0 h
  revert h1
  generalize m.filter (fun e => !decide (base ≤ e.1 ∧ e.1 < base + size)) = m'
  intro h1
  induction l generalizing m' with
  | nil => exact h1
  | cons e l ih =>
    rw [List.foldl_cons]
    apply ih
    split
    · exact Memory.wf_write _ _ h1
    · exact h1

/-! ### Operations of the part -/

@[simp] theorem enterPoison_mem (s : State) (k : Nat) : (enterPoison s k).mem = s.mem := by
  unfold enterPoison
  dsimp only
  split
  · rfl
  · split <;> rfl

/-- R384, R385: every store keeps the canonical form. -/
theorem wf_writePhys {s : State} (a n v : Nat) (bad : Bool) (h : Memory.wf s.mem = true) :
    Memory.wf (writePhys s a n v bad).mem = true := by
  unfold writePhys
  split
  · exact h
  · dsimp only
    split
    · rw [enterPoison_mem]; exact Memory.wf_writeN _ _ _ h
    · split <;> exact Memory.wf_writeN _ _ _ h

/-- R277: so does the writing of a page's descriptor. -/
theorem wf_setDesc {s : State} (e : ObjEntry) (ctx : BitVec 12) (obj : BitVec 24) (page : Nat) (d : BitVec 128)
    (h : Memory.wf s.mem = true) : Memory.wf (setDesc s e ctx obj page d).mem = true := by
  unfold setDesc
  dsimp only
  split
  · exact Memory.wf_writeN _ _ _ h
  · exact h
  · exact h

/-- R284: so does the filling of a page. -/
theorem wf_putRange {s : State} (base size : Nat) (p : BackPage) (h : Memory.wf s.mem = true) :
    Memory.wf (putRange s base size p).mem = true := by
  unfold putRange
  dsimp only
  have h1 : Memory.wf (freePoison { s with mem := Memory.fill s.mem base size p.bytes } base size).mem = true :=
    Memory.wf_fill _ _ _ h
  revert h1
  generalize freePoison { s with mem := Memory.fill s.mem base size p.bytes } base size = t
  intro h1
  induction p.poison generalizing t with
  | nil => exact h1
  | cons k l ih =>
    rw [List.foldl_cons]
    apply ih
    rw [enterPoison_mem]
    exact h1

/-- At reset memory is in its canonical form. -/
theorem wf_reset : Memory.wf State.reset.mem = true := rfl

end Sys2Proof.Machine
end

