-- ==== Sys2Proof/Laws/PerInstr.lean ====
section
/-! SUPPORT. For each constructor of `Instr`: it has a word exactly when it has a slot, and the word has 32 bits. -/

namespace Sys2Proof

/-! ### The codes of each field's values fit its field -/

theorem Scope.code_lt (x : Scope) : x.code < 4 := by cases x <;> decide
theorem Cc.code_lt (x : Cc) : x.code < 8 := by cases x <;> decide
theorem CapField.code_lt (x : CapField) : x.code < 4 := by cases x <;> decide
theorem Width.code_lt (x : Width) : x.code < 8 := by cases x <;> decide
theorem Role.code_lt (x : Role) : x.code < 4 := by cases x <;> decide
theorem View.code_lt (x : View) : x.code < 4 := by cases x <;> decide
theorem Skew.code_lt (x : Skew) : x.code < 4 := by cases x <;> decide
theorem LaneW.code_lt (x : LaneW) : x.code < 4 := by cases x <;> decide
theorem Fmt.code_lt (x : Fmt) : x.code < 16 := by cases x <;> decide
theorem Elem.code_lt (x : Elem) : x.code < 8 := by cases x <;> decide
theorem Rnd.code_lt (x : Rnd) : x.code < 8 := by cases x <;> decide
theorem CellCc.code_lt (x : CellCc) : x.code < 8 := by cases x <;> decide
theorem RngKind.code_lt (x : RngKind) : x.code < 4 := by cases x <;> decide
theorem TmkClass.code_lt (x : TmkClass) : x.code < 8 := by cases x <;> decide
theorem AggKind.code_lt (x : AggKind) : x.code < 8 := by cases x <;> decide
theorem Src.code_lt (x : Src) : x.code < 32 := by
  cases x <;> simp only [Src.code] <;> omega
theorem Dst.code_lt (x : Dst) : x.code < 32 := by
  cases x <;> simp only [Dst.code] <;> omega

end Sys2Proof

namespace Sys2Proof.Laws

/-- R14, R37, R40: a form has a word exactly when it has a slot, and the word is one of 32 bits. -/
def Coded.Statement (i : Instr) : Prop := (i.slot = none ↔ encode i = none) ∧ ∀ w, encode i = some w → w < 2 ^ 32

theorem Coded.of_none {i : Instr} (h : i.slot = none) (e : encode i = none) : Coded.Statement i :=
  ⟨by simp [h, e], by simp [e]⟩

theorem Coded.of_word {i : Instr} {k w : Nat} (h : i.slot = some k) (e : encode i = some w) (hw : w < 2 ^ 32) :
    Coded.Statement i :=
  ⟨by simp [h, e], by intro v hv; rw [e] at hv; cases hv; exact hw⟩

theorem Coded.nop :
    Coded.Statement .nop :=
  Coded.of_word rfl rfl (by decide)
theorem Coded.br (p : Fin 8) (off : BitVec 22) :
    Coded.Statement (.br p off) :=
  Coded.of_word rfl rfl (by
    have := p.isLt; have := off.isLt; simp only [put]; omega)
theorem Coded.brp (p n : Fin 8) (sense : Bool) (off : BitVec 18) :
    Coded.Statement (.brp p n sense off) :=
  Coded.of_word rfl rfl (by
    have := p.isLt; have := n.isLt; have := Bool.toNat_lt sense; have := off.isLt; simp only [put]; omega)
theorem Coded.jmpi (p : Fin 8) (a : Fin 32) :
    Coded.Statement (.jmpi p a) :=
  Coded.of_word rfl rfl (by
    have := p.isLt; have := a.isLt; simp only [put]; omega)
theorem Coded.call (p : Fin 8) (off : BitVec 22) :
    Coded.Statement (.call p off) :=
  Coded.of_word rfl rfl (by
    have := p.isLt; have := off.isLt; simp only [put]; omega)
theorem Coded.ret (p : Fin 8) :
    Coded.Statement (.ret p) :=
  Coded.of_word rfl rfl (by
    have := p.isLt; simp only [put]; omega)
theorem Coded.loop (p : Fin 8) (l : Fin 4) (a : Fin 32) (off : BitVec 15) :
    Coded.Statement (.loop p l a off) :=
  Coded.of_word rfl rfl (by
    have := p.isLt; have := l.isLt; have := a.isLt; have := off.isLt; simp only [put]; omega)
theorem Coded.endloop (p : Fin 8) (l : Fin 4) :
    Coded.Statement (.endloop p l) :=
  Coded.of_word rfl rfl (by
    have := p.isLt; have := l.isLt; simp only [put]; omega)
theorem Coded.flagbr (p : Fin 8) (g : Fin 4) (all sense : Bool) (off : BitVec 18) :
    Coded.Statement (.flagbr p g all sense off) :=
  Coded.of_word rfl rfl (by
    have := p.isLt; have := g.isLt; have := Bool.toNat_lt all; have := Bool.toNat_lt sense; have := off.isLt
    simp only [put]; omega)
theorem Coded.scope (p : Fin 8) (s : Scope) :
    Coded.Statement (.scope p s) :=
  Coded.of_word rfl rfl (by
    have := p.isLt; have := s.code_lt; simp only [put]; omega)
theorem Coded.sync (p : Fin 8) (g : BitVec 8) :
    Coded.Statement (.sync p g) :=
  Coded.of_word rfl rfl (by
    have := p.isLt; have := g.isLt; simp only [put]; omega)
theorem Coded.realign (p : Fin 8) :
    Coded.Statement (.realign p) :=
  Coded.of_word rfl rfl (by
    have := p.isLt; simp only [put]; omega)
theorem Coded.freeze (p : Fin 8) (n : BitVec 16) :
    Coded.Statement (.freeze p n) :=
  Coded.of_word rfl rfl (by
    have := p.isLt; have := n.isLt; simp only [put]; omega)
theorem Coded.swait (p : Fin 8) (q : Fin 16) (n : BitVec 10) :
    Coded.Statement (.swait p q n) :=
  Coded.of_word rfl rfl (by
    have := p.isLt; have := q.isLt; have := n.isLt; simp only [put]; omega)
theorem Coded.phase (p : Fin 8) :
    Coded.Statement (.phase p) :=
  Coded.of_word rfl rfl (by
    have := p.isLt; simp only [put]; omega)
theorem Coded.phcancel (p : Fin 8) :
    Coded.Statement (.phcancel p) :=
  Coded.of_word rfl rfl (by
    have := p.isLt; simp only [put]; omega)
theorem Coded.retire (p : Fin 8) :
    Coded.Statement (.retire p) :=
  Coded.of_word rfl rfl (by
    have := p.isLt; simp only [put]; omega)
theorem Coded.lease (p : Fin 8) (n : BitVec 21) :
    Coded.Statement (.lease p n) :=
  Coded.of_word rfl rfl (by
    have := p.isLt; have := n.isLt; simp only [put]; omega)
theorem Coded.lfree (p : Fin 8) :
    Coded.Statement (.lfree p) :=
  Coded.of_word rfl rfl (by
    have := p.isLt; simp only [put]; omega)
theorem Coded.sprint (p d : Fin 8) (level : BitVec 2) (ms : BitVec 14) :
    Coded.Statement (.sprint p d level ms) :=
  Coded.of_word rfl rfl (by
    have := p.isLt; have := d.isLt; have := level.isLt; have := ms.isLt; simp only [put]; omega)
theorem Coded.sprfree (p : Fin 8) :
    Coded.Statement (.sprfree p) :=
  Coded.of_word rfl rfl (by
    have := p.isLt; simp only [put]; omega)
theorem Coded.leave (p : Fin 8) (c : BitVec 2) (n : BitVec 20) :
    Coded.Statement (.leave p c n) :=
  Coded.of_word rfl rfl (by
    have := p.isLt; have := c.isLt; have := n.isLt; simp only [put]; omega)
theorem Coded.trap (p : Fin 8) (code : BitVec 16) :
    Coded.Statement (.trap p code) :=
  Coded.of_word rfl rfl (by
    have := p.isLt; have := code.isLt; simp only [put]; omega)
theorem Coded.xret (p : Fin 8) :
    Coded.Statement (.xret p) :=
  Coded.of_word rfl rfl (by
    have := p.isLt; simp only [put]; omega)
theorem Coded.brk (p : Fin 8) (code : BitVec 16) :
    Coded.Statement (.brk p code) :=
  Coded.of_word rfl rfl (by
    have := p.isLt; have := code.isLt; simp only [put]; omega)
theorem Coded.csrr (p : Fin 8) (d : Fin 32) (c : BitVec 12) :
    Coded.Statement (.csrr p d c) :=
  Coded.of_word rfl rfl (by
    have := p.isLt; have := d.isLt; have := c.isLt; simp only [put]; omega)
theorem Coded.csrw (p : Fin 8) (a : Fin 32) (c : BitVec 12) :
    Coded.Statement (.csrw p a c) :=
  Coded.of_word rfl rfl (by
    have := p.isLt; have := a.isLt; have := c.isLt; simp only [put]; omega)
theorem Coded.csrs (p : Fin 8) (a : Fin 32) (c : BitVec 12) :
    Coded.Statement (.csrs p a c) :=
  Coded.of_word rfl rfl (by
    have := p.isLt; have := a.isLt; have := c.isLt; simp only [put]; omega)
theorem Coded.csrc (p : Fin 8) (a : Fin 32) (c : BitVec 12) :
    Coded.Statement (.csrc p a c) :=
  Coded.of_word rfl rfl (by
    have := p.isLt; have := a.isLt; have := c.isLt; simp only [put]; omega)
theorem Coded.tend (p : Fin 8) :
    Coded.Statement (.tend p) :=
  Coded.of_word rfl rfl (by
    have := p.isLt; simp only [put]; omega)
theorem Coded.add (p : Fin 8) (d a b : Fin 32) :
    Coded.Statement (.add p d a b) :=
  Coded.of_word rfl rfl (by
    have := p.isLt; have := d.isLt; have := a.isLt; have := b.isLt; simp only [put]; omega)
theorem Coded.sub (p : Fin 8) (d a b : Fin 32) :
    Coded.Statement (.sub p d a b) :=
  Coded.of_word rfl rfl (by
    have := p.isLt; have := d.isLt; have := a.isLt; have := b.isLt; simp only [put]; omega)
theorem Coded.mul (p : Fin 8) (d a b : Fin 32) :
    Coded.Statement (.mul p d a b) :=
  Coded.of_word rfl rfl (by
    have := p.isLt; have := d.isLt; have := a.isLt; have := b.isLt; simp only [put]; omega)
theorem Coded.mulh (p : Fin 8) (d a b : Fin 32) :
    Coded.Statement (.mulh p d a b) :=
  Coded.of_word rfl rfl (by
    have := p.isLt; have := d.isLt; have := a.isLt; have := b.isLt; simp only [put]; omega)
theorem Coded.mulhz (p : Fin 8) (d a b : Fin 32) :
    Coded.Statement (.mulhz p d a b) :=
  Coded.of_word rfl rfl (by
    have := p.isLt; have := d.isLt; have := a.isLt; have := b.isLt; simp only [put]; omega)
theorem Coded.and (p : Fin 8) (d a b : Fin 32) :
    Coded.Statement (.and p d a b) :=
  Coded.of_word rfl rfl (by
    have := p.isLt; have := d.isLt; have := a.isLt; have := b.isLt; simp only [put]; omega)
theorem Coded.andn (p : Fin 8) (d a b : Fin 32) :
    Coded.Statement (.andn p d a b) :=
  Coded.of_word rfl rfl (by
    have := p.isLt; have := d.isLt; have := a.isLt; have := b.isLt; simp only [put]; omega)
theorem Coded.or (p : Fin 8) (d a b : Fin 32) :
    Coded.Statement (.or p d a b) :=
  Coded.of_word rfl rfl (by
    have := p.isLt; have := d.isLt; have := a.isLt; have := b.isLt; simp only [put]; omega)
theorem Coded.xor (p : Fin 8) (d a b : Fin 32) :
    Coded.Statement (.xor p d a b) :=
  Coded.of_word rfl rfl (by
    have := p.isLt; have := d.isLt; have := a.isLt; have := b.isLt; simp only [put]; omega)
theorem Coded.shl (p : Fin 8) (d a b : Fin 32) :
    Coded.Statement (.shl p d a b) :=
  Coded.of_word rfl rfl (by
    have := p.isLt; have := d.isLt; have := a.isLt; have := b.isLt; simp only [put]; omega)
theorem Coded.shr (p : Fin 8) (d a b : Fin 32) :
    Coded.Statement (.shr p d a b) :=
  Coded.of_word rfl rfl (by
    have := p.isLt; have := d.isLt; have := a.isLt; have := b.isLt; simp only [put]; omega)
theorem Coded.sar (p : Fin 8) (d a b : Fin 32) :
    Coded.Statement (.sar p d a b) :=
  Coded.of_word rfl rfl (by
    have := p.isLt; have := d.isLt; have := a.isLt; have := b.isLt; simp only [put]; omega)
theorem Coded.rotl (p : Fin 8) (d a b : Fin 32) :
    Coded.Statement (.rotl p d a b) :=
  Coded.of_word rfl rfl (by
    have := p.isLt; have := d.isLt; have := a.isLt; have := b.isLt; simp only [put]; omega)
theorem Coded.min (p : Fin 8) (d a b : Fin 32) :
    Coded.Statement (.min p d a b) :=
  Coded.of_word rfl rfl (by
    have := p.isLt; have := d.isLt; have := a.isLt; have := b.isLt; simp only [put]; omega)
theorem Coded.max (p : Fin 8) (d a b : Fin 32) :
    Coded.Statement (.max p d a b) :=
  Coded.of_word rfl rfl (by
    have := p.isLt; have := d.isLt; have := a.isLt; have := b.isLt; simp only [put]; omega)
theorem Coded.minz (p : Fin 8) (d a b : Fin 32) :
    Coded.Statement (.minz p d a b) :=
  Coded.of_word rfl rfl (by
    have := p.isLt; have := d.isLt; have := a.isLt; have := b.isLt; simp only [put]; omega)
theorem Coded.maxz (p : Fin 8) (d a b : Fin 32) :
    Coded.Statement (.maxz p d a b) :=
  Coded.of_word rfl rfl (by
    have := p.isLt; have := d.isLt; have := a.isLt; have := b.isLt; simp only [put]; omega)
theorem Coded.clz (p : Fin 8) (d a : Fin 32) :
    Coded.Statement (.clz p d a) :=
  Coded.of_word rfl rfl (by
    have := p.isLt; have := d.isLt; have := a.isLt; simp only [put]; omega)
theorem Coded.ctz (p : Fin 8) (d a : Fin 32) :
    Coded.Statement (.ctz p d a) :=
  Coded.of_word rfl rfl (by
    have := p.isLt; have := d.isLt; have := a.isLt; simp only [put]; omega)
theorem Coded.popc (p : Fin 8) (d a : Fin 32) :
    Coded.Statement (.popc p d a) :=
  Coded.of_word rfl rfl (by
    have := p.isLt; have := d.isLt; have := a.isLt; simp only [put]; omega)
theorem Coded.mov (p : Fin 8) (d a : Fin 32) :
    Coded.Statement (.mov p d a) :=
  Coded.of_word rfl rfl (by
    have := p.isLt; have := d.isLt; have := a.isLt; simp only [put]; omega)
theorem Coded.addi (p : Fin 8) (d a : Fin 32) (i : BitVec 12) :
    Coded.Statement (.addi p d a i) :=
  Coded.of_word rfl rfl (by
    have := p.isLt; have := d.isLt; have := a.isLt; have := i.isLt; simp only [put]; omega)
theorem Coded.li (p : Fin 8) (d : Fin 32) (i : BitVec 17) :
    Coded.Statement (.li p d i) :=
  Coded.of_word rfl rfl (by
    have := p.isLt; have := d.isLt; have := i.isLt; simp only [put]; omega)
theorem Coded.lui (k : Fin 4) (p : Fin 8) (d : Fin 32) (i : BitVec 16) :
    Coded.Statement (.lui k p d i) :=
  Coded.of_word rfl rfl (by
    have := k.isLt; have := p.isLt; have := d.isLt; have := i.isLt; simp only [put]; omega)
theorem Coded.cmp (p d : Fin 8) (cc : Cc) (a b : Fin 32) :
    Coded.Statement (.cmp p d cc a b) :=
  Coded.of_word rfl rfl (by
    have := p.isLt; have := d.isLt; have := cc.code_lt; have := a.isLt; have := b.isLt; simp only [put]; omega)
theorem Coded.cmpi (p d : Fin 8) (cc : Cc) (a : Fin 32) (i : BitVec 11) :
    Coded.Statement (.cmpi p d cc a i) :=
  Coded.of_word rfl rfl (by
    have := p.isLt; have := d.isLt; have := cc.code_lt; have := a.isLt; have := i.isLt; simp only [put]; omega)
theorem Coded.sel (p : Fin 8) (d : Fin 32) (pa : Fin 8) (a b : Fin 32) :
    Coded.Statement (.sel p d pa a b) :=
  Coded.of_word rfl rfl (by
    have := p.isLt; have := d.isLt; have := pa.isLt; have := a.isLt; have := b.isLt; simp only [put]; omega)
theorem Coded.plog (p d pa pb : Fin 8) (t : BitVec 4) :
    Coded.Statement (.plog p d pa pb t) :=
  Coded.of_word rfl rfl (by
    have := p.isLt; have := d.isLt; have := pa.isLt; have := pb.isLt; have := t.isLt; simp only [put]; omega)
theorem Coded.capnarrow (p : Fin 8) (d h : Fin 16) (a b : Fin 32) :
    Coded.Statement (.capnarrow p d h a b) :=
  Coded.of_word rfl rfl (by
    have := p.isLt; have := d.isLt; have := h.isLt; have := a.isLt; have := b.isLt; simp only [put]; omega)
theorem Coded.capoff (p : Fin 8) (d h : Fin 16) (rm : BitVec 8) :
    Coded.Statement (.capoff p d h rm) :=
  Coded.of_word rfl rfl (by
    have := p.isLt; have := d.isLt; have := h.isLt; have := rm.isLt; simp only [put]; omega)
theorem Coded.capinfo (p : Fin 8) (d : Fin 32) (h : Fin 16) (f : CapField) :
    Coded.Statement (.capinfo p d h f) :=
  Coded.of_word rfl rfl (by
    have := p.isLt; have := d.isLt; have := h.isLt; have := f.code_lt; simp only [put]; omega)
theorem Coded.capdrop (p : Fin 8) (d : Fin 16) :
    Coded.Statement (.capdrop p d) :=
  Coded.of_word rfl rfl (by
    have := p.isLt; have := d.isLt; simp only [put]; omega)
theorem Coded.maskld (p d : Fin 8) (a : Fin 32) :
    Coded.Statement (.maskld p d a) :=
  Coded.of_word rfl rfl (by
    have := p.isLt; have := d.isLt; have := a.isLt; simp only [put]; omega)
theorem Coded.maskrot (p d ma : Fin 8) (a : Fin 32) :
    Coded.Statement (.maskrot p d ma a) :=
  Coded.of_word rfl rfl (by
    have := p.isLt; have := d.isLt; have := ma.isLt; have := a.isLt; simp only [put]; omega)
theorem Coded.ld (p : Fin 8) (d : Fin 32) (h : Fin 16) (o : Fin 32) (w : Width) (i : BitVec 5) :
    Coded.Statement (.ld p d h o w i) :=
  Coded.of_word rfl rfl (by
    have := p.isLt; have := d.isLt; have := h.isLt; have := o.isLt; have := w.code_lt; have := i.isLt
    simp only [put]; omega)
theorem Coded.st (p : Fin 8) (v : Fin 32) (h : Fin 16) (o : Fin 32) (w : Width) (i : BitVec 5) :
    Coded.Statement (.st p v h o w i) :=
  Coded.of_word rfl rfl (by
    have := p.isLt; have := v.isLt; have := h.isLt; have := o.isLt; have := w.code_lt; have := i.isLt
    simp only [put]; omega)
theorem Coded.ldp (p : Fin 8) (d : Fin 32) (h : Fin 16) (o : Fin 32) (i : BitVec 5) :
    Coded.Statement (.ldp p d h o i) :=
  Coded.of_word rfl rfl (by
    have := p.isLt; have := d.isLt; have := h.isLt; have := o.isLt; have := i.isLt; simp only [put]; omega)
theorem Coded.stp (p : Fin 8) (v : Fin 32) (h : Fin 16) (o : Fin 32) (i : BitVec 5) :
    Coded.Statement (.stp p v h o i) :=
  Coded.of_word rfl rfl (by
    have := p.isLt; have := v.isLt; have := h.isLt; have := o.isLt; have := i.isLt; simp only [put]; omega)
theorem Coded.mark (p : Fin 8) :
    Coded.Statement (.mark p) :=
  Coded.of_word rfl rfl (by
    have := p.isLt; simp only [put]; omega)
theorem Coded.fence (p : Fin 8) (s : Scope) :
    Coded.Statement (.fence p s) :=
  Coded.of_word rfl rfl (by
    have := p.isLt; have := s.code_lt; simp only [put]; omega)
theorem Coded.amoAdd (p : Fin 8) (d : Fin 32) (h : Fin 16) (o v : Fin 32) (w : Bool) :
    Coded.Statement (.amoAdd p d h o v w) :=
  Coded.of_word rfl rfl (by
    have := p.isLt; have := d.isLt; have := h.isLt; have := o.isLt; have := v.isLt; have := Bool.toNat_lt w
    simp only [put]; omega)
theorem Coded.amoAnd (p : Fin 8) (d : Fin 32) (h : Fin 16) (o v : Fin 32) (w : Bool) :
    Coded.Statement (.amoAnd p d h o v w) :=
  Coded.of_word rfl rfl (by
    have := p.isLt; have := d.isLt; have := h.isLt; have := o.isLt; have := v.isLt; have := Bool.toNat_lt w
    simp only [put]; omega)
theorem Coded.amoOr (p : Fin 8) (d : Fin 32) (h : Fin 16) (o v : Fin 32) (w : Bool) :
    Coded.Statement (.amoOr p d h o v w) :=
  Coded.of_word rfl rfl (by
    have := p.isLt; have := d.isLt; have := h.isLt; have := o.isLt; have := v.isLt; have := Bool.toNat_lt w
    simp only [put]; omega)
theorem Coded.amoXor (p : Fin 8) (d : Fin 32) (h : Fin 16) (o v : Fin 32) (w : Bool) :
    Coded.Statement (.amoXor p d h o v w) :=
  Coded.of_word rfl rfl (by
    have := p.isLt; have := d.isLt; have := h.isLt; have := o.isLt; have := v.isLt; have := Bool.toNat_lt w
    simp only [put]; omega)
theorem Coded.amoMin (p : Fin 8) (d : Fin 32) (h : Fin 16) (o v : Fin 32) (w : Bool) :
    Coded.Statement (.amoMin p d h o v w) :=
  Coded.of_word rfl rfl (by
    have := p.isLt; have := d.isLt; have := h.isLt; have := o.isLt; have := v.isLt; have := Bool.toNat_lt w
    simp only [put]; omega)
theorem Coded.amoMax (p : Fin 8) (d : Fin 32) (h : Fin 16) (o v : Fin 32) (w : Bool) :
    Coded.Statement (.amoMax p d h o v w) :=
  Coded.of_word rfl rfl (by
    have := p.isLt; have := d.isLt; have := h.isLt; have := o.isLt; have := v.isLt; have := Bool.toNat_lt w
    simp only [put]; omega)
theorem Coded.amoMinz (p : Fin 8) (d : Fin 32) (h : Fin 16) (o v : Fin 32) (w : Bool) :
    Coded.Statement (.amoMinz p d h o v w) :=
  Coded.of_word rfl rfl (by
    have := p.isLt; have := d.isLt; have := h.isLt; have := o.isLt; have := v.isLt; have := Bool.toNat_lt w
    simp only [put]; omega)
theorem Coded.amoMaxz (p : Fin 8) (d : Fin 32) (h : Fin 16) (o v : Fin 32) (w : Bool) :
    Coded.Statement (.amoMaxz p d h o v w) :=
  Coded.of_word rfl rfl (by
    have := p.isLt; have := d.isLt; have := h.isLt; have := o.isLt; have := v.isLt; have := Bool.toNat_lt w
    simp only [put]; omega)
theorem Coded.amoSwap (p : Fin 8) (d : Fin 32) (h : Fin 16) (o v : Fin 32) (w : Bool) :
    Coded.Statement (.amoSwap p d h o v w) :=
  Coded.of_word rfl rfl (by
    have := p.isLt; have := d.isLt; have := h.isLt; have := o.isLt; have := v.isLt; have := Bool.toNat_lt w
    simp only [put]; omega)
theorem Coded.cas (p : Fin 8) (d : Fin 32) (h : Fin 16) (o v : Fin 32) (w : Bool) :
    Coded.Statement (.cas p d h o v w) :=
  Coded.of_word rfl rfl (by
    have := p.isLt; have := d.isLt; have := h.isLt; have := o.isLt; have := v.isLt; have := Bool.toNat_lt w
    simp only [put]; omega)
theorem Coded.redAdd (p : Fin 8) (h : Fin 16) (o v : Fin 32) (w : Bool) :
    Coded.Statement (.redAdd p h o v w) :=
  Coded.of_word rfl rfl (by
    have := p.isLt; have := h.isLt; have := o.isLt; have := v.isLt; have := Bool.toNat_lt w; simp only [put]
    omega)
theorem Coded.redAnd (p : Fin 8) (h : Fin 16) (o v : Fin 32) (w : Bool) :
    Coded.Statement (.redAnd p h o v w) :=
  Coded.of_word rfl rfl (by
    have := p.isLt; have := h.isLt; have := o.isLt; have := v.isLt; have := Bool.toNat_lt w; simp only [put]
    omega)
theorem Coded.redOr (p : Fin 8) (h : Fin 16) (o v : Fin 32) (w : Bool) :
    Coded.Statement (.redOr p h o v w) :=
  Coded.of_word rfl rfl (by
    have := p.isLt; have := h.isLt; have := o.isLt; have := v.isLt; have := Bool.toNat_lt w; simp only [put]
    omega)
theorem Coded.redXor (p : Fin 8) (h : Fin 16) (o v : Fin 32) (w : Bool) :
    Coded.Statement (.redXor p h o v w) :=
  Coded.of_word rfl rfl (by
    have := p.isLt; have := h.isLt; have := o.isLt; have := v.isLt; have := Bool.toNat_lt w; simp only [put]
    omega)
theorem Coded.redMin (p : Fin 8) (h : Fin 16) (o v : Fin 32) (w : Bool) :
    Coded.Statement (.redMin p h o v w) :=
  Coded.of_word rfl rfl (by
    have := p.isLt; have := h.isLt; have := o.isLt; have := v.isLt; have := Bool.toNat_lt w; simp only [put]
    omega)
theorem Coded.redMax (p : Fin 8) (h : Fin 16) (o v : Fin 32) (w : Bool) :
    Coded.Statement (.redMax p h o v w) :=
  Coded.of_word rfl rfl (by
    have := p.isLt; have := h.isLt; have := o.isLt; have := v.isLt; have := Bool.toNat_lt w; simp only [put]
    omega)
theorem Coded.redFadd (p : Fin 8) (h : Fin 16) (o v : Fin 32) :
    Coded.Statement (.redFadd p h o v) :=
  Coded.of_word rfl rfl (by
    have := p.isLt; have := h.isLt; have := o.isLt; have := v.isLt; simp only [put]; omega)
theorem Coded.strmBind (p : Fin 8) (q h : Fin 16) (o : Fin 32) (hd : Fin 16) :
    Coded.Statement (.strmBind p q h o hd) :=
  Coded.of_word rfl rfl (by
    have := p.isLt; have := q.isLt; have := h.isLt; have := o.isLt; have := hd.isLt; simp only [put]; omega)
theorem Coded.strmAdv (p : Fin 8) (q : Fin 16) (a : Fin 32) :
    Coded.Statement (.strmAdv p q a) :=
  Coded.of_word rfl rfl (by
    have := p.isLt; have := q.isLt; have := a.isLt; simp only [put]; omega)
theorem Coded.strmLvl (p : Fin 8) (d : Fin 32) (q : Fin 16) :
    Coded.Statement (.strmLvl p d q) :=
  Coded.of_word rfl rfl (by
    have := p.isLt; have := d.isLt; have := q.isLt; simp only [put]; omega)
theorem Coded.strmRew (p : Fin 8) (q : Fin 16) :
    Coded.Statement (.strmRew p q) :=
  Coded.of_word rfl rfl (by
    have := p.isLt; have := q.isLt; simp only [put]; omega)
theorem Coded.cpySet (p : Fin 8) (n h : Fin 16) (o : Fin 32) :
    Coded.Statement (.cpySet p n h o) :=
  Coded.of_word rfl rfl (by
    have := p.isLt; have := n.isLt; have := h.isLt; have := o.isLt; simp only [put]; omega)
theorem Coded.cpyGo (p : Fin 8) (n : Fin 16) :
    Coded.Statement (.cpyGo p n) :=
  Coded.of_word rfl rfl (by
    have := p.isLt; have := n.isLt; simp only [put]; omega)
theorem Coded.cpyStage (p : Fin 8) (n : Fin 16) (s : BitVec 6) :
    Coded.Statement (.cpyStage p n s) :=
  Coded.of_word rfl rfl (by
    have := p.isLt; have := n.isLt; have := s.isLt; simp only [put]; omega)
theorem Coded.cpbinv (p : Fin 8) (i : BitVec 8) :
    Coded.Statement (.cpbinv p i) :=
  Coded.of_word rfl rfl (by
    have := p.isLt; have := i.isLt; simp only [put]; omega)
theorem Coded.tlWait (p : Fin 8) (d : Fin 32) (t : Fin 20) (a : Fin 32) :
    Coded.Statement (.tlWait p d t a) :=
  Coded.of_word rfl rfl (by
    have := p.isLt; have := d.isLt; have := t.isLt; have := a.isLt; simp only [put]; omega)
theorem Coded.tlRead (p : Fin 8) (d : Fin 32) (t : Fin 20) :
    Coded.Statement (.tlRead p d t) :=
  Coded.of_word rfl rfl (by
    have := p.isLt; have := d.isLt; have := t.isLt; simp only [put]; omega)
theorem Coded.tlBump (p : Fin 8) :
    Coded.Statement (.tlBump p) :=
  Coded.of_word rfl rfl (by
    have := p.isLt; simp only [put]; omega)
theorem Coded.barInit (p : Fin 8) (a : Fin 32) (b : BitVec 8) :
    Coded.Statement (.barInit p a b) :=
  Coded.of_word rfl rfl (by
    have := p.isLt; have := a.isLt; have := b.isLt; simp only [put]; omega)
theorem Coded.barArr (p : Fin 8) (b : BitVec 8) :
    Coded.Statement (.barArr p b) :=
  Coded.of_word rfl rfl (by
    have := p.isLt; have := b.isLt; simp only [put]; omega)
theorem Coded.barDrop (p : Fin 8) (b : BitVec 8) :
    Coded.Statement (.barDrop p b) :=
  Coded.of_word rfl rfl (by
    have := p.isLt; have := b.isLt; simp only [put]; omega)
theorem Coded.barXp (p : Fin 8) (a : Fin 32) (b : BitVec 8) :
    Coded.Statement (.barXp p a b) :=
  Coded.of_word rfl rfl (by
    have := p.isLt; have := a.isLt; have := b.isLt; simp only [put]; omega)
theorem Coded.barWait (p : Fin 8) (d : Fin 32) (b : BitVec 8) :
    Coded.Statement (.barWait p d b) :=
  Coded.of_word rfl rfl (by
    have := p.isLt; have := d.isLt; have := b.isLt; simp only [put]; omega)
theorem Coded.barTest (p : Fin 8) (b : BitVec 8) (d : Fin 8) :
    Coded.Statement (.barTest p b d) :=
  Coded.of_word rfl rfl (by
    have := p.isLt; have := b.isLt; have := d.isLt; simp only [put]; omega)
theorem Coded.evSig (p : Fin 8) (e : BitVec 16) :
    Coded.Statement (.evSig p e) :=
  Coded.of_word rfl rfl (by
    have := p.isLt; have := e.isLt; simp only [put]; omega)
theorem Coded.tlaunch (p : Fin 8) (h : Fin 16) (o : Fin 32) :
    Coded.Statement (.tlaunch p h o) :=
  Coded.of_word rfl rfl (by
    have := p.isLt; have := h.isLt; have := o.isLt; simp only [put]; omega)
theorem Coded.probe (p d : Fin 8) (h : Fin 16) (o l : Fin 32) :
    Coded.Statement (.probe p d h o l) :=
  Coded.of_word rfl rfl (by
    have := p.isLt; have := d.isLt; have := h.isLt; have := o.isLt; have := l.isLt; simp only [put]; omega)
theorem Coded.unpin (p : Fin 8) (h : Fin 16) (o l : Fin 32) :
    Coded.Statement (.unpin p h o l) :=
  Coded.of_word rfl rfl (by
    have := p.isLt; have := h.isLt; have := o.isLt; have := l.isLt; simp only [put]; omega)
theorem Coded.prefetch (p : Fin 8) (h : Fin 16) (o l : Fin 32) :
    Coded.Statement (.prefetch p h o l) :=
  Coded.of_word rfl rfl (by
    have := p.isLt; have := h.isLt; have := o.isLt; have := l.isLt; simp only [put]; omega)
theorem Coded.evict (p : Fin 8) (h : Fin 16) (o l : Fin 32) :
    Coded.Statement (.evict p h o l) :=
  Coded.of_word rfl rfl (by
    have := p.isLt; have := h.isLt; have := o.isLt; have := l.isLt; simp only [put]; omega)
theorem Coded.role (p : Fin 8) (n : Fin 32) (r : Role) (v : View) :
    Coded.Statement (.role p n r v) :=
  Coded.of_word rfl rfl (by
    have := p.isLt; have := n.isLt; have := r.code_lt; have := v.code_lt; simp only [put]; omega)
theorem Coded.fnPop (p : Fin 8) (q : Fin 16) (k : Skew) (n : Fin 16) :
    Coded.Statement (.fnPop p q k n) :=
  Coded.of_word rfl rfl (by
    have := p.isLt; have := q.isLt; have := k.code_lt; have := n.isLt; simp only [put]; omega)
theorem Coded.fnPopt (p : Fin 8) (q : Fin 16) (k : Skew) (l : LaneW) (n : Fin 16) :
    Coded.Statement (.fnPopt p q k l n) :=
  Coded.of_word rfl rfl (by
    have := p.isLt; have := q.isLt; have := k.code_lt; have := l.code_lt; have := n.isLt; simp only [put]
    omega)
theorem Coded.fnZero (p : Fin 8) (n : Fin 16) :
    Coded.Statement (.fnZero p n) :=
  Coded.of_word rfl rfl (by
    have := p.isLt; have := n.isLt; simp only [put]; omega)
theorem Coded.fnHold (p : Fin 8) :
    Coded.Statement (.fnHold p) :=
  Coded.of_word rfl rfl (by
    have := p.isLt; simp only [put]; omega)
theorem Coded.fnBcast (p : Fin 8) (q n : Fin 16) :
    Coded.Statement (.fnBcast p q n) :=
  Coded.of_word rfl rfl (by
    have := p.isLt; have := q.isLt; have := n.isLt; simp only [put]; omega)
theorem Coded.fnTag (p : Fin 8) (a : Fin 32) :
    Coded.Statement (.fnTag p a) :=
  Coded.of_word rfl rfl (by
    have := p.isLt; have := a.isLt; simp only [put]; omega)
theorem Coded.fnSkew (p : Fin 8) (k : BitVec 6) :
    Coded.Statement (.fnSkew p k) :=
  Coded.of_word rfl rfl (by
    have := p.isLt; have := k.isLt; simp only [put]; omega)
theorem Coded.fwPop (p : Fin 8) (q : Fin 16) (k : Skew) (n : Fin 16) :
    Coded.Statement (.fwPop p q k n) :=
  Coded.of_word rfl rfl (by
    have := p.isLt; have := q.isLt; have := k.code_lt; have := n.isLt; simp only [put]; omega)
theorem Coded.fwPopt (p : Fin 8) (q : Fin 16) (k : Skew) (l : LaneW) (n : Fin 16) :
    Coded.Statement (.fwPopt p q k l n) :=
  Coded.of_word rfl rfl (by
    have := p.isLt; have := q.isLt; have := k.code_lt; have := l.code_lt; have := n.isLt; simp only [put]
    omega)
theorem Coded.fwZero (p : Fin 8) (n : Fin 16) :
    Coded.Statement (.fwZero p n) :=
  Coded.of_word rfl rfl (by
    have := p.isLt; have := n.isLt; simp only [put]; omega)
theorem Coded.fwHold (p : Fin 8) :
    Coded.Statement (.fwHold p) :=
  Coded.of_word rfl rfl (by
    have := p.isLt; simp only [put]; omega)
theorem Coded.fwBcast (p : Fin 8) (q n : Fin 16) :
    Coded.Statement (.fwBcast p q n) :=
  Coded.of_word rfl rfl (by
    have := p.isLt; have := q.isLt; have := n.isLt; simp only [put]; omega)
theorem Coded.fwTag (p : Fin 8) (a : Fin 32) :
    Coded.Statement (.fwTag p a) :=
  Coded.of_word rfl rfl (by
    have := p.isLt; have := a.isLt; simp only [put]; omega)
theorem Coded.fwSkew (p : Fin 8) (k : BitVec 6) :
    Coded.Statement (.fwSkew p k) :=
  Coded.of_word rfl rfl (by
    have := p.isLt; have := k.isLt; simp only [put]; omega)
theorem Coded.waveMov (n : Fin 16) (m : Fin 8) (d : Dst) (a : Src) (e : Elem) :
    Coded.Statement (.waveMov n m d a e) :=
  Coded.of_word rfl rfl (by
    have := n.isLt; have := m.isLt; have := d.code_lt; have := a.code_lt; have := e.code_lt; simp only [put]
    omega)
theorem Coded.movi (n : Fin 16) (m : Fin 8) (d : Dst) (i : BitVec 10) (e : Elem) :
    Coded.Statement (.movi n m d i e) :=
  Coded.of_word rfl rfl (by
    have := n.isLt; have := m.isLt; have := d.code_lt; have := i.isLt; have := e.code_lt; simp only [put]
    omega)
theorem Coded.waveAdd (n : Fin 16) (m : Fin 8) (d : Dst) (a b : Src) (e : Elem) :
    Coded.Statement (.waveAdd n m d a b e) :=
  Coded.of_word rfl rfl (by
    have := n.isLt; have := m.isLt; have := d.code_lt; have := a.code_lt; have := b.code_lt; have := e.code_lt
    simp only [put]; omega)
theorem Coded.waveSub (n : Fin 16) (m : Fin 8) (d : Dst) (a b : Src) (e : Elem) :
    Coded.Statement (.waveSub n m d a b e) :=
  Coded.of_word rfl rfl (by
    have := n.isLt; have := m.isLt; have := d.code_lt; have := a.code_lt; have := b.code_lt; have := e.code_lt
    simp only [put]; omega)
theorem Coded.waveMul (n : Fin 16) (m : Fin 8) (d : Dst) (a b : Src) (e : Elem) :
    Coded.Statement (.waveMul n m d a b e) :=
  Coded.of_word rfl rfl (by
    have := n.isLt; have := m.isLt; have := d.code_lt; have := a.code_lt; have := b.code_lt; have := e.code_lt
    simp only [put]; omega)
theorem Coded.fma (n : Fin 16) (m : Fin 8) (d : Dst) (a b : Src) (e : Elem) :
    Coded.Statement (.fma n m d a b e) :=
  Coded.of_word rfl rfl (by
    have := n.isLt; have := m.isLt; have := d.code_lt; have := a.code_lt; have := b.code_lt; have := e.code_lt
    simp only [put]; omega)
theorem Coded.waveMin (n : Fin 16) (m : Fin 8) (d : Dst) (a b : Src) (e : Elem) :
    Coded.Statement (.waveMin n m d a b e) :=
  Coded.of_word rfl rfl (by
    have := n.isLt; have := m.isLt; have := d.code_lt; have := a.code_lt; have := b.code_lt; have := e.code_lt
    simp only [put]; omega)
theorem Coded.waveMax (n : Fin 16) (m : Fin 8) (d : Dst) (a b : Src) (e : Elem) :
    Coded.Statement (.waveMax n m d a b e) :=
  Coded.of_word rfl rfl (by
    have := n.isLt; have := m.isLt; have := d.code_lt; have := a.code_lt; have := b.code_lt; have := e.code_lt
    simp only [put]; omega)
theorem Coded.abs (n : Fin 16) (m : Fin 8) (d : Dst) (a : Src) (e : Elem) :
    Coded.Statement (.abs n m d a e) :=
  Coded.of_word rfl rfl (by
    have := n.isLt; have := m.isLt; have := d.code_lt; have := a.code_lt; have := e.code_lt; simp only [put]
    omega)
theorem Coded.neg (n : Fin 16) (m : Fin 8) (d : Dst) (a : Src) (e : Elem) :
    Coded.Statement (.neg n m d a e) :=
  Coded.of_word rfl rfl (by
    have := n.isLt; have := m.isLt; have := d.code_lt; have := a.code_lt; have := e.code_lt; simp only [put]
    omega)
theorem Coded.waveCmp (n : Fin 16) (m : Fin 8) (cc : CellCc) (g : Fin 4) (a b : Src) (e : Elem) :
    Coded.Statement (.waveCmp n m cc g a b e) :=
  Coded.of_word rfl rfl (by
    have := n.isLt; have := m.isLt; have := cc.code_lt; have := g.isLt; have := a.code_lt; have := b.code_lt
    have := e.code_lt; simp only [put]; omega)
theorem Coded.selg (n : Fin 16) (m : Fin 8) (d : Dst) (a b : Src) (g : Fin 4) :
    Coded.Statement (.selg n m d a b g) :=
  Coded.of_word rfl rfl (by
    have := n.isLt; have := m.isLt; have := d.code_lt; have := a.code_lt; have := b.code_lt; have := g.isLt
    simp only [put]; omega)
theorem Coded.waveAnd (n : Fin 16) (m : Fin 8) (d : Dst) (a b : Src) (e : Elem) :
    Coded.Statement (.waveAnd n m d a b e) :=
  Coded.of_word rfl rfl (by
    have := n.isLt; have := m.isLt; have := d.code_lt; have := a.code_lt; have := b.code_lt; have := e.code_lt
    simp only [put]; omega)
theorem Coded.waveOr (n : Fin 16) (m : Fin 8) (d : Dst) (a b : Src) (e : Elem) :
    Coded.Statement (.waveOr n m d a b e) :=
  Coded.of_word rfl rfl (by
    have := n.isLt; have := m.isLt; have := d.code_lt; have := a.code_lt; have := b.code_lt; have := e.code_lt
    simp only [put]; omega)
theorem Coded.waveXor (n : Fin 16) (m : Fin 8) (d : Dst) (a b : Src) (e : Elem) :
    Coded.Statement (.waveXor n m d a b e) :=
  Coded.of_word rfl rfl (by
    have := n.isLt; have := m.isLt; have := d.code_lt; have := a.code_lt; have := b.code_lt; have := e.code_lt
    simp only [put]; omega)
theorem Coded.waveShl (n : Fin 16) (m : Fin 8) (d : Dst) (a b : Src) (e : Elem) :
    Coded.Statement (.waveShl n m d a b e) :=
  Coded.of_word rfl rfl (by
    have := n.isLt; have := m.isLt; have := d.code_lt; have := a.code_lt; have := b.code_lt; have := e.code_lt
    simp only [put]; omega)
theorem Coded.waveShr (n : Fin 16) (m : Fin 8) (d : Dst) (a b : Src) (e : Elem) :
    Coded.Statement (.waveShr n m d a b e) :=
  Coded.of_word rfl rfl (by
    have := n.isLt; have := m.isLt; have := d.code_lt; have := a.code_lt; have := b.code_lt; have := e.code_lt
    simp only [put]; omega)
theorem Coded.waveSar (n : Fin 16) (m : Fin 8) (d : Dst) (a b : Src) (e : Elem) :
    Coded.Statement (.waveSar n m d a b e) :=
  Coded.of_word rfl rfl (by
    have := n.isLt; have := m.isLt; have := d.code_lt; have := a.code_lt; have := b.code_lt; have := e.code_lt
    simp only [put]; omega)
theorem Coded.pack (n : Fin 16) (m : Fin 8) (d : Dst) (a b : Src) (l : LaneW) :
    Coded.Statement (.pack n m d a b l) :=
  Coded.of_word rfl rfl (by
    have := n.isLt; have := m.isLt; have := d.code_lt; have := a.code_lt; have := b.code_lt; have := l.code_lt
    simp only [put]; omega)
theorem Coded.unpk (n : Fin 16) (m : Fin 8) (d : Dst) (a : Src) (hi : Bool) (l : LaneW) :
    Coded.Statement (.unpk n m d a hi l) :=
  Coded.of_word rfl rfl (by
    have := n.isLt; have := m.isLt; have := d.code_lt; have := a.code_lt; have := Bool.toNat_lt hi
    have := l.code_lt; simp only [put]; omega)
theorem Coded.mma (n : Fin 16) (m : Fin 8) (pass : Bool) (t : Fin 4) (a b : Src) (f : Fmt) :
    Coded.Statement (.mma n m pass t a b f) :=
  Coded.of_word rfl rfl (by
    have := n.isLt; have := m.isLt; have := Bool.toNat_lt pass; have := t.isLt; have := a.code_lt
    have := b.code_lt; have := f.code_lt; simp only [put]; omega)
theorem Coded.mmaz (n : Fin 16) (m : Fin 8) (pass : Bool) (t : Fin 4) (a b : Src) (f : Fmt) :
    Coded.Statement (.mmaz n m pass t a b f) :=
  Coded.of_word rfl rfl (by
    have := n.isLt; have := m.isLt; have := Bool.toNat_lt pass; have := t.isLt; have := a.code_lt
    have := b.code_lt; have := f.code_lt; simp only [put]; omega)
theorem Coded.mmas (n : Fin 16) (m : Fin 8) (pass : Bool) (t : Fin 4) (a b : Src) (f : Fmt) :
    Coded.Statement (.mmas n m pass t a b f) :=
  Coded.of_word rfl rfl (by
    have := n.isLt; have := m.isLt; have := Bool.toNat_lt pass; have := t.isLt; have := a.code_lt
    have := b.code_lt; have := f.code_lt; simp only [put]; omega)
theorem Coded.accz (n : Fin 16) (m : Fin 8) (t : Fin 4) (w128 : Bool) :
    Coded.Statement (.accz n m t w128) :=
  Coded.of_word rfl rfl (by
    have := n.isLt; have := m.isLt; have := t.isLt; have := Bool.toNat_lt w128; simp only [put]; omega)
theorem Coded.accld (n : Fin 16) (m : Fin 8) (t k : Fin 4) :
    Coded.Statement (.accld n m t k) :=
  Coded.of_word rfl rfl (by
    have := n.isLt; have := m.isLt; have := t.isLt; have := k.isLt; simp only [put]; omega)
theorem Coded.accst (n : Fin 16) (m : Fin 8) (t k : Fin 4) :
    Coded.Statement (.accst n m t k) :=
  Coded.of_word rfl rfl (by
    have := n.isLt; have := m.isLt; have := t.isLt; have := k.isLt; simp only [put]; omega)
theorem Coded.lds (n : Fin 16) (m : Fin 8) (d : Dst) (k : Fin 4) (i : BitVec 5) :
    Coded.Statement (.lds n m d k i) :=
  Coded.of_word rfl rfl (by
    have := n.isLt; have := m.isLt; have := d.code_lt; have := k.isLt; have := i.isLt; simp only [put]; omega)
theorem Coded.sts (n : Fin 16) (m : Fin 8) (k : Fin 4) (a : Src) (i : BitVec 5) :
    Coded.Statement (.sts n m k a i) :=
  Coded.of_word rfl rfl (by
    have := n.isLt; have := m.isLt; have := k.isLt; have := a.code_lt; have := i.isLt; simp only [put]; omega)
theorem Coded.kset (n : Fin 16) (m : Fin 8) (k : Fin 4) (i : BitVec 9) :
    Coded.Statement (.kset n m k i) :=
  Coded.of_word rfl rfl (by
    have := n.isLt; have := m.isLt; have := k.isLt; have := i.isLt; simp only [put]; omega)
theorem Coded.kadd (n : Fin 16) (m : Fin 8) (k : Fin 4) (i : BitVec 10) :
    Coded.Statement (.kadd n m k i) :=
  Coded.of_word rfl rfl (by
    have := n.isLt; have := m.isLt; have := k.isLt; have := i.isLt; simp only [put]; omega)
theorem Coded.perm (n : Fin 16) (m : Fin 8) (d : Dst) (a b : Src) (l : LaneW) :
    Coded.Statement (.perm n m d a b l) :=
  Coded.of_word rfl rfl (by
    have := n.isLt; have := m.isLt; have := d.code_lt; have := a.code_lt; have := b.code_lt; have := l.code_lt
    simp only [put]; omega)
theorem Coded.xpose (n : Fin 16) (m : Fin 8) (d : Dst) (a : Src) (l : LaneW) :
    Coded.Statement (.xpose n m d a l) :=
  Coded.of_word rfl rfl (by
    have := n.isLt; have := m.isLt; have := d.code_lt; have := a.code_lt; have := l.code_lt; simp only [put]
    omega)
theorem Coded.shuf (n : Fin 16) (m : Fin 8) (d : Dst) (a b : Src) (pat : Fin 8) :
    Coded.Statement (.shuf n m d a b pat) :=
  Coded.of_word rfl rfl (by
    have := n.isLt; have := m.isLt; have := d.code_lt; have := a.code_lt; have := b.code_lt; have := pat.isLt
    simp only [put]; omega)
theorem Coded.exp2 (n : Fin 16) (m : Fin 8) (d : Dst) (a : Src) :
    Coded.Statement (.exp2 n m d a) :=
  Coded.of_word rfl rfl (by
    have := n.isLt; have := m.isLt; have := d.code_lt; have := a.code_lt; simp only [put]; omega)
theorem Coded.log2 (n : Fin 16) (m : Fin 8) (d : Dst) (a : Src) :
    Coded.Statement (.log2 n m d a) :=
  Coded.of_word rfl rfl (by
    have := n.isLt; have := m.isLt; have := d.code_lt; have := a.code_lt; simp only [put]; omega)
theorem Coded.rcp (n : Fin 16) (m : Fin 8) (d : Dst) (a : Src) :
    Coded.Statement (.rcp n m d a) :=
  Coded.of_word rfl rfl (by
    have := n.isLt; have := m.isLt; have := d.code_lt; have := a.code_lt; simp only [put]; omega)
theorem Coded.rsq (n : Fin 16) (m : Fin 8) (d : Dst) (a : Src) :
    Coded.Statement (.rsq n m d a) :=
  Coded.of_word rfl rfl (by
    have := n.isLt; have := m.isLt; have := d.code_lt; have := a.code_lt; simp only [put]; omega)
theorem Coded.rng (n : Fin 16) (m : Fin 8) (d : Dst) (kind : RngKind) (dom : Fin 8) :
    Coded.Statement (.rng n m d kind dom) :=
  Coded.of_word rfl rfl (by
    have := n.isLt; have := m.isLt; have := d.code_lt; have := kind.code_lt; have := dom.isLt; simp only [put]
    omega)
theorem Coded.noise (n : Fin 16) (m : Fin 8) (d : Dst) (e : Elem) :
    Coded.Statement (.noise n m d e) :=
  Coded.of_word rfl rfl (by
    have := n.isLt; have := m.isLt; have := d.code_lt; have := e.code_lt; simp only [put]; omega)
theorem Coded.dot (n : Fin 16) (m : Fin 8) (d : Dst) (a b : Src) (e : Elem) :
    Coded.Statement (.dot n m d a b e) :=
  Coded.of_word rfl rfl (by
    have := n.isLt; have := m.isLt; have := d.code_lt; have := a.code_lt; have := b.code_lt; have := e.code_lt
    simp only [put]; omega)
theorem Coded.sumr (n : Fin 16) (m : Fin 8) (d : Dst) (a : Src) (e : Elem) :
    Coded.Statement (.sumr n m d a e) :=
  Coded.of_word rfl rfl (by
    have := n.isLt; have := m.isLt; have := d.code_lt; have := a.code_lt; have := e.code_lt; simp only [put]
    omega)
theorem Coded.prefixSum (n : Fin 16) (m : Fin 8) (d : Dst) (a b : Src) (e : Elem) :
    Coded.Statement (.prefixSum n m d a b e) :=
  Coded.of_word rfl rfl (by
    have := n.isLt; have := m.isLt; have := d.code_lt; have := a.code_lt; have := b.code_lt; have := e.code_lt
    simp only [put]; omega)
theorem Coded.flag (n : Fin 16) (m : Fin 8) (cc : CellCc) (g : Fin 4) (a : Src) (e : Elem) :
    Coded.Statement (.flag n m cc g a e) :=
  Coded.of_word rfl rfl (by
    have := n.isLt; have := m.isLt; have := cc.code_lt; have := g.isLt; have := a.code_lt; have := e.code_lt
    simp only [put]; omega)
theorem Coded.gset (n : Fin 16) (m : Fin 8) (g : Fin 4) (v : Bool) :
    Coded.Statement (.gset n m g v) :=
  Coded.of_word rfl rfl (by
    have := n.isLt; have := m.isLt; have := g.isLt; have := Bool.toNat_lt v; simp only [put]; omega)
theorem Coded.tmk (n : Fin 16) (m : Fin 8) (d : Dst) (a b : Src) (cls : TmkClass) :
    Coded.Statement (.tmk n m d a b cls) :=
  Coded.of_word rfl rfl (by
    have := n.isLt; have := m.isLt; have := d.code_lt; have := a.code_lt; have := b.code_lt; have := cls.code_lt
    simp only [put]; omega)
theorem Coded.cvt (f : Fmt) (n : Fin 16) (m : Fin 8) (d : Dst) (a : Src) (src : Fmt) (r : Rnd) :
    Coded.Statement (.cvt f n m d a src r) :=
  Coded.of_word rfl rfl (by
    have := f.code_lt; have := n.isLt; have := m.isLt; have := d.code_lt; have := a.code_lt; have := src.code_lt
    have := r.code_lt; simp only [put]; omega)
theorem Coded.drain (f : Fmt) (n : Fin 16) (m : Fin 8) (s x dr : Bool) (t : Fin 4) (a : Dst) (b : Fin 16) (r : Rnd) :
    Coded.Statement (.drain f n m s x dr t a b r) :=
  Coded.of_word rfl rfl (by
    have := f.code_lt; have := n.isLt; have := m.isLt; have := Bool.toNat_lt s; have := Bool.toNat_lt x
    have := Bool.toNat_lt dr; have := t.isLt; have := a.code_lt; have := b.isLt; have := r.code_lt
    simp only [put]; omega)
theorem Coded.rsSet (p : Fin 8) (travel : Bool) (a : Fin 32) :
    Coded.Statement (.rsSet p travel a) :=
  Coded.of_word rfl rfl (by
    have := p.isLt; have := Bool.toNat_lt travel; have := a.isLt; simp only [put]; omega)
theorem Coded.rsAll (p : Fin 8) :
    Coded.Statement (.rsAll p) :=
  Coded.of_word rfl rfl (by
    have := p.isLt; simp only [put]; omega)
theorem Coded.rsNone (p : Fin 8) :
    Coded.Statement (.rsNone p) :=
  Coded.of_word rfl rfl (by
    have := p.isLt; simp only [put]; omega)
theorem Coded.rsRow (p : Fin 8) (i : Fin 64) :
    Coded.Statement (.rsRow p i) :=
  Coded.of_word rfl rfl (by
    have := p.isLt; have := i.isLt; simp only [put]; omega)
theorem Coded.rsBand (p : Fin 8) (lo hi : Fin 64) :
    Coded.Statement (.rsBand p lo hi) :=
  Coded.of_word rfl rfl (by
    have := p.isLt; have := lo.isLt; have := hi.isLt; simp only [put]; omega)
theorem Coded.ecPush (p : Fin 8) (q n : Fin 16) :
    Coded.Statement (.ecPush p q n) :=
  Coded.of_word rfl rfl (by
    have := p.isLt; have := q.isLt; have := n.isLt; simp only [put]; omega)
theorem Coded.scPush (p : Fin 8) (q n : Fin 16) :
    Coded.Statement (.scPush p q n) :=
  Coded.of_word rfl rfl (by
    have := p.isLt; have := q.isLt; have := n.isLt; simp only [put]; omega)
theorem Coded.ecDisc (p : Fin 8) (n : Fin 16) :
    Coded.Statement (.ecDisc p n) :=
  Coded.of_word rfl rfl (by
    have := p.isLt; have := n.isLt; simp only [put]; omega)
theorem Coded.ecTopk (p : Fin 8) (n : Fin 16) :
    Coded.Statement (.ecTopk p n) :=
  Coded.of_word rfl rfl (by
    have := p.isLt; have := n.isLt; simp only [put]; omega)
theorem Coded.tkInit (p : Fin 8) (k : BitVec 8) (f : Fmt) (low : Bool) :
    Coded.Statement (.tkInit p k f low) :=
  Coded.of_word rfl rfl (by
    have := p.isLt; have := k.isLt; have := f.code_lt; have := Bool.toNat_lt low; simp only [put]; omega)
theorem Coded.tkMerge (p : Fin 8) (q : Fin 16) :
    Coded.Statement (.tkMerge p q) :=
  Coded.of_word rfl rfl (by
    have := p.isLt; have := q.isLt; simp only [put]; omega)
theorem Coded.tkRead (p : Fin 8) (q : Fin 16) :
    Coded.Statement (.tkRead p q) :=
  Coded.of_word rfl rfl (by
    have := p.isLt; have := q.isLt; simp only [put]; omega)
theorem Coded.tkCnt (p : Fin 8) (d : Fin 32) :
    Coded.Statement (.tkCnt p d) :=
  Coded.of_word rfl rfl (by
    have := p.isLt; have := d.isLt; simp only [put]; omega)
theorem Coded.aggRd (p : Fin 8) (d : Fin 32) (g : Fin 4) (k : AggKind) :
    Coded.Statement (.aggRd p d g k) :=
  Coded.of_word rfl rfl (by
    have := p.isLt; have := d.isLt; have := g.isLt; have := k.code_lt; simp only [put]; omega)
theorem Coded.ecTmk (p : Fin 8) (q : Fin 16) :
    Coded.Statement (.ecTmk p q) :=
  Coded.of_word rfl rfl (by
    have := p.isLt; have := q.isLt; simp only [put]; omega)
theorem Coded.scChain (p : Fin 8) (on : Bool) :
    Coded.Statement (.scChain p on) :=
  Coded.of_word rfl rfl (by
    have := p.isLt; have := Bool.toNat_lt on; simp only [put]; omega)
theorem Coded.loadLands (a : Fin 32) (id : Nat × ReadError) :
    Coded.Statement (.loadLands a id) := Coded.of_none rfl rfl
theorem Coded.freezeEnd (a : Fin 32) :
    Coded.Statement (.freezeEnd a) := Coded.of_none rfl rfl
theorem Coded.syncRelease (a : Fin 32) :
    Coded.Statement (.syncRelease a) := Coded.of_none rfl rfl
theorem Coded.streamDescriptorArrives (a : Fin 32) (q : Fin 16 × ReadError × ReadError) :
    Coded.Statement (.streamDescriptorArrives a q) := Coded.of_none rfl rfl
theorem Coded.streamFetch (a : Fin 32) (q : Fin 16 × ReadError × List Nat) :
    Coded.Statement (.streamFetch a q) := Coded.of_none rfl rfl
theorem Coded.copyBlockArrives (a : Fin 32) (id : Nat × ReadError × ReadError) :
    Coded.Statement (.copyBlockArrives a id) := Coded.of_none rfl rfl
theorem Coded.scheduledCopyStart (cl : Fin 8) (tc : Fin 16 × ReadError × ReadError) :
    Coded.Statement (.scheduledCopyStart cl tc) := Coded.of_none rfl rfl
theorem Coded.copyCompletes (cl : Fin 8) (tc : Fin 16) (sectors : Nat) (mismatch : Bool × ReadError × Fin 3) :
    Coded.Statement (.copyCompletes cl tc sectors mismatch) := Coded.of_none rfl rfl
theorem Coded.tlWaitLands (a : Fin 32) (id : Nat) :
    Coded.Statement (.tlWaitLands a id) := Coded.of_none rfl rfl
theorem Coded.barrierFormApplied (a : Fin 32) (id : Nat × Fin 3) :
    Coded.Statement (.barrierFormApplied a id) := Coded.of_none rfl rfl
theorem Coded.barWaitLands (a : Fin 32) (id : Nat) :
    Coded.Statement (.barWaitLands a id) := Coded.of_none rfl rfl
theorem Coded.storeArrivesAtHome (a : Fin 32) (id : Nat × Fin 3 × Bool) :
    Coded.Statement (.storeArrivesAtHome a id) := Coded.of_none rfl rfl
theorem Coded.atomicApplied (a : Fin 32) (id : Nat) (mismatches : Fin 3 × ReadError) :
    Coded.Statement (.atomicApplied a id mismatches) := Coded.of_none rfl rfl
theorem Coded.markChangeArrives (k : Nat) :
    Coded.Statement (.markChangeArrives k) := Coded.of_none rfl rfl
theorem Coded.writeBack (cl : Fin 8) (line : Nat) :
    Coded.Statement (.writeBack cl line) := Coded.of_none rfl rfl
theorem Coded.roleChangeApplied (a : Fin 32) (id : Nat) :
    Coded.Statement (.roleChangeApplied a id) := Coded.of_none rfl rfl
theorem Coded.probeAnswer (a : Fin 32) (id : Nat) (timeout : Bool) :
    Coded.Statement (.probeAnswer a id timeout) := Coded.of_none rfl rfl
theorem Coded.relocationCopyComplete (ctx : BitVec 12) (obj : BitVec 24) (page : BitVec 48) :
    Coded.Statement (.relocationCopyComplete ctx obj page) := Coded.of_none rfl rfl
theorem Coded.movedAnswer (a : Fin 32) (id : Nat) :
    Coded.Statement (.movedAnswer a id) := Coded.of_none rfl rfl
theorem Coded.pageRetirementStep (ctx : BitVec 12) (obj : BitVec 24) (page : BitVec 48) :
    Coded.Statement (.pageRetirementStep ctx obj page) := Coded.of_none rfl rfl
theorem Coded.retirementOverdue (a : Fin 32) :
    Coded.Statement (.retirementOverdue a) := Coded.of_none rfl rfl
theorem Coded.trapTaken (a : Fin 32) :
    Coded.Statement (.trapTaken a) := Coded.of_none rfl rfl
theorem Coded.automaticCancel (a : Fin 32) (checker : Option Bool) :
    Coded.Statement (.automaticCancel a checker) := Coded.of_none rfl rfl
theorem Coded.phaseRollback (a : Fin 32) :
    Coded.Statement (.phaseRollback a) := Coded.of_none rfl rfl
theorem Coded.taskCompletes (tid : BitVec 32) :
    Coded.Statement (.taskCompletes tid) := Coded.of_none rfl rfl
theorem Coded.queueEntryRead (q : Fin 64) :
    Coded.Statement (.queueEntryRead q) := Coded.of_none rfl rfl
theorem Coded.eventSignal (ctx : BitVec 12) (name : BitVec 16) :
    Coded.Statement (.eventSignal ctx name) := Coded.of_none rfl rfl
theorem Coded.stagingComplete (tid : BitVec 32) :
    Coded.Statement (.stagingComplete tid) := Coded.of_none rfl rfl
theorem Coded.taskPlacement (tid : BitVec 32) (arrs : List (Fin 32)) :
    Coded.Statement (.taskPlacement tid arrs) := Coded.of_none rfl rfl
theorem Coded.preemptionRequest (tid waiter : BitVec 32) :
    Coded.Statement (.preemptionRequest tid waiter) := Coded.of_none rfl rfl
theorem Coded.deficitExpiry (tid : BitVec 32) :
    Coded.Statement (.deficitExpiry tid) := Coded.of_none rfl rfl
theorem Coded.taskSave (tid : BitVec 32 × BitVec 48) :
    Coded.Statement (.taskSave tid) := Coded.of_none rfl rfl
theorem Coded.taskRestore (tid : BitVec 32) (arrs : List (Fin 32)) (errors : List ImageError) :
    Coded.Statement (.taskRestore tid arrs errors) := Coded.of_none rfl rfl
theorem Coded.leaveGrant (die : Fin 4) :
    Coded.Statement (.leaveGrant die) := Coded.of_none rfl rfl
theorem Coded.leaveExpiry (a : Fin 32) :
    Coded.Statement (.leaveExpiry a) := Coded.of_none rfl rfl
theorem Coded.sprintAnswer (a : Fin 32) :
    Coded.Statement (.sprintAnswer a) := Coded.of_none rfl rfl
theorem Coded.bellowsLeaseExpiry (tid : BitVec 32) :
    Coded.Statement (.bellowsLeaseExpiry tid) := Coded.of_none rfl rfl
theorem Coded.domainBarrierArrival (id : BitVec 24) (pkg : BitVec 10 × BitVec 11) :
    Coded.Statement (.domainBarrierArrival id pkg) := Coded.of_none rfl rfl
theorem Coded.domainBarrierCompletion (id : BitVec 24) :
    Coded.Statement (.domainBarrierCompletion id) := Coded.of_none rfl rfl
theorem Coded.domainBarrierTimeout (id : BitVec 24) :
    Coded.Statement (.domainBarrierTimeout id) := Coded.of_none rfl rfl
theorem Coded.switchIngressVerify (grp : BitVec 24) (c : Contribution × Fin 3) :
    Coded.Statement (.switchIngressVerify grp c) := Coded.of_none rfl rfl
theorem Coded.landingPortVerify (grp : BitVec 24) (chunk : Nat × BitVec 10) (received : BitVec 32768) :
    Coded.Statement (.landingPortVerify grp chunk received) := Coded.of_none rfl rfl
theorem Coded.roundClose (grp : BitVec 24) (chunk : Nat × Fin 3) :
    Coded.Statement (.roundClose grp chunk) := Coded.of_none rfl rfl
theorem Coded.touchmarkReport (k : Nat) :
    Coded.Statement (.touchmarkReport k) := Coded.of_none rfl rfl
theorem Coded.pageQuarantine (page : Nat) :
    Coded.Statement (.pageQuarantine page) := Coded.of_none rfl rfl
theorem Coded.capacityPageEvicted (ctx : BitVec 12) (obj : BitVec 24) (page : BitVec 48) :
    Coded.Statement (.capacityPageEvicted ctx obj page) := Coded.of_none rfl rfl
theorem Coded.domainBarrierPackageDrop (id : BitVec 24) (pkg : BitVec 10) :
    Coded.Statement (.domainBarrierPackageDrop id pkg) := Coded.of_none rfl rfl
theorem Coded.cellStepExecute (a : Fin 32) (i : Fin 64) (j : Fin 64 × List CellPart) :
    Coded.Statement (.cellStepExecute a i j) := Coded.of_none rfl rfl
theorem Coded.feederBeat (a : Fin 32) (west : Bool × List (Fin 64)) :
    Coded.Statement (.feederBeat a west) := Coded.of_none rfl rfl
theorem Coded.popStallCompletes (a : Fin 32) (west : Bool) :
    Coded.Statement (.popStallCompletes a west) := Coded.of_none rfl rfl
theorem Coded.collectorCapture (a : Fin 32) :
    Coded.Statement (.collectorCapture a) := Coded.of_none rfl rfl
theorem Coded.swaitRelease (a : Fin 32) :
    Coded.Statement (.swaitRelease a) := Coded.of_none rfl rfl
theorem Coded.cacheMissFill (cl : Fin 8) (line : Nat) (bad : BitVec 2) :
    Coded.Statement (.cacheMissFill cl line bad) := Coded.of_none rfl rfl
theorem Coded.pageWalk (ctx : BitVec 12) (obj : BitVec 24) (page : BitVec 48) (wr : Bool) :
    Coded.Statement (.pageWalk ctx obj page wr) := Coded.of_none rfl rfl
theorem Coded.translationInvalidate (ctx : BitVec 12) (obj : BitVec 24) (page : BitVec 48) :
    Coded.Statement (.translationInvalidate ctx obj page) := Coded.of_none rfl rfl
theorem Coded.pageRelocation (ctx : BitVec 12) (obj : BitVec 24) (page : BitVec 48) (pkg : BitVec 10) (base : BitVec 48 ×
      Option (BitVec 256)) :
    Coded.Statement (.pageRelocation ctx obj page pkg base) := Coded.of_none rfl rfl
theorem Coded.activeArrayCycle (a : Fin 32) :
    Coded.Statement (.activeArrayCycle a) := Coded.of_none rfl rfl
theorem Coded.frozenArrayCycle (a : Fin 32) :
    Coded.Statement (.frozenArrayCycle a) := Coded.of_none rfl rfl
theorem Coded.fatalContextError (ctx : BitVec 12) (info : FatalInfo) :
    Coded.Statement (.fatalContextError ctx info) := Coded.of_none rfl rfl
theorem Coded.meltUpdate (watts : Nat) (correction : Int) :
    Coded.Statement (.meltUpdate watts correction) := Coded.of_none rfl rfl
theorem Coded.railAlarm (die : Fin 4) (ceiling : Nat × Nat) :
    Coded.Statement (.railAlarm die ceiling) := Coded.of_none rfl rfl
theorem Coded.coolantFlowAlarm (decilitres : Nat) :
    Coded.Statement (.coolantFlowAlarm decilitres) := Coded.of_none rfl rfl
theorem Coded.lidSensorAlarm (sensor : Fin 8) (celsius : Nat) :
    Coded.Statement (.lidSensorAlarm sensor celsius) := Coded.of_none rfl rfl
theorem Coded.junctionAlarm (die : Fin 4) (celsius ceiling : Nat) :
    Coded.Statement (.junctionAlarm die celsius ceiling) := Coded.of_none rfl rfl
theorem Coded.absenceToken (id : BitVec 24) (pkg : BitVec 10) :
    Coded.Statement (.absenceToken id pkg) := Coded.of_none rfl rfl
theorem Coded.presenceToken (id : BitVec 24) (pkg : BitVec 10) :
    Coded.Statement (.presenceToken id pkg) := Coded.of_none rfl rfl
theorem Coded.patrolScrub (stack : Fin 16) (sector : Nat) (bad : BitVec 2 × Option Nat) :
    Coded.Statement (.patrolScrub stack sector bad) := Coded.of_none rfl rfl
theorem Coded.refreshManagement (stack : Fin 16) (bank : Nat) (row : Nat × Nat) :
    Coded.Statement (.refreshManagement stack bank row) := Coded.of_none rfl rfl
theorem Coded.alertBackOff (stack : Fin 16) (bank : Nat × Nat) :
    Coded.Statement (.alertBackOff stack bank) := Coded.of_none rfl rfl
theorem Coded.remapTableError (stack : Fin 16) (pseudoChannel : Nat) (mirrorOk : List (Nat × Nat) × Option (Nat ×
      Nat)) :
    Coded.Statement (.remapTableError stack pseudoChannel mirrorOk) := Coded.of_none rfl rfl
theorem Coded.hostCxlMemAccess (offset : HostPlace × Fin 3 × ReadError) (write : Option (BitVec 512)) :
    Coded.Statement (.hostCxlMemAccess offset write) := Coded.of_none rfl rfl
theorem Coded.qtailWrite (q : Fin 64) (v : BitVec 64) :
    Coded.Statement (.qtailWrite q v) := Coded.of_none rfl rfl
theorem Coded.qcfgWrite (q : Fin 64) (v : BitVec 64) :
    Coded.Statement (.qcfgWrite q v) := Coded.of_none rfl rfl
theorem Coded.evsigWrite (v : BitVec 32) :
    Coded.Statement (.evsigWrite v) := Coded.of_none rfl rfl
theorem Coded.alarmWrite (v : BitVec 32) :
    Coded.Statement (.alarmWrite v) := Coded.of_none rfl rfl
theorem Coded.linkenWrite (v : BitVec 32) :
    Coded.Statement (.linkenWrite v) := Coded.of_none rfl rfl
theorem Coded.registerWrite (offset : BitVec 20) (v : BitVec 64) :
    Coded.Statement (.registerWrite offset v) := Coded.of_none rfl rfl
theorem Coded.flitCrcFail (port : Fin 16 × Bool) :
    Coded.Statement (.flitCrcFail port) := Coded.of_none rfl rfl
theorem Coded.portDown (port : Fin 16) :
    Coded.Statement (.portDown port) := Coded.of_none rfl rfl
theorem Coded.routerStop (input : Nat) (vc : Fin 6) (freeFlits : Nat) :
    Coded.Statement (.routerStop input vc freeFlits) := Coded.of_none rfl rfl
theorem Coded.ucieTrainingFail (m : Fin 8) :
    Coded.Statement (.ucieTrainingFail m) := Coded.of_none rfl rfl
theorem Coded.packageReset (images : List FirmwareImage) :
    Coded.Statement (.packageReset images) := Coded.of_none rfl rfl
theorem Coded.functionReady (bit : Fin 64) (ready failed : Bool) :
    Coded.Statement (.functionReady bit ready failed) := Coded.of_none rfl rfl
theorem Coded.capacityPageStaged (ctx : BitVec 12) (obj : BitVec 24) (page base : BitVec 48) :
    Coded.Statement (.capacityPageStaged ctx obj page base) := Coded.of_none rfl rfl
theorem Coded.pageRetirementStart (ctx : BitVec 12) (obj : BitVec 24) (page base : BitVec 48) :
    Coded.Statement (.pageRetirementStart ctx obj page base) := Coded.of_none rfl rfl
theorem Coded.remoteAccessArrives (r : RemoteAccess) :
    Coded.Statement (.remoteAccessArrives r) := Coded.of_none rfl rfl
theorem Coded.deviceLaunch :
    Coded.Statement .deviceLaunch := Coded.of_none rfl rfl
theorem Coded.clockLevelChange :
    Coded.Statement .clockLevelChange := Coded.of_none rfl rfl
theorem Coded.refreezeEnd :
    Coded.Statement .refreezeEnd := Coded.of_none rfl rfl
theorem Coded.createObject :
    Coded.Statement .createObject := Coded.of_none rfl rfl
theorem Coded.destroyObject :
    Coded.Statement .destroyObject := Coded.of_none rfl rfl
theorem Coded.freeEvent :
    Coded.Statement .freeEvent := Coded.of_none rfl rfl
theorem Coded.registerReductionGroup :
    Coded.Statement .registerReductionGroup := Coded.of_none rfl rfl
theorem Coded.releaseReductionGroup :
    Coded.Statement .releaseReductionGroup := Coded.of_none rfl rfl
theorem Coded.badCommand :
    Coded.Statement .badCommand := Coded.of_none rfl rfl
theorem Coded.attest :
    Coded.Statement .attest := Coded.of_none rfl rfl

end Sys2Proof.Laws
end

