-- ==== Sys2Proof/Tests/Slice0.lean ====
section
/-! SUPPORT. Tests of the model: forms that are not well formed, words written out from the encoding tables of the manual,
worked examples of the manual, and for each statement for the provers a state and operands that meet its hypotheses. -/

namespace Sys2Proof.Tests

open Sys2Proof Sys2Proof.Machine

-- One test after another: many at once would each wait, with a stack of its own, for the kernel.
set_option Elab.async false

/-! ### Forms that the encoding tables mark illegal (R41 to R53) -/

theorem test_ill_formed : ([.loop 0 0 0 0, .freeze 0 0, .swait 0 0 0, .lease 0 0, .lease 0 1048577, .sprint 0 1 0 5,
    .sprint 0 1 1 0, .sprint 0 1 1 10001, .leave 0 3 9, .leave 0 1 0, .ldp 0 5 1 0 0, .stp 0 7 1 0 0,
    .role 0 16 .cache .swz16, .waveAnd 0 0 .h .v .v .f32, .waveSar 0 0 .h .v .v .f16, .abs 0 0 .h .v .z32, .neg 0 0 .h .v .z8,
    .mma 0 0 false 0 .wh .nv .i32, .mmaz 0 0 false 0 .wh .nv .z32, .mmas 0 0 false 0 .wh .nv .f32,
    .mmas 0 0 false 0 .wh .nv .i4, .lds 0 0 (.word 1) 0 0, .rng 0 0 .h .raw 5, .noise 0 0 .h .i32, .cvt .bf16 0 0 .h .v .bf16 .rne,
    .drain .f32 0 0 false false false 0 (.word 0) 0 .rne, .drain .f32 0 0 false false false 0 .h 3 .rne, .rsBand 0 9 8,
    .tkInit 0 1 .e4m3 false] : List Instr).all (fun i => !i.wellFormed) = true := by decide

theorem test_ill_formed_events : ([.fatalContextError 1 ⟨0, 0, 0, 0, none, 0, 0, 0, 0, 0⟩, .meltUpdate 2000 9,
    .taskPlacement 1 [], .taskPlacement 1 [3, 3], .taskRestore 1 [0, 1, 2, 3, 4] [], .railAlarm 0 (543, 0),
    .junctionAlarm 0 110 100] : List Instr).all (fun i => !i.wellFormed) = true := by decide

theorem test_well_formed : ([.loop 0 0 0 1, .lease 0 1048576, .sprint 0 1 3 10000, .ldp 0 30 1 0 0, .role 0 16 .scratch .swz32,
    .waveAnd 0 0 .h .v .v .i4, .mmas 0 0 false 0 .wh .nv .e2m1, .rng 0 0 .h .gaussian 4, .drain .f32 0 0 true true true 0 .h 15 .sr,
    .rsBand 0 8 8, .meltUpdate 2000 (-8), .taskPlacement 1 [0, 1]] : List Instr).all Instr.wellFormed = true := by decide

/-! ### Words written out from the encoding tables -/

/-- Whether each word, in slot `k`, decodes to the form beside it. -/
def reads (k : Nat) (l : List (Nat × Instr)) : Bool := l.all fun e => decide (decodeSlot k e.1 = some e.2)

theorem test_decode_ctl_1 : reads 0
    [(0x00000000, .nop), (0x02FFFFFF, .br 3 4194303), (0x04E80009, .brp 3 5 false 9), (0x06CA0000, .jmpi 3 5),
      (0x08C00005, .call 3 5), (0x0AC00000, .ret 3), (0x0CD30009, .loop 3 1 6 9), (0x0ED00000, .endloop 3 1),
      (0x10D40002, .flagbr 3 1 false true 2), (0x20D00000, .scope 3 .cl), (0x22C00005, .sync 3 5),
      (0x24C00000, .realign 3), (0x26C00005, .freeze 3 5), (0x28D40600, .swait 3 5 6), (0x30C00000, .phase 3),
      (0x32C00000, .phcancel 3), (0x34C00000, .retire 3), (0x40C00005, .lease 3 5), (0x42C00000, .lfree 3),
      (0x44EC0009, .sprint 3 5 2 9), (0x46C00000, .sprfree 3), (0x48D00006, .leave 3 1 6), (0x50C00005, .trap 3 5),
      (0x52C00000, .xret 3)] = true := by decide

theorem test_decode_ctl_2 : reads 0
    [(0x54C00005, .brk 3 5), (0x60CA0006, .csrr 3 5 6), (0x62CA0006, .csrw 3 5 6), (0x64CA0006, .csrs 3 5 6),
      (0x66CA0006, .csrc 3 5 6), (0x7EC00000, .tend 3)] = true := by decide

theorem test_decode_scl_1 : reads 1
    [(0x02CA6480, .add 3 5 6 9), (0x04CA6480, .sub 3 5 6 9), (0x06CA6480, .mul 3 5 6 9), (0x08CA6480, .mulh 3 5 6 9),
      (0x0ACA6480, .mulhz 3 5 6 9), (0x0CCA6480, .and 3 5 6 9), (0x0ECA6480, .andn 3 5 6 9),
      (0x10CA6480, .or 3 5 6 9), (0x12CA6480, .xor 3 5 6 9), (0x14CA6480, .shl 3 5 6 9), (0x16CA6480, .shr 3 5 6 9),
      (0x18CA6480, .sar 3 5 6 9), (0x1ACA6480, .rotl 3 5 6 9), (0x1CCA6480, .min 3 5 6 9),
      (0x1ECA6480, .max 3 5 6 9), (0x20CA6480, .minz 3 5 6 9), (0x22CA6480, .maxz 3 5 6 9), (0x24CA6000, .clz 3 5 6),
      (0x26CA6000, .ctz 3 5 6), (0x28CA6000, .popc 3 5 6), (0x2ACA6000, .mov 3 5 6), (0x30CA6009, .addi 3 5 6 9),
      (0x32CBFFFF, .li 3 5 131071), (0x3F4C0009, .lui 3 5 6 9)] = true := by decide

theorem test_decode_scl_2 : reads 1
    [(0x40EC4880, .cmp 3 5 .lo 9 2), (0x42ED4802, .cmpi 3 5 .hs 9 2), (0x44CB9220, .sel 3 5 6 9 2),
      (0x46EE2400, .plog 3 5 6 1 2), (0x50D59220, .capnarrow 3 5 6 9 2), (0x52D58009, .capoff 3 5 6 9),
      (0x54CAC800, .capinfo 3 5 6 .len), (0x56D40000, .capdrop 3 5), (0x60E98000, .maskld 3 5 6),
      (0x62EE4800, .maskrot 3 5 6 9)] = true := by decide

theorem test_decode_mem_1 : reads 2
    [(0x02CAC947, .ld 3 5 6 9 .z8 7), (0x04CAC947, .st 3 5 6 9 .z8 7), (0x06C8C902, .ldp 3 4 6 9 2),
      (0x08C8C902, .stp 3 4 6 9 2), (0x10C00000, .mark 3), (0x12D00000, .fence 3 .cl),
      (0x20CAC914, .amoAdd 3 5 6 9 2 true), (0x22CAC914, .amoAnd 3 5 6 9 2 true),
      (0x24CAC914, .amoOr 3 5 6 9 2 true), (0x26CAC914, .amoXor 3 5 6 9 2 true),
      (0x28CAC914, .amoMin 3 5 6 9 2 true), (0x2ACAC914, .amoMax 3 5 6 9 2 true),
      (0x2CCAC914, .amoMinz 3 5 6 9 2 true), (0x2ECAC914, .amoMaxz 3 5 6 9 2 true),
      (0x30CAC914, .amoSwap 3 5 6 9 2 true), (0x32CAC914, .cas 3 5 6 9 2 true), (0x40C0A648, .redAdd 3 5 6 9 false),
      (0x42C0A648, .redAnd 3 5 6 9 false), (0x44C0A648, .redOr 3 5 6 9 false), (0x46C0A648, .redXor 3 5 6 9 false),
      (0x48C0A648, .redMin 3 5 6 9 false), (0x4AC0A648, .redMax 3 5 6 9 false), (0x4CC0A648, .redFadd 3 5 6 9),
      (0x50D4C920, .strmBind 3 5 6 9 2)] = true := by decide

theorem test_decode_mem_2 : reads 2
    [(0x52D40600, .strmAdv 3 5 6), (0x54CA0060, .strmLvl 3 5 6), (0x56D40000, .strmRew 3 5),
      (0x60D4C900, .cpySet 3 5 6 9), (0x62D40000, .cpyGo 3 5), (0x64D40006, .cpyStage 3 5 6),
      (0x66C00005, .cpbinv 3 5), (0x70CA6480, .tlWait 3 5 6 9), (0x72CA6000, .tlRead 3 5 6), (0x74C00000, .tlBump 3),
      (0x80CA0C00, .barInit 3 5 6), (0x82C00A00, .barArr 3 5), (0x84C00A00, .barDrop 3 5),
      (0x86CA0C00, .barXp 3 5 6), (0x88CA0C00, .barWait 3 5 6), (0x8AC00B80, .barTest 3 5 6),
      (0x90C00005, .evSig 3 5), (0x92C0A600, .tlaunch 3 5 6), (0xA0E8C910, .probe 3 5 6 9 2),
      (0xA2C0A648, .unpin 3 5 6 9), (0xA4C0A648, .prefetch 3 5 6 9), (0xA6C0A648, .evict 3 5 6 9),
      (0xA8CAC000, .role 3 5 .scratch .swz32)] = true := by decide

theorem test_decode_fn : reads 3
    [(0x02D62400, .fnPop 3 5 .rskew 9), (0x04D64800, .fnPopt 3 5 .rskew .w8 2), (0x06C01400, .fnZero 3 5),
      (0x08C00000, .fnHold 3), (0x0AD41800, .fnBcast 3 5 6), (0x0CCA0000, .fnTag 3 5), (0x0EC00005, .fnSkew 3 5)] = true := by decide

theorem test_decode_fw : reads 4
    [(0x02D62400, .fwPop 3 5 .rskew 9), (0x04D64800, .fwPopt 3 5 .rskew .w8 2), (0x06C01400, .fwZero 3 5),
      (0x08C00000, .fwHold 3), (0x0AD41800, .fwBcast 3 5 6), (0x0CCA0000, .fwTag 3 5), (0x0EC00005, .fwSkew 3 5)] = true := by decide

theorem test_decode_wave_1 : reads 5
    [(0x02763302, .waveMov 3 5 .v .nv .f16), (0x0474C04A, .movi 3 5 (.f 6) 9 .f16),
      (0x0674DFD7, .waveAdd 3 5 (.f 6) .coord .zero .i4), (0x0874D4AF, .waveSub 3 5 (.f 6) .sh .sv .i4),
      (0x0A74D6BF, .waveMul 3 5 (.f 6) .eh .ev .i4), (0x0C77D2CF, .fma 3 5 (.word 3) .nh .wv .i4),
      (0x0E74C917, .waveMin 3 5 (.f 6) (.f 9) (.f 2) .i4), (0x1074C917, .waveMax 3 5 (.f 6) (.f 9) (.f 2) .i4),
      (0x1274C902, .abs 3 5 (.f 6) (.f 9) .f16), (0x1474C902, .neg 3 5 (.f 6) (.f 9) .f16),
      (0x1676A23C, .waveCmp 3 5 .ge 1 (.f 2) (.f 7) .z32), (0x1874DBF3, .selg 3 5 (.f 6) (.word 0) (.word 3) 3),
      (0x1A77708F, .waveAnd 3 5 (.word 0) .h .v .i4), (0x1C74C917, .waveOr 3 5 (.f 6) (.f 9) (.f 2) .i4),
      (0x1E74C917, .waveXor 3 5 (.f 6) (.f 9) (.f 2) .i4), (0x2074C917, .waveShl 3 5 (.f 6) (.f 9) (.f 2) .i4),
      (0x2274C917, .waveShr 3 5 (.f 6) (.f 9) (.f 2) .i4), (0x2474C917, .waveSar 3 5 (.f 6) (.f 9) (.f 2) .i4),
      (0x2874C913, .pack 3 5 (.f 6) (.f 9) (.f 2) .w32), (0x2A74C903, .unpk 3 5 (.f 6) (.f 9) false .w32),
      (0x3076589B, .mma 3 5 true 2 .wh .nv .e4m3), (0x3274C722, .mmaz 3 5 false 2 (.f 7) (.f 4) .i4),
      (0x34744725, .mmas 3 5 false 2 (.f 7) (.f 4) .e3m2), (0x38744001, .accz 3 5 2 true)] = true := by decide

theorem test_decode_wave_2 : reads 5
    [(0x3A745D00, .accld 3 5 2 2), (0x3C745E00, .accst 3 5 2 3), (0x40761CF8, .lds 3 5 .h 1 31),
      (0x42776910, .sts 3 5 0 (.f 9) 2), (0x44778048, .kset 3 5 1 9), (0x4677DFF8, .kadd 3 5 3 1023),
      (0x4874C913, .perm 3 5 (.f 6) (.f 9) (.f 2) .w32), (0x4A74C902, .xpose 3 5 (.f 6) (.f 9) .w16),
      (0x4C74C917, .shuf 3 5 (.f 6) (.f 9) (.f 2) 7), (0x5074C900, .exp2 3 5 (.f 6) (.f 9)),
      (0x5274C900, .log2 3 5 (.f 6) (.f 9)), (0x5474C900, .rcp 3 5 (.f 6) (.f 9)),
      (0x5674C900, .rsq 3 5 (.f 6) (.f 9)), (0x5874C014, .rng 3 5 (.f 6) .gaussian 4),
      (0x5A74C001, .noise 3 5 (.f 6) .bf16), (0x6074C917, .dot 3 5 (.f 6) (.f 9) (.f 2) .i4),
      (0x6274C902, .sumr 3 5 (.f 6) (.f 9) .f16), (0x6474C917, .prefixSum 3 5 (.f 6) (.f 9) (.f 2) .i4),
      (0x6875A207, .flag 3 5 .le 1 (.f 2) .i4), (0x6A744001, .gset 3 5 2 true),
      (0x6C74C915, .tmk 3 5 (.f 6) (.f 9) (.f 2) .h16), (0x86B9223C, .cvt .e4m3 5 6 (.f 9) (.f 2) .e2m1 .sr),
      (0xA6BB911A, .drain .e4m3 5 6 true true true 0 .v 3 .rdn)] = true := by decide

theorem test_decode_rsel : reads 6
    [(0x02E60000, .rsSet 3 true 6), (0x04C00000, .rsAll 3), (0x06C00000, .rsNone 3), (0x08C00005, .rsRow 3 5),
      (0x0AC00146, .rsBand 3 5 6)] = true := by decide

theorem test_decode_edge : reads 7
    [(0x02D41800, .ecPush 3 5 6), (0x04D41800, .scPush 3 5 6), (0x06C01400, .ecDisc 3 5), (0x08C01400, .ecTopk 3 5),
      (0x10C16200, .tkInit 3 5 .i8 true), (0x12D40000, .tkMerge 3 5), (0x14D40000, .tkRead 3 5),
      (0x16CA0000, .tkCnt 3 5), (0x20CB4000, .aggRd 3 5 2 .all), (0x28D40000, .ecTmk 3 5),
      (0x30C00001, .scChain 3 true)] = true := by decide

/-- The words of the manual's listings: the loop of the sequencer chapter, and words of the bundle worked to the bit. -/
theorem test_decode_listing : reads 1 [(0x3204000A, .li 0 2 10), (0x3209FFFF, .li 0 4 (-1)), (0x30063001, .addi 0 3 3 1),
      (0x02021180, .add 0 1 1 3), (0x42080837, .cmpi 0 1 .eq 1 55), (0x3C081234, .lui 2 0 4 0x1234), (0x30084020, .addi 0 4 4 32)]
    = true ∧ reads 0 [(0x0C010002, .loop 0 0 2 2), (0x0E000000, .endloop 0 0), (0x04080002, .brp 0 1 false 2),
      (0x7E000000, .tend 0), (0x50000001, .trap 0 1), (0x20100000, .scope 0 .cl)] = true
    ∧ reads 2 [(0x020E25A2, .ld 0 7 1 5 .z32 2)] = true ∧ reads 3 [(0x02010000, .fnPop 0 0 .skew 0)] = true
    ∧ reads 4 [(0x02040000, .fwPop 0 1 .noskew 0)] = true
    ∧ reads 5 [(0x300A389B, .mma 0 2 true 1 .wh .nv .e4m3), (0x02063303, .waveMov 0 1 .v .nv .i32)] = true := by decide

/-- Words that R38 to R53 make illegal: opcode 0 with a bit set, opcodes not assigned, fields that are zero, illegal values. -/
theorem test_decode_illegal : ([(6, 1), (0, 0x12000000), (0, 0x2A000000), (1, 0x2C000000), (1, 0x34000000), (2, 0x0A000000),
      (2, 0xAA000000), (3, 0x10000000), (4, 0x02030000), (5, 0x26000000), (5, 0xBA000000), (6, 0x0C000000), (7, 0x0A000000),
      (0, 0x0A000001), (1, 0x02000001), (1, 0x40060000), (2, 0x020000C0), (2, 0x06020000), (2, 0x70014000), (2, 0x4C000004),
      (5, 0x02024000), (5, 0x28000004), (5, 0x3074C725), (5, 0x80000005), (7, 0x10001800), (7, 0x20005000)]
    : List (Nat × Nat)).all (fun e => decide (decodeSlot e.1 e.2 = none)) = true := by decide

/-- The worked bundle's slots, and a word stored where the next step fetches it. -/
theorem test_table_word : decodeTableWord 32 0x0C010002 = some (.loop 0 0 2 2)
    ∧ decodeTableWord 0 0 = none ∧ decodeTableWord 32 0xFFFFFFFF = none := by decide


/-! ### States for the tests of the slot forms -/

/-- Every right but noise, over bytes 64 to 4159 of object 5. -/
def full : Cap := ⟨true, 5, 0xEF, 64, 4096⟩

/-- Read, noise and stream, over object 6. -/
def noisy : Cap := ⟨true, 6, 0x98, 0, 4096⟩

/-- No right at all, over object 7. -/
def bare : Cap := ⟨true, 7, 0, 0, 4096⟩

/-- Registers with `S1` = 64, `S2` = 2^63 + 3, `S3` = 1, `S4` = 65,537, `S5` = 4,089, `P3` set, and in `H1` to `H4` capabilities, `H0`
invalid. -/
def someRegs : SeqRegs := { SeqRegs.start with
  s := (((SeqRegs.start.s.set 1 64).set 2 0x8000000000000003).set 3 1).set 4 65537 |>.set 5 4089
  p := SeqRegs.start.p.set 3 true
  h := ((SeqRegs.start.h.set 1 full).set 2 noisy).set 3 bare
  pc := 0x40, l := SeqRegs.start.l.set 1 ⟨2, 0x20, 0x40⟩
  xpc := 0x80, xnpc := 0xA0, xsw := 0xB03 }

/-- A stream of object 5, bound at block 0 with three blocks buffered. -/
def aStream : Stream := { Stream.unbound with
  mode := .bound, cap := full, desc := { StreamDesc.zero with extent := Vector.replicate 4 64, dims := 1 }
  buf := [⟨1, false⟩, ⟨2, true⟩, ⟨3, false⟩] }

/-- An array that runs task 7 of context 3 alone, with streams of every mode in `Q1` to `Q5`. -/
def anArr : Arr := { Arr.start with
  task := 7, ctx := 3, group := [0], run := .boundary, regs := someRegs, snap := someRegs, retIv := 4096, retLeft := 100
  streams := ((((Stream.unbound |> fun u => (Arr.start.streams.set 1 aStream).set 2 { u with mode := .binding }).set 3
    { aStream with mode := .exhausted }).set 4 { aStream with mode := .output }).set 5 { aStream with cap := bare }) }

/-- A part in service whose array 0 is `anArr`. -/
def bench : State := { updA State.reset 0 fun _ => anArr with ready := 0xFFFFFFFFFFFFFFFF, ptime := 5000 }

/-- `bench` with array 0 changed. -/
def benchWith (f : Arr → Arr) : State := updA bench 0 f

/-- Whether a form answers a next state that has a property. -/
def gives (i : Instr) (s : State) (P : State → Bool) : Bool :=
  match exec i s with
  | .next t => P t
  | _ => false

/-- The checks of R135 as one test. -/
theorem permits_of {s : State} {h : Fin 16} {need : List Nat} {off size align : Nat}
    (H : (((curA s).rh h).valid && need.all (fun r => ((curA s).rh h).has r) && decide (off < 2 ^ 48)
      && decide (off + size ≤ ((curA s).rh h).len.toNat) && decide (s.objectOffset h off % align = 0)) = true) :
    s.Permits h need off size align := by
  simp only [Bool.and_eq_true, decide_eq_true_eq, List.all_eq_true] at H
  exact ⟨H.1.1.1.1, H.1.1.1.2, H.1.1.2, H.1.2, H.2⟩

/-! ### Witnesses of the hypotheses of the statements about slot forms -/

/-- ScalarForms, PredicatesAndMasks, CapabilityForms, Branches: predicates that let a form act, `P0` and another. -/
theorem test_witness_lets : bench.lets 0 ∧ bench.lets 3 ∧ ¬ bench.lets 4 := ⟨rfl, rfl, by unfold State.lets; decide⟩

theorem test_witness_CapabilityForms : (let c := (curA bench).rh 1
    c.valid = true ∧ c.has Right.narrow = true ∧ ((curA bench).rs 1).toNat + ((curA bench).rs 3).toNat ≤ c.len.toNat)
    ∧ ((curA bench).rh 0).valid = false ∧ ((curA bench).rh 3).valid = true ∧ ((curA bench).rh 3).has Right.narrow = false
    ∧ 2 ^ 48 ≤ ((curA bench).rs 2).toNat
    ∧ ((curA bench).rh 1).len.toNat < ((curA bench).rs 5).toNat + ((curA bench).rs 1).toNat := by decide

theorem test_witness_Branches : (curA bench).snap.ret = []
    ∧ (∃ l t, (curA (benchWith fun x => { x with snap := { x.snap with ret := [0x20, 0x60] } })).snap.ret = l ++ [t])
    ∧ (curA (benchWith fun x => { x with snap := { x.snap with ret := List.replicate 8 0x20 } })).snap.ret.length = 8 :=
  ⟨by decide, ⟨[0x20], 0x60, by decide⟩, by decide⟩

theorem test_witness_Loops : ((curA bench).rs 1).setWidth 32 ≠ 0#32 ∧ ((curA bench).rs 0).setWidth 32 = 0#32
    ∧ 1 < (curA bench).snap.l[(1 : Fin 4)].count.toNat ∧ (curA bench).snap.l[(0 : Fin 4)].count.toNat ≤ 1 := by decide

theorem test_witness_FlagAggregates : (curA bench).kind = .cluster ∧ ∀ e ∈ (curA bench).cells, e.2.gLog = [] := by decide

/-- Waits: released and not; inside a sync group of context 3 and outside; blocks there and not; an unbound stream. -/
theorem test_witness_Waits : (curA (benchWith fun x => { x with released := true })).released = true
    ∧ (curA bench).released = false
    ∧ (∃ l, ({ bench with lines := [⟨3, 9, 1, [0]⟩] } : State).lines.find?
        (fun l => l.ctx = (curA bench).ctx && l.group = 9#8) = some l ∧ bench.cur ∈ l.members)
    ∧ (∀ l ∈ bench.lines, l.ctx = (curA bench).ctx → l.group = 9#8 → bench.cur ∉ l.members)
    ∧ (curA bench).reposition = [] ∧ (curA bench).streams[(1 : Fin 16)].mode = .bound
    ∧ (4#10).toNat ≤ (curA bench).streams[(1 : Fin 16)].desc.depth ∧ (curA bench).streams[(0 : Fin 16)].mode = .unbound :=
  ⟨by decide, by decide, ⟨⟨3, 9, 1, [0]⟩, by decide, by decide⟩, by decide, by decide, by decide, by decide, by decide⟩

/-- The head of a chain of arrays 0 and 1. -/
def chained : State := updA (benchWith fun x => { x with kind := .chain, group := [0, 1], clease := 5 }) 1 fun _ =>
  { anArr with kind := .chain, group := [0, 1], grpIdx := 1 }

/-- A task of a priority, in a state. -/
def aTask (tid : BitVec 32) (prio : Nat) (st : TaskState) : Task :=
  { tid := tid, ctx := 3, queue := 0, prio := prio, seqNo := 0, recAddr := .phys 0x8000, interrupt := false
    record := ⟨0, 0, [], [], []⟩, state := st, waits := [], arrs := [0], caps := [], prog := full, params := full
    scratchObjs := [], created := [], named := [], preempt := none, switch := false, deficit := 0, reruns := 0
    placed := 0 }

theorem test_witness_PhasesAndLeases : (curA bench).phDirty = false ∧ (curA bench).cancels < 2
    ∧ (curA (benchWith fun x => { x with phDirty := true })).phDirty = true
    ∧ 2 ≤ (curA (benchWith fun x => { x with cancels := 2 })).cancels ∧ (curA bench).kind = .cluster
    ∧ (curA chained).kind = .chain ∧ (curA chained).grpIdx = 0
    ∧ (let s := benchWith fun x => { x with phcancel := true, run := .issuing 8 }
      (curA s).phcancel = true ∧ (curA s).halt = false ∧ (curA s).run = .issuing 8 ∧ lockstep s s.cur = [s.cur] ∧ (1 : Fin 32) ≠ s.cur) := by
  decide

/-- Cluster 0 alone is in service, with no free array; a task for two arrays waits, and one of lower priority runs on the chain. -/
def contended : State := { updA (updA chained 2 fun x => { x with run := .boundary }) 3 fun x => { x with run := .boundary } with
  ready := BitVec.ofNat 64 (2 ^ 16 + 2 ^ 44 + 2 ^ 46)
  tasks := [{ aTask 7 1 .running with arrs := [0, 1] }, { aTask 8 2 .ready with arrs := [], record := ⟨2 * 2 ^ 64, 0, [], [], []⟩ }] }

theorem test_witness_PhasesAndLeases_request : taskFind contended (curA contended).task = some { aTask 7 1 .running with arrs := [0, 1] }
    ∧ (aTask 7 1 .running).preempt = none
    ∧ ((waitsFor (updCur contended fun x => { x with clease := 5 }) { aTask 7 1 .running with arrs := [0, 1] }).map Task.tid) = some 8 := by decide +kernel

theorem test_witness_TrapForms : (curA bench).handler = false
    ∧ (curA (benchWith fun x => { x with handler := true })).handler = true := by decide

theorem test_witness_ControlRegisters : (0x024#12, 0x80#64) ∈ csrTable bench ∧ (0x007#12, 0#64) ∈ csrTable bench
    ∧ (∀ e ∈ csrTable bench, (e.1 != 0x00A#12) = true) ∧ ∀ e ∈ csrTable bench, (e.1 != 0x027#12) = true :=
  ⟨List.mem_of_getElem? (i := 20) rfl, List.mem_of_getElem? (i := 7) rfl, List.all_eq_true.1 rfl, List.all_eq_true.1 rfl⟩

/-- LoadsAndStores: an access in bounds up to the last byte; through a noise capability; and one for each check that fails. -/
theorem test_witness_LoadsAndStores : bench.Permits 1 [Right.read] 4088 8 8 ∧ bench.Permits 1 [Right.write] 4080 16 16
    ∧ ((curA bench).rh 1).has Right.noise = false ∧ bench.Permits 2 [Right.read] 64 4 4
    ∧ ((curA bench).rh 2).has Right.noise = true
    ∧ ((curA bench).rh 0).valid = false ∧ ((curA bench).rh 3).valid = true ∧ ((curA bench).rh 3).has Right.read = false
    ∧ ((curA bench).rh 3).has Right.write = false ∧ ((curA bench).rh 1).len.toNat < 4089 + 8
    ∧ bench.objectOffset 1 65 % 2 ≠ 0 ∧ bench.Permits 2 [Right.read] 64 8 8 :=
  ⟨permits_of (by decide), permits_of (by decide), rfl, permits_of (by decide), rfl, rfl, rfl, rfl, rfl, by decide, by decide, permits_of (by decide)⟩

theorem test_witness_OrderingForms : (3 : Fin 20).val % 4 ≥ (members bench bench.cur).length
    ∧ (16 : Fin 20).val % 4 < (members bench bench.cur).length
    ∧ (63#8).toNat / 64 < (members bench bench.cur).length ∧ ¬ (64#8).toNat / 64 < (members bench bench.cur).length
    ∧ (63#8).toNat < 64 ∧ ¬ (64#8).toNat < 64
    ∧ ((curA bench).rs 1).toNat ≠ 0 ∧ ((curA bench).rs 1).toNat ≤ 65536 ∧ 65536 < ((curA bench).rs 4).toNat := by decide

theorem test_witness_AtomicsAndReductions : bench.Permits 1 [Right.atomic] 64 8 8 ∧ bench.Permits 1 [Right.atomic] 64 4 4
    ∧ ((curA bench).rh 1).has Right.noise = false := ⟨permits_of (by decide), permits_of (by decide), rfl⟩

theorem test_witness_StreamForms : bench.Permits 1 [Right.read] 64 64 64 ∧ ((curA bench).rh 1).has Right.noise = false
    ∧ ((curA bench).rh 1).valid = true ∧ ((curA bench).rh 1).has Right.stream = true
    ∧ ((curA bench).rh 1).has Right.read = true ∧ (curA bench).north.form = none ∧ (curA bench).north.inbox = []
    ∧ (curA bench).west.form = none ∧ (curA bench).west.inbox = [] ∧ (curA bench).reposition = []
    ∧ (curA bench).streams[(1 : Fin 16)].mode = .bound ∧ (curA bench).streams[(0 : Fin 16)].mode = .unbound
    ∧ (curA bench).streams[(3 : Fin 16)].mode = .exhausted :=
  ⟨permits_of (by decide), rfl, rfl, rfl, rfl, rfl, rfl, rfl, rfl, rfl, by decide, by decide, by decide⟩

/-- `bench` with contexts 0, 4 and 8 of its cluster's tongs loaded, armed and scheduled. -/
def tongs : State := putTongs (putTongs (putTongs bench 0 4 { Tongs.start with shadow := .loaded }) 0 8
  { Tongs.start with shadow := .armed }) 0 12 { Tongs.start with schedule := some [(1, 0)] }

theorem test_witness_TongsForms : (members tongs tongs.cur)[(4 : Fin 16).val % 4]? = some 0
    ∧ (vget tongs.clusters[(0 : Fin 8)].tongs 0).schedule = none ∧ (vget tongs.clusters[(0 : Fin 8)].tongs 0).shadow ≠ .armed
    ∧ (vget tongs.clusters[(0 : Fin 8)].tongs 8).shadow = .armed
    ∧ (vget tongs.clusters[(0 : Fin 8)].tongs 4).shadow = .loaded ∧ (vget tongs.clusters[(0 : Fin 8)].tongs 4).active.isSome = false
    ∧ (vget tongs.clusters[(0 : Fin 8)].tongs 12).schedule.isSome = true
    ∧ (members tongs tongs.cur).length ≤ (1 : Fin 16).val % 4
    ∧ (∀ b, (members tongs tongs.cur)[(1 : Fin 16).val % 4]? = some b → (getA tongs b).task ≠ (curA tongs).task)
    ∧ tongs.Permits 1 [Right.read] 64 64 64 :=
  ⟨rfl, rfl, by decide, by decide, by decide, by decide, by decide, by decide, by decide, permits_of (by decide)⟩

theorem test_witness_ServiceForms : bench.events.length < 4096 ∧ bench.Permits 1 [Right.read] 64 64 64
    ∧ bench.Permits 1 [Right.write] 64 4032 1 ∧ bench.Permits 1 [Right.read] 64 0 1
    ∧ (∃ b ∈ members bench bench.cur, clusterOf b = clusterOf bench.cur ∧ inCluster b = (17 : Fin 32).val % 8 / 2)
    ∧ (15 : Fin 32).val < 16
    ∧ ¬ ∃ b ∈ members bench bench.cur, clusterOf b = clusterOf bench.cur ∧ inCluster b = (18 : Fin 32).val % 8 / 2 :=
  ⟨by decide, permits_of (by decide), permits_of (by decide), permits_of (by decide), by decide, by decide, by decide⟩

theorem test_witness_EventLimit : (let s := { bench with events := List.replicate 4096 ⟨4, 1, false, [], [], [], false⟩ }
    4096 ≤ s.events.length ∧ ¬ ∃ v ∈ s.events, v.ctx = (curA s).ctx ∧ v.name = 9#16) := by
  refine ⟨Nat.le_of_eq List.length_replicate.symm, ?_⟩
  rintro ⟨v, h, e, -⟩
  rw [List.eq_of_mem_replicate h] at e
  exact absurd e (by decide)

theorem test_witness_FeederForms : (curA bench).kind = .cluster ∧ ((curA bench).feeder true).writes = []
    ∧ ((curA bench).feeder true).impliedWrites = [] ∧ ((curA bench).feeder true).inbox = []
    ∧ ((curA bench).feeder false).writes = [] ∧ ((curA bench).feeder false).impliedWrites = [] ∧ ((curA bench).feeder false).inbox = [] ∧ (curA bench).streams[(1 : Fin 16)].mode = .bound
    ∧ (curA bench).streams[(2 : Fin 16)].mode = .binding ∧ (curA bench).streams[(3 : Fin 16)].mode = .exhausted
    ∧ (curA bench).streams[(0 : Fin 16)].mode = .unbound ∧ (curA bench).streams[(4 : Fin 16)].mode = .output := by decide

theorem test_witness_WaveForms : waveFields (.mma 15 7 true 0 .wh .nv .e4m3) = some (15, 7) := by decide

theorem test_witness_EdgeForms : (curA bench).reposition = [] ∧ (curA bench).edgeCmds = [] ∧ (curA bench).streams[(1 : Fin 16)].cap.has Right.write = true
    ∧ (curA bench).streams[(1 : Fin 16)].mode = .bound ∧ (curA bench).streams[(3 : Fin 16)].mode = .exhausted
    ∧ (curA bench).streams[(4 : Fin 16)].mode = .output ∧ (curA bench).streams[(2 : Fin 16)].mode = .binding
    ∧ (curA bench).streams[(0 : Fin 16)].mode = .unbound ∧ (curA bench).streams[(5 : Fin 16)].mode = .bound
    ∧ (curA bench).streams[(5 : Fin 16)].cap.has Right.write = false := by decide

theorem test_witness_ChainForms : (curA chained).kind = .chain ∧ chained.cur ∈ (curA chained).group
    ∧ (curA chained).grpIdx = 0 ∧ (curA chained).group.Nodup
    ∧ (∀ b ∈ (curA chained).group, (getA chained b).west.writes = [] ∧ (getA chained b).west.impliedWrites = [] ∧ (getA chained b).west.inbox = [])
    ∧ ∀ b ∈ (curA chained).group, b ≠ chained.cur → (getA chained b).kind = .chain ∧ 0 < (getA chained b).grpIdx := by decide

theorem test_witness_PredicatedOff : Instr.predicate (.add 4 1 2 3) = some 4 ∧ (curA bench).rp 4 = false := by decide

/-! ### Witnesses of the hypotheses of the statements about cells, beats and cycles -/

/-- A wave form in its only beat, for all columns. -/
def waving (i : Instr) : WaveForm := ⟨i, 1, 0, 0xFFFFFFFFFFFFFFFF, samplesOf SeqRegs.start⟩

/-- The wave step of cycle `n` that carries a form, for all rows. -/
def stepped (n : Nat) (f : Option WaveForm) (phase : Bool) : WaveStep := ⟨n, f, 0xFFFFFFFFFFFFFFFF, false, phase, false⟩

/-- `bench` on cycle 12, where row 3 is offered a step with a form, rows 4 and 6 no form, row 5 a step with a phase, and row 8 no
step. `F9` of cell (3, 4) is poisoned, and west register 3 carries another tag than the one implied. -/
def waved (i : Instr) : State := benchWith fun x => { x with
  run := .issuing 8, acnt := 12, done := [openMark], steps := [stepped 9 (some (waving i)) false, stepped 8 none false, stepped 7 (some (waving i)) true, stepped 6 none false]
  cells := [(196, { Cell.start with f := Cell.start.f.set 9 ⟨5, true⟩, g := 6 })]
  west := { x.west with tags := x.west.tags.set 3 5 } }

theorem test_witness_executes (i : Instr) :
    (waved i).Executes 0 3 4 (stepped 9 (some (waving i)) false) (waving i)
    ∧ (waved i).Executes 0 3 0 (stepped 9 (some (waving i)) false) (waving i) :=
  have hb : (waved i).Begun 0 := fun m h => by
    rw [show lockstep (waved i) 0 = [0] from rfl, List.mem_singleton] at h
    subst h
    exact List.mem_singleton.2 rfl
  ⟨⟨rfl, hb, rfl, rfl, (by decide : ((0xFFFFFFFFFFFFFFFF#64).getLsbD 4 && (0xFFFFFFFFFFFFFFFF#64).getLsbD 3) = true), (by decide : 64 * 3 + 4 ∉ [openMark]), rfl⟩,
    ⟨rfl, hb, rfl, rfl, (by decide : ((0xFFFFFFFFFFFFFFFF#64).getLsbD 0 && (0xFFFFFFFFFFFFFFFF#64).getLsbD 3) = true), (by decide : 64 * 3 + 0 ∉ [openMark]), rfl⟩⟩

theorem test_witness_CellSteps : (let s := waved (.gset 0 0 1 true)
    cellsMove s 0 = true ∧ s.Begun 0 ∧ offered s 0 12 5 = some (stepped 7 (some (waving (.gset 0 0 1 true))) true)
    ∧ executes s 0 12 (stepped 7 (some (waving (.gset 0 0 1 true))) true) 5 4 = true ∧ 64 * 5 + 4 ∉ (getA s 0).done
    ∧ offered s 0 12 8 = none ∧ offered s 0 12 4 = some (stepped 8 none false)
    ∧ executes s 0 12 { stepped 9 (some (waving (.gset 0 0 1 true))) false with word := 0 } 3 4 = false
    ∧ 64 * 3 + 4 ∈ (getA (updA s 0 fun x => { x with done := [196] }) 0).done) := ⟨rfl, (test_witness_executes _).1.begun, rfl, rfl, by decide, rfl, rfl, rfl, by decide⟩

theorem test_witness_CellResults : (let i := Instr.waveAdd 0 0 .h (.f 3) .v .i8
    (waved i).clean 0 3 4 (waving i) (.f 3) ∧ (waved i).clean 0 3 4 (waving i) .v ∧ (waving i).form = i ∧ Elem.i8.isFloat = false
    ∧ ((waved i).cell 0 3 4).g.getLsbD 1 = true) := ⟨⟨rfl, rfl⟩, ⟨rfl, rfl⟩, rfl, rfl, rfl⟩

theorem test_witness_CellFaults : (let i := Instr.waveMov 0 0 .h (.f 9) .i8
    staleFeeder (getA (waved i) 0) 3 4 (.f 9) = none ∧ ((waved i).reads 0 3 4 (waving i) (.f 9)).poison = true)
    ∧ staleFeeder (getA (waved (.waveMov 0 0 .h .wh .i8)) 0) 3 0 .wh = some 1
    ∧ offered (waved .nop) 0 (getA (waved .nop) 0).acnt 8 = none := ⟨⟨rfl, rfl⟩, rfl, rfl⟩

/-- ElementResults, SumsAndDraws: a destination that the step reads, and the floating format of an element. -/
theorem test_witness_ElementResults : (let i := Instr.fma 0 0 (.f 2) (.f 3) .v .f32
    (waved i).clean 0 3 4 (waving i) (.f 3) ∧ (waved i).clean 0 3 4 (waving i) .v
    ∧ ((waved i).addend 0 3 4 (stepped 9 (some (waving i)) false) (waving i) (.f 2)).poison = false ∧ elemFloat .f32 = some fmtF32
    ∧ (((waved i).cell 0 3 4).word (((waved i).cell 0 3 4).k[(2 : Fin 4)].toNat)).poison = false) :=
  ⟨⟨rfl, rfl⟩, ⟨rfl, rfl⟩, rfl, rfl, rfl⟩

/-- TileResults: `waved` in the second of two beats of a form, whose first the cell has executed, with a tile in W128 mode and a
block of scaled products under way. -/
def tiled (i : Instr) : State :=
  let f : WaveForm := { waving i with beats := 2, beat := 1 }
  updA (waved i) 0 fun x => { x with
    steps := [stepped 9 (some f) false]
    cells := [(196, { Cell.start with
      f := Cell.start.f.set 9 ⟨5, true⟩, a := Cell.start.a.set 0 { Tile.zero with w128 := true }, lastStep := 9
      mmas := some ⟨⟨127, false⟩, 0, [(3, 4)]⟩ })] }

theorem test_witness_TileResults : (let i := Instr.mmas 0 0 false 0 (.f 3) .v .e4m3
    let f : WaveForm := { waving i with beats := 2, beat := 1 }
    let c := (tiled i).cell 0 3 4
    (tiled i).Executes 0 3 4 (stepped 9 (some f) false) f ∧ (tiled i).clean 0 3 4 f (.f 3) ∧ (tiled i).clean 0 3 4 f .v
    ∧ ((tiled i).reads 0 3 4 f (.f 9)).poison = true ∧ staleFeeder (getA (tiled i) 0) 3 4 (.f 9) = none
    ∧ (c.lastTile 0).poison = false ∧ (c.lastTile 0).w128 = true ∧ c.f[(15 : Fin 16)].poison = false ∧ 9 - f.beat < c.lastStep
    ∧ c.mmas = some ⟨⟨127, false⟩, 0, [(3, 4)]⟩ ∧ 0 = f.beat / (32 / (64 / fmtWidth .e4m3)) ∧ f.beat + 1 = f.beats
    ∧ c.a[(0 : Fin 4)].poison = false ∧ (∀ q, q < 8 → (c.word (c.k[(1 : Fin 4)].toNat + q)).poison = false)) := by
  refine ⟨⟨rfl, fun m h => ?_, rfl, rfl, rfl, (by decide : 64 * 3 + 4 ∉ [openMark]), rfl⟩, ⟨rfl, rfl⟩, ⟨rfl, rfl⟩, rfl, rfl, rfl, rfl, rfl
    , by decide, rfl, rfl, rfl, rfl, by decide⟩
  rw [show lockstep (tiled (Instr.mmas 0 0 false 0 (.f 3) .v .e4m3)) 0 = [0] from rfl, List.mem_singleton] at h
  subst h
  exact List.mem_singleton.2 rfl

/-- TileResults: an array whose cells have executed their steps, one of them with a result due on cycle `due`. -/
def landing (due : Nat) (done : List Nat) : State := benchWith fun x => { x with
  run := .issuing 8, acnt := 12, done := done, flagPend := [(11, 4)]
  cells := [(196, { Cell.start with pend := [⟨due, .f 2 ⟨5, false⟩, 2, false⟩] })] }

theorem test_witness_TileResults_landings (due : Nat) (d : List Nat) : (let x := getA (landing due d) 0
    x.kind = .cluster ∧ x.frozen = false ∧ x.answerDue 0 = none ∧ x.done = d
    ∧ tableFind x.cells (64 * 3 + 4) = some { Cell.start with pend := [⟨due, .f 2 ⟨5, false⟩, 2, false⟩] } ∧ x.captures = [] ∧ x.edge = none ∧ x.edgeCmds = []
    ∧ (11, 4) ∈ x.flagPend) := ⟨rfl, rfl, rfl, rfl, rfl, rfl, rfl, rfl, List.mem_singleton.2 rfl⟩

/-- A feeder form of stream `q`. -/
def fed (kind : FeederKind) (q : Fin 16) (stalled : Bool) : FeederForm := ⟨kind, q, .skew, 3, 2, stalled, 0, 0⟩

/-- `bench` with a form in its north feeder. -/
def feeding (m : FeederForm) : State := benchWith fun x => { x with run := .issuing 8, done := [openMark], north := { x.north with form := some m } }

theorem test_witness_FeederBeats : (∀ m ∈ [fed .bcast 1 false, fed .hold 0 false, fed .bcast 1 true, fed .bcast 3 false, fed .pop 1 false],
    (let x := getA (feeding m) 0
    cellsMove (feeding m) 0 = true ∧ openMark ∈ x.done ∧ lockstep (feeding m) 0 = [0] ∧ (x.feeder false).form = some m ∧ feederMark false ∉ x.done
    ∧ x.popHeld m = false)) ∧ sharesBuffer (benchWith fun x => { x with streams := Arr.start.streams.set 1 aStream }) 0 1 = false
    ∧ sharesBuffer bench 0 1 = true ∧ (fed .hold 0 false).kind.pops = false ∧ aStream.mode = .bound ∧ FeederKind.bcast.blocks ≤ aStream.buf.length
    ∧ aStream.desc.past (aStream.pos + 1) = false ∧ (getA bench 0).streams[(3 : Fin 16)].mode ≠ .bound
    ∧ aStream.buf.length < FeederKind.pop.blocks ∧ (List.replicate 64 (⟨7, false⟩ : PReg)).length = FeederKind.pop.blocks := by decide

/-- The block of an east or south capture in the store queue of array 0. -/
def pushEntry (id : Nat) : QEntry := ⟨id, .push 4 false none, full, 64, .ar, false⟩

/-- A capture that samples from cycle 20 on. -/
def aCapture (south : Bool) (u : CaptureUse) : Capture := ⟨south, 18, 20, 0, u, 1, 2, false, 0⟩

/-- `bench` on a cycle whose cells have all executed, with a capture under way. -/
def capturing (now : Nat) (c : Capture) (done : List Nat) : State := benchWith fun x => { x with
  run := .issuing 8, acnt := now, done := done, captures := [c], queue := (List.range 64).map pushEntry }

theorem test_witness_Captures (now : Nat) (c : Capture) (d : List Nat) : (let x := getA (capturing now c d) 0
    cellsMove (capturing now c d) 0 = true ∧ lockstep (capturing now c d) 0 = [0] ∧ x.done = d ∧ x.captures = [c] ∧ x.acnt = now) ∧ 19 < (aCapture false .offer).start
    ∧ (aCapture false .offer).start ≤ 83 ∧ 83 - (aCapture false .offer).start ≤ 63
    ∧ (getA (capturing 83 (aCapture false (.push 0)) d) 0).entry 63 = some (pushEntry 63)
    ∧ (getA (capturing 20 (aCapture true (.push 0)) d) 0).entry 0 = some (pushEntry 0) :=
  ⟨⟨rfl, rfl, rfl, rfl, rfl⟩, by decide, by decide, by decide, rfl, rfl⟩

theorem test_witness_Captures_done : captureMark ∉ openMark :: List.range 4096 ∧ openMark ∈ openMark :: List.range 4096
    ∧ ∀ k, k < 4096 → k ∈ openMark :: List.range 4096 :=
  ⟨fun h => (List.mem_cons.1 h).elim (fun h => absurd h (by decide)) (fun h => absurd (List.mem_range.1 h) (by decide))
  , List.mem_cons_self, fun _ h => List.mem_cons_of_mem _ (List.mem_range.2 h)⟩

theorem test_witness_Cycles_chain : (lockstep chained 0) = [0, 1] ∧ (lockstep chained 0).Nodup
    ∧ (∀ m ∈ lockstep chained 0, (getA chained m).run = .boundary)
    ∧ (let s := updA chained 1 fun x => { x with run := .waiting .leave }
      (1 : Fin 32) ∈ lockstep s 0 ∧ (getA s 1).run = .waiting .leave) := by decide

theorem test_witness_Cycles : (getA bench 0).answerDue 0 = none ∧ lockstep bench 0 = [0]
    ∧ ((getA (benchWith fun x => { x with acnt := 9, sprints := [⟨3, 1, 100, 9, 4⟩] }) 0).answerDue 0).isSome = true ∧ (∀ w, (getA bench 0).run = .waiting w → w = .sync) ∧ (getA bench 0).retLeft ≠ 0
    ∧ (getA (benchWith fun x => { x with run := .waiting (.freeze 0) }) 0).run = .waiting (.freeze 0)
    ∧ (getA (benchWith fun x => { x with run := .waiting (.freeze 3) }) 0).run = .waiting (.freeze 3) :=
  ⟨rfl, rfl, by decide, fun _ h => (Run.noConfusion h), by decide, rfl, rfl⟩

/-- `bench` with a word in slot 0 of the latch, held back. -/
def waitingFor (w : Wait) (word : BitVec 256) (f : Arr → Arr) : State := benchWith fun x => f { x with run := .waiting w, latch := word }

/-- `SWAIT Q1, 3`, `SWAIT Q1, 4` and `REALIGN` in slot 0. -/
theorem test_witness_Releases : (getA (waitingFor .swait 0x28040300 id) 0).swaiting = some (.inr true)
    ∧ holdOf (waitingFor .swait 0x28040300 id) 0 = none ∧ unsettled (waitingFor .swait 0x28040300 id) [0] = false
    ∧ unsettled (waitingFor .swait 0x28040300 fun x => { x with traps := [⟨.poison, 0, 0, 0⟩] }) (lockstep chained 1) = true
    ∧ (let t := updA (waitingFor .swait 0x28040300 id) 0 Arr.refresh
      lockstep (waitingFor .swait 0x28040300 id) 0 = [0] ∧ holdOf t 0 = none ∧ (getA t 0).refused = none)
    ∧ (getA (waitingFor .swait 0x28040400 id) 0).swaiting = some (.inr false)
    ∧ (let t := updA (waitingFor .sync 0x24000000 id) 0 fun x => { x with released := true }.refresh
      holdOf t 0 = none ∧ (getA t 0).refused = none)
    ∧ (syncRelease (waitingFor .sync 0x24000000 id) 0).isSome = true ∧ syncReady bench 0 = none
    ∧ syncReady (waitingFor .sync 0x24000000 id) 0 = some [0] ∧ (getA (waitingFor .sync 0x24000000 id) 0).isRealign = true
    ∧ syncReady { waitingFor .sync 0x22000009 id with lines := [⟨3, 9, 1, [0]⟩] } 0 = some [0] := by decide

/-! ### Witnesses of the hypotheses of the statements about queues and streams -/

/-- A LINEAR object of 64 KiB with every right, at byte 0x100000 of HBM. -/
def aLinear : ObjEntry := ⟨BitVec.ofNat 256 (1 + 0xFF * 2 ^ 96 + 0x10000 * 2 ^ 160), false, some [(0x100000, 0x10000)], none, false⟩

/-- `bench` with object 5 of context 3 in memory, and the bytes of a block there: at offset 64 a stream descriptor in bank 24, at 128
one in bank 0, at 192 a parameter block of kind 1. -/
def stocked : State := { bench with
  objs := [(objKey 3 5, aLinear)]
  mem := [(0x10004D, 0x80), (0x10004E, 0x01), (0x1000C0, 0x11)] }

/-- `stocked` with one entry, of number 7, in the queues of array 0. -/
def asked (op : QOp) (off : Nat) : State := updA stocked 0 fun x => { x with queue := [⟨7, op, full, off, .ar, false⟩] }

theorem test_witness_AtHead (op : QOp) (off : Nat) : (asked op off).AtHead 0 ⟨7, op, full, off, .ar, false⟩ := ⟨rfl, rfl⟩

/-- Looking a byte of a LINEAR object up changes nothing. -/
theorem test_lookup_same {s : State} {ctx : BitVec 12} {obj : BitVec 24} {e : ObjEntry} (h : objFind s ctx obj = some e)
    (k : e.kind = 1) (off n : Nat) (r : List Nat) (wr : Bool) : (locate s ctx obj off n r wr).1 = s := by
  unfold locate
  rw [h]
  simp only [k, if_true]
  repeat' split
  all_goals rfl

/-- An access to object 5 of `asked` reaches memory. -/
theorem test_reaches {op : QOp} {n : Nat} {r : List Nat} {wr : Bool} (h : objFind (asked op 64) (getA (asked op 64) 0).ctx 5 = some aLinear)
    (l : (locate (asked op 64) (getA (asked op 64) 0).ctx 5 64 n r wr).2 = .phys 0x100040 none)
    (b : bankRefuses (asked op 64) 0x100040 = none)
    (v : bytesServed (asked op 64) (getA (asked op 64) 0).ctx 5 64 n = true) :
    (asked op 64).Reaches (asked op 64) 0 ⟨7, op, full, 64, .ar, false⟩ n r wr 0x100040 none :=
  ⟨Prod.ext (test_lookup_same h (by decide) 64 n r wr) l, b, v⟩

/-- LoadsLand, StoresArrive, AtomicsApplied: accesses that reach memory, to read and to write; clean and poisoned sectors. -/
theorem test_witness_Reaches : (asked (.load 3 .d64) 64).Reaches (asked (.load 3 .d64) 64) 0 ⟨7, .load 3 .d64, full, 64, .ar, false⟩ 8 [Right.read] false 0x100040 none
    ∧ (asked (.loadPair 3) 64).Reaches (asked (.loadPair 3) 64) 0 ⟨7, .loadPair 3, full, 64, .ar, false⟩ 16 [Right.read] false 0x100040 none
    ∧ (asked (.store 16 5) 64).Reaches (asked (.store 16 5) 64) 0 ⟨7, .store 16 5, full, 64, .ar, false⟩ 16 [Right.write] true 0x100040 none
    ∧ (asked (.push 4 false (some ⟨5, false⟩)) 64).Reaches (asked (.push 4 false (some ⟨5, false⟩)) 64) 0
      ⟨7, .push 4 false (some ⟨5, false⟩), full, 64, .ar, false⟩ 32 [Right.write, Right.stream] true 0x100040 none
    ∧ (asked (.atomic none .add false 5 0) 64).Reaches (asked (.atomic none .add false 5 0) 64) 0
      ⟨7, .atomic none .add false 5 0, full, 64, .ar, false⟩ 8 [Right.atomic] false 0x100040 none :=
  ⟨test_reaches (by decide) (by decide) (by decide) (by decide), test_reaches (by decide) (by decide) (by decide) (by decide)
  , test_reaches (by decide) (by decide) (by decide) (by decide), test_reaches (by decide) (by decide) (by decide) (by decide)
  , test_reaches (by decide) (by decide) (by decide) (by decide)⟩

theorem test_witness_LoadsLand : (readPhys stocked 0x100040 16).2 = false ∧ quarantinedAt stocked 0x100040 = false
    ∧ bytesServed stocked 3 5 64 64 = true ∧ (readPhys { stocked with poison := [0x8002] } 0x100040 8).2 = true := by decide

/-- `stocked` with a MEMSIDE object. -/
def stockedSide : State := { stocked with objs := [(objKey 3 5, { aLinear with raw := aLinear.raw ||| 512 })] }

theorem test_witness_lookup : objFind stocked 3 5 = some aLinear ∧ aLinear.kind = 1 ∧ aLinear.homeKind = 0 := by decide

theorem test_witness_launch : taskFind { stockedSide with tasks := [aTask 7 1 .running] } (getA stockedSide 0).task = some (aTask 7 1 .running) := rfl

/-- LoadsLand: a `TLAUNCH` whose header and record can be read, with 128 sectors left of its capability. -/
theorem test_witness_launch_reads : bytesServed stockedSide 3 5 64 recordMax = true ∧ (64 + 4096 - 64) / 32 = 128 ∧ (match readSectors stockedSide 3 5 64 [Right.read] (min 16 128) with
    | (t, .value lo _) => (match readSectors t 3 5 64 [Right.read] (min (recordBytes (bytesOf lo) / 32) 128) with
      | (_, .value _ _) => true
      | _ => false)
    | _ => false) = true := by decide +kernel

theorem test_witness_WaitsLand : (0#64).toNat ≤ (timelineValue stocked 0 0).toNat ∧ (timelineValue stocked 0 0).toNat < (1#64).toNat
    ∧ (16 : Fin 20).val = 16 + (0 : Fin 4).val ∧ memberAt stocked 0 (0 : Fin 4).val = some 0
    ∧ barrierAt stocked 0 9 = some (0, 9) ∧ (barrierGet stocked (0, 9)).ph.toNat ≤ (4#32).toNat
    ∧ (4#32).toNat < (barrierGet (barrierPut stocked (0, 9) { Barrier.retired with ph := 5 }) (0, 9)).ph.toNat := by decide

/-- AtomicsApplied: the look-up of the write, and the checks before it. -/
theorem test_witness_AtomicsApplied : (let t := touchLine stocked 0x100040 false (memsideOf stocked 3 5)
    locate t 3 5 64 8 [Right.atomic] true = (t, .phys 0x100040 none) ∧ bankRefuses t 0x100040 = none
    ∧ (readPhys stocked 0x100040 8).2 = false ∧ quarantinedAt t 0x100040 = false) :=
  ⟨Prod.ext (test_lookup_same (by decide : _ = some aLinear) (by decide) 64 8 [Right.atomic] true) (by decide), by decide, by decide, by decide⟩

/-- A PAGED object of 128 KiB whose walk routine is loaded, and its page 0 on this package at byte 0x200000. -/
def aPaged : ObjEntry := ⟨BitVec.ofNat 256 (2 + 2 ^ 10 + 0xFF * 2 ^ 96 + 2 ^ 104 + 0x20000 * 2 ^ 160), false, none, none, false⟩

/-- `bench` with that object as object 5, page 0 resident and dirty, and page 1 in some state. -/
def paged (state : Nat) : State := { bench with
  objs := [(objKey 3 5, aPaged)], descs := [(pageKey 3 5 0, mkDesc 1 0x200000 0 0 true true), (pageKey 3 5 1, mkDesc state 0x210000 0 0 false false)] }

/-- A page that moves to byte 0x300000. -/
def aMove (page : BitVec 48) (cursor : Option Nat) : PageMove := ⟨3, 5, page, 0x300000, 0, 0, cursor, [], []⟩

/-- A header. -/
def aHeader : Header := ⟨1, 0x300000002, 7, 9, 0, 0, 0, false⟩

theorem test_witness_AnswersAndMarks : (let e : QEntry := ⟨7, .load 3 .d64, full, 0x10000, .ar, true⟩
    let s := updA (paged 2) 0 fun x => { x with queue := [e] }
    let f : QEntry := { e with id := 8 }
    let u : State := { updA (paged 2) 0 fun x => { x with queue := [e, f] } with moves := [aMove 1 none] }
    let t : State := { s with moves := [aMove 1 none], markMsgs := [⟨0x100000, 5, 6, 7⟩], headers := [(0x100000, aHeader)] }
    (getA u 0).queue = [e, f] ∧ e.id ≠ f.id ∧ f.off / 2 ^ aPaged.pageShift = 1 ∧ moveOf u 3 5 1 = some (aMove 1 none) ∧ (getA s 0).queue = [e]
    ∧ objFind s 3 5 = some aPaged ∧ moveOf s 3 5 1 = none ∧ moveOf t 3 5 1 = some (aMove 1 none)
    ∧ Held.entry 0 7 ∉ (aMove 1 none).held ∧ t.markMsgs[0]? = some ⟨0x100000, 5, 6, 7⟩
    ∧ tableFind t.headers 0x100000 = some aHeader) := by decide

/-- A barrier object whose phase is open. -/
def aBarrier : Barrier := ⟨2, 2, 0, 0, 5, 0, Vector.replicate 4 none, false⟩

theorem test_witness_BarrierForms : (let s := barrierPut (asked (.bar .arr 9 0) 0) (0, 9) aBarrier
    let o := aBarrier
    barrierAt s 0 9 = some (0, 9) ∧ domainOf s 0 9 = none ∧ (getA s 0).grpIdx < 4 ∧ barrierGet s (0, 9) = o
    ∧ o.dropped.getLsbD 0 = false ∧ o.exp ≠ 0 ∧ o.arr < o.exp ∧ (o.arr + 1 ≠ o.exp) ∧ ({ o with arr := 1 } : Barrier).arr + 1 = o.exp
    ∧ o.tx = 0 ∧ ({ o with arr := 2, tx := 7 } : Barrier).tx ≠ 0 ∧ o.next ≠ 0 ∧ o.arr + 1 < ({ o with exp := 3 } : Barrier).exp ∧ -(2 ^ 40) ≤ o.tx + (7#64).toInt ∧ o.tx + (7#64).toInt < 2 ^ 40
    ∧ ({ o with dropped := 1 } : Barrier).dropped.getLsbD 0 = true ∧ ({ o with arr := 2 } : Barrier).arr = o.exp
    ∧ Barrier.retired.exp = 0 ∧ Barrier.retired.lastPh[(0 : Fin 4)] = none) := by decide

/-- A member of the group of array 0, whose only entry waits for a phase. -/
def waitingOn (ph : BitVec 32) : QEntry := ⟨3, .barWait 4 9 (some ph), Cap.none, 0, .ar, false⟩
def inited (ph : BitVec 32) : State :=
  updA (updA (barrierPut (asked (.bar .init 9 2) 0) (0, 9) aBarrier) 0 fun x => { x with group := [0, 1] }) 1 fun x => { x with queue := [waitingOn ph] }

/-- The wait is for a phase that a `BAR.INIT` of array 0 ends. -/
theorem test_witness_BarrierForms_waits : barrierAt (inited 5) 0 9 = some (0, 9) ∧ domainOf (inited 5) 0 9 = none
    ∧ (1 : Fin 32) ∈ members (inited 5) 0 ∧ (getA (inited 5) 1).queue = [waitingOn 5] ∧ (barrierGet (inited 5) (0, 9)).ph.toNat ≤ (5#32).toNat
    ∧ (4#32).toNat < (barrierGet (inited 5) (0, 9)).ph.toNat :=
  ⟨by decide, by decide, by decide, rfl, by decide, by decide⟩

theorem test_witness_RoleChanges_order : (⟨7, .role 24 .cache .noswz 5, full, 0, .ar, false⟩ : QEntry).earlierRole 24 5 = false
    ∧ (⟨7, .role 24 .cache .noswz 5, full, 0, .ar, false⟩ : QEntry).earlierRole 24 6 = true := by decide

theorem test_witness_RoleChanges : stocked.clusters[(0 : Fin 8)].banks[(24 : Fin 32)].role = .operand ∧ Role.cache ≠ .operand
    ∧ clusterOf 0 = 0 ∧ (getA stocked 0).streams[(1 : Fin 16)].mode = .bound ∧ (getA stocked 0).streams[(1 : Fin 16)].desc.bank = 0
    ∧ ((stocked.clusters[(0 : Fin 8)].banks[(24 : Fin 32)].role = .cache) ≠ (Role.cache = .cache)) := by
  refine ⟨by decide, by decide, by decide, by decide, by decide, fun e => ?_⟩
  exact absurd (e.symm ▸ rfl : stocked.clusters[(0 : Fin 8)].banks[(24 : Fin 32)].role = .cache) (by decide)

theorem test_witness_StreamEngines : (let s := asked (.strmDesc 2) 64
    (getA s 0).bindWaits 2 = false ∧ (getA s 0).point.firstEntry ≤ 7 ∧ (getA s 0).streams[(2 : Fin 16)].mode = .binding
    ∧ (getA s 0).streams[(2 : Fin 16)].held = [] ∧ fetchReady s 0 1 = true ∧ (getA s 0).streams[(1 : Fin 16)].cap.has Right.noise = false
    ∧ (locate s 3 5 64 32 [Right.read, Right.stream] false).2 = .phys 0x100040 none ∧ bankRefuses s 0x100040 = none
    ∧ (readBlock s 3 5 64 (.clean, .clean)).2 = .value (24 * 2 ^ 108) false ∧ (readBlock s 3 5 128 (.clean, .clean)).2 = .value 0 false) := by decide

/-! ### Witnesses of the hypotheses of the statements about copies and pages -/

/-- A STRIDE2 block of two sectors, from byte 0 to byte 1,024 of the same capability. -/
def aBlock (posts : Bool) : CopyBlock := ⟨BitVec.ofNat 512 (1 + (if posts then 2 ^ 15 + 9 * 2 ^ 16 else 0) + 1024 * 2 ^ 128 + 32 * 2 ^ 192 + 32 * 2 ^ 224
  + 2 ^ 384), full, full, Cap.none⟩

/-- A copy of that block that has moved `k` sectors. -/
def aCopy (posts : Bool) (k : Nat) : Copy := { Copy.start 4 (aBlock posts) 0xFF 0xFF with moved := k, written := 32 * k, checked := true }

/-- `stocked` with a copy under way in context 0 of array 0. -/
def copying (c : Copy) (armed : Bool) : State :=
  putTongs stocked 0 0 { Tongs.start with active := some c, lastOp := 4, armed := armed, block := some (aBlock false) }

/-- `stocked` with task 7 and a schedule of one entry, of stage 1 and block 2, in context 0 of array 0. -/
def scheduled (released : Nat) : State :=
  putTongs { stocked with tasks := [aTask 7 1 .running] } 0 0 { Tongs.start with schedule := some [(1, 2)], released := released }

theorem test_witness_TongsCommands : tongsAt stocked 0 0 = some (0, 0) ∧ (getA stocked 0).run ≠ .off ∧ (getA stocked 0).point.firstEntry ≤ 7
    ∧ (readBlock stocked 3 5 192 (.clean, .clean)).2 = .value 17 false ∧ (readBlock stocked 3 5 128 (.clean, .clean)).2 = .value 0 false
    ∧ (readBlock { stocked with poison := [0x8006] } 3 5 192 (.clean, .clean)).2 = .value 17 true
    ∧ (mkBlock 17 fun h => someRegs.h[Fin.ofNat 16 h]).ok stocked (ownerOf 0 0) = true ∧ (mkBlock 17 fun _ => full).kind ≠ 4
    ∧ (mkBlock 0 fun _ => full).ok stocked (ownerOf 0 0) = false := by decide +kernel

theorem test_witness_TongsCommands_order : (let s := asked (.cpyGo 0) 0
    s.clusters[(0 : Fin 8)].tongs[(0 : Fin 16)].armed = false
    ∧ ((s.clusters[(0 : Fin 8)].tongs[(0 : Fin 16)].pending s).takeWhile fun y => decide ((y.1, y.2.id) ≠ ((0 : Fin 32), 7))) = []
    ∧ (let t := putTongs s 0 0 { Tongs.start with order := [(0, 7)] }
      t.clusters[(0 : Fin 8)].tongs[(0 : Fin 16)].pending t = [(0, ⟨7, .cpyGo 0, full, 0, .ar, false⟩)]
      ∧ ((t.clusters[(0 : Fin 8)].tongs[(0 : Fin 16)].pending t).takeWhile fun y => decide ((y.1, y.2.id) ≠ ((0 : Fin 32), 7))) = [])
    ∧ bytesServed stocked 3 5 128 64 = true ∧ bytesServed stocked 3 5 192 64 = true
    ∧ isWindow stocked 0 (aBlock false) = false) := by decide +kernel

theorem test_witness_TongsCommands_go : (copying (aCopy false 0) false).clusters[(0 : Fin 8)].tongs[(0 : Fin 16)].block = some (aBlock false)
    ∧ (copying (aCopy false 0) false).clusters[(0 : Fin 8)].tongs[(0 : Fin 16)].active = some (aCopy false 0)
    ∧ stocked.clusters[(0 : Fin 8)].tongs[(0 : Fin 16)].active = none ∧ stocked.clusters[(0 : Fin 8)].tongs[(0 : Fin 16)].block = none
    ∧ (copying (aCopy false 0) false).clusters[(0 : Fin 8)].tongs[(0 : Fin 16)].schedule = none ∧ (aCopy false 0).checked = true
    ∧ (scheduled 1).clusters[(0 : Fin 8)].tongs[(0 : Fin 16)].schedule.isSome = true := ⟨rfl, rfl, rfl, rfl, rfl, rfl, rfl⟩

/-- A copy of one sector left reads it whatever sector is picked. -/
theorem test_witness_CopiesComplete_reads : (let c := aCopy false 1
    let b := aBlock false
    let s := copying c false
    let t : State := { s with freeCtr := s.freeCtr + 2 }
    s.clusters[(0 : Fin 8)].tongs[(0 : Fin 16)].active = some c ∧ isWindow s 0 b = false ∧ c.ended = none ∧ c.moved < b.units ∧ c.buf = []
    ∧ c.kept = false ∧ bytesServed (bump s) 3 5 (b.src.at (b.srcAt 1)) 32 = true ∧ b.kind = 1 ∧ c.moved ∉ c.ahead ∧ (∀ k, c.nextUnit k = 1) ∧ b.overlaps 1 = false
    ∧ locate t 3 5 (b.src.at (b.srcAt 1)) 32 [Right.read, Right.copy] false = (t, .phys 0x100060 none) ∧ bankRefuses t 0x100060 = none) :=
  ⟨rfl, by decide +kernel, rfl, by decide +kernel, rfl, rfl, by decide +kernel, by decide +kernel, by decide +kernel, fun k => by
    simp [Copy.nextUnit, aCopy, Copy.start, (by decide +kernel : (aBlock false).units = 2), (by decide +kernel : (aBlock false).kind = 1), Nat.mod_one]
  , by decide +kernel, Prod.ext (test_lookup_same (by decide +kernel : _ = some aLinear) (by decide +kernel) _ _ _ _) (by decide +kernel), by decide +kernel⟩

/-- A copy of which two sectors wait to be written. -/
def writing : Copy := { aCopy false 2 with buf := [⟨0x440, 7, false⟩, ⟨0x440, 7, false⟩] }

theorem test_witness_CopiesComplete_writes : (let s := copying writing false
    let t : State := { s with freeCtr := s.freeCtr + 1 }
    writing.ended = none ∧ writing.moved = writing.block.units ∧ 1 < writing.buf.length
    ∧ (∀ k, writing.buf[k % writing.buf.length]? = some ⟨0x440, 7, false⟩)
    ∧ locate t 3 5 0x440 32 [Right.write, Right.copy] true = (t, .phys 0x100440 none) ∧ bankRefuses t 0x100440 = none
    ∧ bytesServed (bump s) 3 5 0x440 32 = true ∧ heldChunk (bump s) 0 writing 0x440 = false ∧ quarantinedAt t 0x100440 = false) :=
  ⟨rfl, by decide +kernel, by decide, fun k => by
    have h : k % writing.buf.length < 2 := Nat.mod_lt k (by decide)
    generalize k % writing.buf.length = n at h
    match n, h with
    | 0, _ => rfl
    | 1, _ => rfl
  , Prod.ext (test_lookup_same (by decide +kernel : _ = some aLinear) (by decide +kernel) _ _ _ _) (by decide +kernel), by decide +kernel, by decide +kernel, by decide +kernel, by decide +kernel⟩

theorem test_witness_CopiesComplete_ends : (∀ posts : Bool, let c := aCopy posts 2
    let b := aBlock posts
    let s := copying c true
    c.buf = [] ∧ c.ended = none ∧ c.moved = b.units ∧ isWindow s 0 b = false ∧ c.chunks = none ∧ c.kept = false ∧ c.closed = 0 ∧ b.posts = posts
    ∧ s.clusters[(0 : Fin 8)].tongs[(0 : Fin 16)].ringEntries = 0 ∧ (posts = true → barrierAt s 0 b.barrier = some (0, 9)) ∧ domainOf s 0 b.barrier = none)
    ∧ copyFail stocked 0 { aBlock false with src := bare } = some 0
    ∧ ({ aCopy false 0 with ended := some (2, 1, 0) } : Copy).ended = some (2, 1, 0)
    ∧ aBarrier.exp ≠ 0 ∧ aBarrier.arr < aBarrier.exp ∧ -(2 ^ 40) ≤ aBarrier.tx - 64 ∧ aBarrier.tx - 64 < 2 ^ 40
    ∧ (barrierPut (copying (aCopy true 2) true) (0, 9) aBarrier).clusters[(0 : Fin 8)].barriers[(9 : Fin 256)] = aBarrier := by decide +kernel

/-- A GATHER block of two rows of 64 bytes, with its indices at byte 0 of the same capability. -/
def aGather : CopyBlock := ⟨BitVec.ofNat 512 (3 + 2 ^ 14 + 1024 * 2 ^ 128 + 2 ^ 192 + 64 * 2 ^ 320), full, full, full⟩

/-- A copy of that block that has read `n` sectors of its first row. -/
def gathering (n : Option Nat) : Copy := { Copy.start 4 aGather 0xFF 0xFF with
  checked := true, row := n.map fun n => (64, List.replicate n ⟨7, false⟩) }

/-- CopiesComplete, of a GATHER: the index of its first row, and the second sector of that row. -/
theorem test_witness_CopiesComplete_gathers : (let b := aGather
    let s := copying (gathering none) false
    let t := copying (gathering (some 1)) false
    s.clusters[(0 : Fin 8)].tongs[(0 : Fin 16)].active = some (gathering none) ∧ isWindow s 0 b = false ∧ (gathering none).ended = none
    ∧ (gathering none).moved < b.units ∧ (gathering none).buf = [] ∧ b.kind = 3 ∧ 32 ≤ b.rowBytes
    ∧ b.idx.holds ((b.indexOff + 4 * 0 : Nat) : Int) 4 = true ∧ (readPhys s 0x100040 4).2 = false
    ∧ b.idx.at ((b.indexOff + 4 * 0 : Nat) : Int) = 64 ∧ bytesServed (bump s) 3 5 64 4 = true
    ∧ locate (bump s) 3 5 64 4 [Right.read] false = (bump s, .phys 0x100040 none) ∧ bankRefuses (bump s) 0x100040 = none
    ∧ b.fromOff + bytesAt s 0x100040 4 * b.rowBytes + b.rowBytes ≤ b.src.len.toNat
    ∧ (gathering (some 1)).row = some (64, [⟨7, false⟩]) ∧ bytesServed (bump t) 3 5 96 32 = true
    ∧ locate (bump t) 3 5 96 32 [Right.read, Right.copy] false = (bump t, .phys 0x100060 none)) :=
  ⟨rfl, by decide +kernel, rfl, by decide +kernel, rfl, by decide +kernel, by decide +kernel, by decide +kernel, by decide +kernel, by decide +kernel
  , by decide +kernel, Prod.ext (test_lookup_same (by decide +kernel : _ = some aLinear) (by decide +kernel) _ _ _ _) (by decide +kernel), by decide +kernel
  , by decide +kernel, rfl, by decide +kernel
  , Prod.ext (test_lookup_same (by decide +kernel : _ = some aLinear) (by decide +kernel) _ _ _ _) (by decide +kernel)⟩

/-- CopiesComplete, of a record: a copy that has ended, whose ring begins at byte 64 of the same object. -/
theorem test_witness_CopiesComplete_records : (let c : Copy := { aCopy false 2 with ended := some (1, 0, 0) }
    let g : Tongs := { Tongs.start with active := some c, ring := full, ringEntries := 4 }
    let s := putTongs stocked 0 0 g
    let off := g.ring.lower.toNat + g.ringOff + 64 * ((c.opNum - 1) % g.ringEntries) + if c.closed = 2 then 32 else 0
    s.clusters[(0 : Fin 8)].tongs[(0 : Fin 16)].active = some c ∧ c.buf = [] ∧ c.kept = false ∧ c.block.posts = false ∧ g.ringEntries ≠ 0
    ∧ ({ c with closed := 2 } : Copy).closed = 2 ∧ off = 256 ∧ bytesServed s 3 5 off 32 = true
    ∧ locate s 3 5 off 32 [Right.write] true = (s, .phys 0x100100 none) ∧ bankRefuses s 0x100100 = none ∧ quarantinedAt s 0x100100 = false) :=
  ⟨rfl, rfl, rfl, by decide +kernel, by decide +kernel, rfl, by decide +kernel, by decide +kernel
  , Prod.ext (test_lookup_same (by decide +kernel : _ = some aLinear) (by decide +kernel) _ _ _ _) (by decide +kernel), by decide +kernel, by decide +kernel⟩

theorem test_witness_ScheduledCopies_task : taskFind (scheduled 1) (getA (scheduled 1) 0).task = some (aTask 7 1 .running)
    ∧ (scheduled 1).clusters[(0 : Fin 8)].tongs[(0 : Fin 16)].active = none
    ∧ cachedCopies (scheduled 1) 0 2 = [] ∧ bytesServed (scheduled 1) 3 full.obj (64 + 64 * 2) 64 = true ∧ groupClosing (scheduled 1) 0 = false := ⟨rfl, rfl, by decide +kernel, by decide +kernel, by decide +kernel⟩

theorem test_witness_ScheduledCopies : (let g := (scheduled 1).clusters[(0 : Fin 8)].tongs[(0 : Fin 16)]
    let r := aTask 7 1 .running
    g.schedule = some [(1, 2)] ∧ g.active.isNone = true ∧ [(1, 2)][g.schedIdx]? = some (1, 2) ∧ 1 ≤ g.released ∧ (getA (scheduled 1) 0).run ≠ .off
    ∧ parkedWhole (scheduled 1) 0 = false
    ∧ (readObj (scheduled 1) r.ctx r.params.obj (r.params.lower.toNat + 64 * 2) 32 [Right.read]).2 = .value 17 false
    ∧ (readObj (scheduled 1) r.ctx r.params.obj (r.params.lower.toNat + 64 * 2 + 32) 32 [Right.read]).2 = .value 0 false ∧ g.ringEntries = 0
    ∧ (readObj { scheduled 1 with poison := [0x8006] } r.ctx r.params.obj (r.params.lower.toNat + 64 * 2) 32 [Right.read]).2 = .value 17 true
    ∧ (mkBlock 17 fun h => grantedCap r h).ok (scheduled 1) 0 = true ∧ (mkBlock 17 fun h => grantedCap r h).kind ≠ 4
    ∧ (scheduled 0).clusters[(0 : Fin 8)].tongs[(0 : Fin 16)].released < 1) := by decide +kernel

theorem test_witness_Residency_late : (9 : Nat) ≤ (getA (benchWith fun x => { x with acnt := 9 }) 0).acnt := by decide

theorem test_witness_Residency : (let e : QEntry := ⟨7, .probe 3 0x10000 9, full, 0x10000, .ar, false⟩
    let o := aPaged
    (∀ k < 5, objFind (paged k) 3 5 = some o ∧ (walkPage (paged k) o 3 5 1 false).map descState = some k) ∧ o.kind = 2 ∧ o.homeKind ≠ 1 ∧ o.capacity = true
    ∧ e.off + 0x10000 ≤ 2 ^ 48 ∧ e.off / 2 ^ o.pageShift ≤ 1 ∧ 1 ≤ (e.off + 0x10000 - 1) / 2 ^ o.pageShift
    ∧ pinsOn (paged 1) 3 5 1 < 65535 ∧ pinsBy (paged 1) 7 + (pagesOf o e.off 0x10000).length ≤ 65536
    ∧ [⟨7, 3, 5, 1, 2⟩].filter (fun r : Pin => r.onPage 7 3 5 1) = [⟨7, 3, 5, 1, 2⟩] ∧ (⟨7, 3, 5, 1, 2⟩ : Pin).count ≠ 0
    ∧ pinsOn (paged 1) 3 5 0 = 0 ∧ (walkPage (paged 1) o 3 5 0 false).map (fun w => (descState w, w.getLsbD 1)) = some (1, true)) := by decide

theorem test_witness_Translations : cached (paged 1) 3 5 1 = none ∧ objFind bench 3 5 = none
    ∧ walkServed (paged 1) 3 5 aPaged 0x10000 = true ∧ supervisorReady (paged 1) = true
    ∧ (let e : ObjEntry := ⟨2, false, none, none, false⟩
      objFind { bench with objs := [(objKey 3 5, e)] } 3 5 = some e ∧ e.kind = 2 ∧ walkPage { bench with poison := [0] } e 3 5 1 true = none
      ∧ (walkPage bench e 3 5 1 true).map descState = some 0)
    ∧ (ownCtx bench 3 5, (5 : BitVec 24), 2) ≠ (ownCtx bench 3 5, 5, 1) := by decide

/-- A page whose object does not use routine 0, in a table of its own context's. -/
theorem test_witness_Placed (k : Nat) (l : List Nat) : (paged k).Placed aPaged 3 5 1 l :=
  ⟨rfl, fun _ h => absurd h (by decide)⟩

theorem test_witness_PageMoves : (residentPage (paged 1) 3 5 1).map (fun e => descPkg e.2) = some (paged 1).pkgnum.toNat ∧ supervisorReady (paged 1) = true ∧ baseOk (paged 1) aPaged 0x300000 = true ∧ moveOf (paged 1) 3 5 1 = none
    ∧ aPaged.routine ≠ 0
    ∧ (moving { paged 3 with moves := [aMove 1 (some 5)] } 3 5 1).map (fun e => e.2.2) = some (aMove 1 (some 5)) ∧ 32 * (5 + 1) < 2 ^ aPaged.pageShift
    ∧ quarantinedAt (paged 3) (0x300000 + 32 * 5) = false ∧ 2 ^ aPaged.pageShift ≤ 32 * (2047 + 1) ∧ (aMove 1 (some 2047)).held = []
    ∧ (moving { paged 2 with moves := [aMove 1 none] } 3 5 1).map (fun e => e.2.2) = some (aMove 1 none) ∧ staging (paged 2) 3 5 1 = false
    ∧ (aMove 1 none).pkg = (paged 2).pkgnum ∧ (aMove 1 none).home = (paged 2).pkgnum ∧ Memory.wf (paged 2).mem = true := by decide

theorem test_witness_CapacityPages : (let s : State := { paged 0 with stageJobs := [⟨3, 5, 1⟩], evictJobs := [⟨3, 5, 0⟩], backing := [(pageKey 3 5 1, ⟨[(17, 9)], []⟩)] }
    objFind s 3 5 = some aPaged ∧ aPaged.kind = 2 ∧ nextStaged s 3 5 1 = true ∧ aPaged.routine ≠ 0 ∧ baseOk s aPaged 0x300000 = true
    ∧ (walkPage s aPaged 3 5 1 false).map descState = some 0 ∧ moveOf s 3 5 1 = none
    ∧ (tableGet s.backing (pageKey 3 5 1) ⟨[], []⟩).bytes.filter (fun r => r.1 = 17) = [(17, 9)]
    ∧ (tableGet s.backing (pageKey 3 5 1) ⟨[], []⟩).bytes.filter (fun r => r.1 = 18) = []
    ∧ (residentPage s 3 5 0).map (fun e => descPkg e.2) = some s.pkgnum.toNat ∧ ⟨3, 5, 0⟩ ∈ s.evictJobs ∧ pinsOn s 3 5 0 = 0) := by decide

theorem test_witness_SlicesAndQuarantine : sliceOf bench (64 * 5) = some ((0 : Fin 8).val, 5)
    ∧ tableFind bench.clusters[(0 : Fin 8)].lines 5 = none
    ∧ tableFind (touchLine bench (64 * 5) true false).clusters[(0 : Fin 8)].lines 5 = some true
    ∧ tableFind (touchLine bench (64 * 5) false false).clusters[(0 : Fin 8)].lines 5 ≠ some true
    ∧ (3 ∈ ({ bench with toQuarantine := [3] } : State).toQuarantine) ∧ 3 < 2 ^ 24 ∧ (0 : Fin 16).val = 3 / 2 ^ 20 ∧ bench.objs = [] ∧ bench.port.objs = [] ∧ supervisorReady bench = true
    ∧ bench.stackCtl[(0 : Fin 16)].quarantined.length < 256 := by decide

theorem test_witness_SlicesAndQuarantine_full : (let s : State := { bench with stackCtl := bench.stackCtl.set 0 ⟨List.replicate 256 0, [], [], 0, [], [], [], []⟩ }
    256 ≤ s.stackCtl[(0 : Fin 16)].quarantined.length) := Nat.le_of_eq (List.length_replicate (n := 256) (a := 0)).symm

/-- A miss that waits for its fill, and one behind a write-back of its line. -/
theorem test_witness_Slices_misses : (let s : State := updC bench 0 fun y => { y with misses := [⟨5, 5, some 3⟩, ⟨6, 6, none⟩], writeBacks := [⟨5, 5, none⟩] }
    let x := s.clusters[(0 : Fin 8)]
    tableFind x.lines 5 = none ∧ x.misses.find? (fun e => e.line = 7) = none ∧ x.misses.find? (fun e => e.line = 5) = some ⟨5, 5, some 3⟩
    ∧ (∃ w ∈ x.writeBacks, w.line = 5) ∧ (∀ w ∈ x.writeBacks, w.line ≠ 6)) := by decide


/-! ### Witnesses of the hypotheses of the statements about traps and tasks -/

/-- A slot trap of a user cause in slot 2, and one of the schedule class. -/
def aSlotTrap (c : Cause) : SlotTrap := ⟨c, 0x1409, 3, 2, 0x40, 0x60⟩

/-- A task of one array whose trap table names a handler for schedule and for user traps. -/
def handled (st : TaskState) : Task := { aTask 7 1 st with record := ⟨BitVec.ofNat 2048 (2 ^ 64 + 3 * 2 ^ 608 + 5 * 2 ^ 704), 0, [], [], []⟩ }

theorem test_witness_TrapEntry_task : taskFind { bench with tasks := [handled .running] } (getA bench 0).task = some (handled .running) := rfl

theorem test_witness_TrapEntry : (getA bench 0).run = .boundary ∧ (getA bench 0).gap = 0 ∧ (getA bench 0).handler = false
    ∧ (aSlotTrap .user).cause.key = some 6 ∧ (aSlotTrap .user).cause.cls = .inTask
    ∧ bits (handled .running).record.header.toNat (512 + 32 * 6) 32 ≠ 0 ∧ bits (handled .running).record.header.toNat (512 + 32 * 3) 32 ≠ 0
    ∧ (aSlotTrap .schedule).cause.key = some 3 ∧ (aSlotTrap .schedule).detail.toNat % 256 ≠ 8 ∧ (aSlotTrap .user).resume < 8
    ∧ (aSlotTrap .schedule).cause.prio ≤ Cause.overdue.prio ∧ (getA bench 0).slotTrap = none ∧ (getA bench 0).resume < 8
    ∧ (getA bench 0).ending = none := by decide +kernel

theorem test_witness_CancelsAndErrors : (let x := getA (benchWith fun x => { x with retLeft := 0 }) 0
    x.retIv ≠ 0 ∧ x.retLeft = 0 ∧ x.run = .boundary ∧ x.kind = .cluster ∧ x.phDirty = false ∧ x.cancels < 2 ∧ x.traps = [] ∧ x.gap = 0)
    ∧ (getA bench 0).retLeft ≠ 0 ∧ (getA (benchWith fun x => { x with run := .rolling }) 0).run = .rolling
    ∧ rollbackReady (benchWith fun x => { x with run := .rolling }) 0 = true := by decide

/-- A launch record of one array whose program is object 5 of the context, and the entry of a queue that names it. -/
def recorded : State := { bench with
  objs := [(objKey 3 5, aLinear)], contexts := [(3, ⟨0, true, 16, 0, 0, 0⟩)]
  mem := Memory.writeN (Memory.writeN (Memory.writeN [] 0x8000 256 (1 + 576 * 2 ^ 32 + 2 ^ 64 + 2 ^ 120 + 4096 * 2 ^ 800))
    0x8200 32 (7 * 2 ^ 24 + 2 ^ 96 + 5 * 2 ^ 112 + 4096 * 2 ^ 160)) 0x9000 64 (0x8000 * 2 ^ 64)
  queues := bench.queues.set 3 ⟨0x9000, BitVec.ofNat 32 (4 + 3 * 2 ^ 16 + 2 ^ 28 + 2 ^ 31), 0, 1, 0⟩
  deviceQueue := [⟨.object 3 5 0x40, 3, 1, ⟨0, 0, [], [], []⟩, true⟩] }

/-- The record there, and the same as a `TLAUNCH` hands it over. -/
def theRecord : Record := readRecord (memoryFrom recorded 0x8000)
def handedOver : DeviceLaunch := ⟨.object 3 5 0x40, 3, 1, theRecord, true⟩

theorem test_witness_Submission : queueReady recorded 3 = true ∧ cpReady recorded = true
    ∧ (let e := bytesAt recorded 0x9000 64
      e % 2 ^ 64 / 2 = 0 ∧ e / 2 ^ 128 = 0 ∧ bits e 64 64 = 0x8000 ∧ physOk 0x8000 = true ∧ poisonAt recorded 0x9000 64 = false)
    ∧ quarantinedAt recorded 0x9000 = false ∧ reasonOf recorded 3 false theRecord (soundAt recorded 0x8000 theRecord) = 0
    ∧ reasonOf { recorded with deviceQueue := [] } handedOver.ctx true handedOver.record handedOver.sound = 0
    ∧ poisonAt { recorded with poison := [0x480] } 0x9000 64 = true := by decide +kernel

theorem test_witness_Submission_signal : signalFrom (asked (.evSig 9) 0) 3 9 = some (0, 7) ∧ (∀ e ∈ stocked.events, e.freed = false) := by decide

theorem test_witness_Submission_late : (let w : Event := ⟨3, 9, true, [], [], [7], false⟩
    let s : State := { stocked with events := [w] }
    signalFrom s 3 9 = none ∧ eventFind s 3 9 = some w ∧ w.leaving = [7]) := by decide

/-- `bench` with tasks, where the command processor, the governor and cluster 0 alone are in service. -/
def tasked (l : List Task) (f : Arr → Arr) : State := { benchWith f with tasks := l, ready := BitVec.ofNat 64 (1 + 2 ^ 16 + 2 ^ 44 + 2 ^ 46) }

/-- A task of `n` arrays that is on no array. -/
def waitingTask (tid : BitVec 32) (prio n : Nat) (st : TaskState) : Task := { aTask tid prio st with
  arrs := [], record := ⟨BitVec.ofNat 2048 (n * 2 ^ 64), 0, [], [], []⟩ }

theorem test_witness_TaskLife : stagingReady (tasked [waitingTask 9 1 1 .staging] id) (waitingTask 9 1 1 .staging) = true
    ∧ placeOk (tasked [waitingTask 9 1 1 .ready] id) 9 [1] = true
    ∧ (handled .running).arrs.all (memberDone (tasked [handled .running] fun x => { x with run := .ended })) = true
    ∧ (handled .running).recAddr = .phys 0x8000 ∧ bench.moves = [] ∧ bench.port.moves = [] ∧ quarantinedAt bench ((0x8000#48).toNat + 16) = false := by decide +kernel

theorem test_witness_TaskLife_found : taskFind (tasked [waitingTask 9 1 1 .ready] id) 9 = some (waitingTask 9 1 1 .ready) := rfl

/-- A parked array's task that is asked to leave. -/
def leaving : Task := { handled .running with preempt := some 9 }

/-- The image of a member whose chunks are all zero, and a save area that holds it. -/
def anImage : Image := ⟨1, 0, 0, 0, 0, [], [], [], [], [], Arr.start⟩
def anArea : SaveArea := ⟨3, 9, 77, [0x200000], [anImage]⟩

theorem test_witness_Switching : preemptDue (tasked [handled .running, waitingTask 9 2 4 .ready] id) 7 9 = true
    ∧ preemptDue (tasked [handled .running] id) 7 9 = false
    ∧ switchDue (tasked [handled .running, waitingTask 9 1 4 .ready] id) (handled .running) = true
    ∧ saveDue (tasked [leaving] fun x => { x with run := .parked }) leaving = true
    ∧ areaFree (tasked [leaving] fun x => { x with run := .parked }) 0x200000 leaving.record.arrays = true
    ∧ (let s : State := { tasked [waitingTask 9 1 1 .saved] id with saveAreas := [anArea] }
      placeOk s 9 [1] = true ∧ areaOf s (waitingTask 9 1 1 .saved) = some anArea ∧ chunkWritten (waitingTask 9 1 1 .saved) 0 645 = true)
    ∧ anArea.images.length = [(1 : Fin 32)].length ∧ anArea.bases.length = [(1 : Fin 32)].length ∧ (∀ i ∈ anArea.images, i.hPoison = []) := by
  decide +kernel

/-- R373: the touchmark of a payload of zeros. -/
theorem touchmark_zero (f : Nat) : touchmark f 0 = 0 := by
  have hv (w : Nat) : chunkVal f (bits 0 w (chunkWidth f)) = 0 := by
    have := Nat.two_pow_pos (chunkWidth f - 1)
    simp_all [chunkVal, bits, signed]
  have hs (l : List Nat) : l.foldl (fun (t : Nat × Nat) i =>
      let v := chunkVal f (bits 0 (chunkWidth f * i) (chunkWidth f))
      ((t.1 + v) % markPrime, (t.2 + (0 + i + 1) * v) % markPrime)) (0, 0) = (0, 0) := by
    induction l with
    | nil => rfl
    | cons i l ih => simpa [hv] using ih
  rw [touchmark, markSums, hs]; rfl

/-- A part whose memory is empty, with a saved task whose image there is all zero. -/
def parkedTask : State := { tasked [waitingTask 9 1 1 .saved] id with saveAreas := [anArea] }

theorem test_empty_bytes (a n : Nat) : bytesAt parkedTask a n = 0 := by
  have r : ∀ n a, Memory.readN parkedTask.mem a n = 0 := by
    intro n
    induction n with
    | zero => intro a; rfl
    | succ n ih => intro a; rw [Memory.readN, ih]; rfl
  have f : ∀ n a, fillBytes parkedTask a n = 0 := by
    intro n
    induction n with
    | zero => intro a; rfl
    | succ n ih => intro a; rw [fillBytes, ih, show parkedTask.fills = [] from rfl]; simp [tableFind]
  rw [bytesAt, r, f]; rfl

theorem test_zero_sum (l : List Nat) (f : Nat → Nat) (h : ∀ x, f x = 0) : (l.map f).sum = 0 := by
  induction l with
  | nil => rfl
  | cons x l ih => simp [h, ih]

theorem test_zero_chunk (k : Nat) : anImage.chunk k = 0 := by
  have c : Cell.start.pack = 0 := by decide +kernel
  have z (n : Nat) : sectionChunk 0 n = 0 := by simp only [sectionChunk, Nat.zero_div, Nat.zero_mod]
  have e (lo : Nat) : cellsChunk [] lo = 0 := by
    rw [cellsChunk, packAt, List.map_map]
    exact test_zero_sum _ _ fun x => by simp [tableGet, tableFind, c, byteFld, bits]
  have w (k : Nat) : packAt ((List.range 128).map fun w => (32 * w, tableGet ([] : List (Nat × Nat)) (512 * ((128 * (k - 646) + w) / 256) + (128 * (k - 646) + w) % 256) 0)) = 0 := by
    rw [packAt, List.map_map]
    exact test_zero_sum _ _ fun x => by simp [tableGet, tableFind]
  unfold Image.chunk
  simp only [anImage, z, e, w]
  repeat' split
  all_goals first | exact test_zero_sum _ _ fun x => rfl | rfl

theorem test_clean_page (a : Nat) : (readPhys parkedTask a 32).2 = false := by
  have k : vget parkedTask.stackCtl (stackOf a) = ⟨[], [], [], 0, [], [], [], []⟩ := by
    unfold vget
    exact Vector.getElem_replicate ..
  have p : parkedTask.poison = [] := rfl
  have q : parkedTask.toQuarantine = [] := rfl
  simp [readPhys, poisonAt, quarantinedAt, k, p, q, hasNat]

theorem test_zero_lanes (w : Nat) (l : List Nat) (f : Nat → Nat) (h : ∀ x, f x = 0) : packLanes w (l.map f) = 0 := by
  induction l with
  | nil => rfl
  | cons x l ih => simp [packLanes, h, ih]

theorem test_zero_mark (h : Header) (m : h.mark = 0) : h.pack / 2 ^ 64 % 2 ^ 64 = 0 := by
  have := h.chunkId.isLt
  have o : (0 : BitVec 64).toNat = 0 := rfl
  rw [Header.pack, m, o]
  omega

theorem test_verifies {i : Image} {tid : BitVec 32} {k payload : Nat} {h : Header} (e : i.header tid k = h)
    (mark : BitVec.ofNat 64 (h.pack / 2 ^ 64) = touchmark 9 payload)
    (same : h.pack = h.pack - h.mark.toNat * 2 ^ 64 + bits h.pack 64 64 * 2 ^ 64) (f : payload &&& chunkFields k = payload) :
    verifyRead i tid k payload h.pack = none := by
  unfold verifyRead
  subst e
  simp only [if_neg fun n : ¬_ => n mark, if_neg fun n : ¬_ => n same, if_neg fun n : ¬_ => n f]

theorem test_zero_verifies (k : Nat) (h : Header) (e : anImage.header 9 k = h) (m : h.mark = 0) :
    verifyRead anImage 9 k 0 h.pack = none := by
  have w := test_zero_mark h m
  have z : BitVec.ofNat 64 (h.pack / 2 ^ 64) = 0 := BitVec.eq_of_toNat_eq (by rw [BitVec.toNat_ofNat, w]; rfl)
  have y : bits h.pack 64 64 = 0 := w
  have o : (0 : BitVec 64).toNat = 0 := rfl
  exact test_verifies e (z.trans (touchmark_zero 9).symm)
    (by rw [m, o, y, Nat.zero_mul, Nat.sub_zero, Nat.add_zero]) (Nat.zero_and _)

theorem test_zero_header (k : Nat) : (anImage.header 9 k).mark = 0 := by
  unfold Image.header
  rw [test_zero_chunk, touchmark_zero]

theorem test_zero_read (k : Nat) : readFault parkedTask (waitingTask 9 1 1 .saved) 0 0x200000 anImage k none = none := by
  have h : (headerNow parkedTask (0x200000 + 4096 * k)).getD (anImage.header 9 k) = anImage.header 9 k := rfl
  have b (l : List Nat) : sectorBytes parkedTask l = 0 := test_zero_lanes _ _ _ fun _ => test_empty_bytes _ _
  have p (l : List Nat) : sectorsPoisoned parkedTask l = false := List.any_eq_false.2 fun a _ => by simp [test_clean_page a]
  have n : (anImage.header 9 k).lost = false := rfl
  have t : (waitingTask 9 1 1 .saved).tid = 9 := rfl
  unfold readFault
  simp only [t, h, b, p, n, test_zero_verifies k _ rfl (test_zero_header k), Bool.or_false, Bool.false_eq_true, if_false, ite_self]

theorem test_restores {s : State} {t : Task} {r : SaveArea} (h : ∀ m ∈ (List.range r.images.length).zip (r.bases.zip r.images), ∀ k,
    readFault s t m.1 m.2.1 m.2.2 k none = none) : restoreFault s t r [] = none := by
  have pass : ((List.range r.images.length).zip (r.bases.zip r.images)).findSome? (fun m =>
      (List.range 10438).findSome? fun k => readFault s t m.1 m.2.1 m.2.2 k none) = none :=
    List.findSome?_eq_none_iff.2 fun m hm => List.findSome?_eq_none_iff.2 fun k _ => h m hm k
  unfold restoreFault
  exact (congrArg (Option.or · _) pass).trans pass

/-- Switching: every chunk of that image verifies. -/
theorem test_witness_Switching_restore : restoreFault parkedTask (waitingTask 9 1 1 .saved) anArea [] = none :=
  test_restores fun m h k => by
    have e : m = (0, 0x200000, anImage) := List.mem_singleton.1 h
    subst e
    exact test_zero_read k

/-! ### Witnesses of the hypotheses of the statements about power, packages and the host -/

/-- A leave request of array 0 for class 2. -/
def aLeave : LeaveReq := ⟨1, 0, [0], 2, 100, []⟩

/-- `bench` with that request, where die 0 may draw 544 A and arrays 1 to 4 stand at class 2 under a lease of level 3. -/
def powered (claimed : Nat) : State :=
  let s : State := { bench with power := { bench.power with
    requests := [aLeave], ceil := Vector.replicate 4 544, leases := [⟨7, [0, 1], 3, 0, 10⟩] } }
  (List.finRange 32).foldl (fun s a => if 1 ≤ a.val ∧ a.val ≤ claimed then
    updA s a fun x => { x with leaveClass := 2, leaveLeft := 5 } else s) s

theorem test_witness_LeaveAndLeases : nextRequest (powered 2) 0 = some aLeave ∧ governorReady (powered 2) = true
    ∧ (budgetAlone (powered 4) aLeave).holds = true ∧ (budgetWith (powered 2) aLeave 0).holds = true
    ∧ (∀ b ∈ aLeave.arrs, dieOf b = 0) ∧ (budgetWith (powered 4) aLeave 0).holds = false
    ∧ (getA bench 0).leaveLeft = 0 ∧ (getA (powered 2) 1).leaveLeft ≠ 0
    ∧ (getA (benchWith fun x => { x with sprints := [⟨3, 1, 100, 256, 4⟩] }) 0).sprints = [⟨3, 1, 100, 256, 4⟩]
    ∧ leaseOf (powered 2) 7 = some ⟨7, [0, 1], 3, 0, 10⟩ ∧ ¬ 0 + 10 * 1000000 ≤ (powered 2).ptime
    ∧ 0 + 0 * 1000000 ≤ (powered 2).ptime := by decide +kernel

theorem test_witness_LeaveAndLeases_found : taskFind (tasked [handled .running] id) 7 = some (handled .running) := rfl

/-- HeatAndAlarms: 2,400 W leaves `MELT` below 1,000, and takes it past 1,000 from 999; a refreeze interval that is over, and
one that is not. -/
theorem test_witness_HeatAndAlarms : (let m (melt : BitVec 10) (acc : Int) : Int := (melt.toNat : Int) + (acc + 400 * 100) / 50781250 + max (-8) (min 8 1)
      0 ≤ m 300 0 ∧ m 300 0 < 1000 ∧ 1000 ≤ m 999 50781249 ∧ m 999 50781249 ≤ 1023)
    ∧ (let s : State := { bench with ptime := 30000000000, power := { bench.power with melt := 256, refreeze := some 5000 } }
      s.power.refreeze = some 5000 ∧ s.power.melt.toNat ≤ s.refthr.toNat ∧ 5000 + 20 * 10 ^ 9 ≤ s.ptime
        ∧ (∀ j : Fin 8, s.power.lid[j] < 75) ∧ 25 ≤ s.power.flow ∧ ¬ (257#10).toNat ≤ s.refthr.toNat) := by decide

/-- A domain barrier whose home is package 0, where packages 1 and 2 have not arrived. -/
def aDomain : DomainBarrier := ⟨5, 7, 9, 0, 3, 3, [0], [], [], false, true, false, 1, 0⟩

/-- The task that is its local member, on array 0, with its local object in cluster 0. -/
def homed (d : DomainBarrier) : State := { barrierPut bench (0, 9) { aBarrier with sent := true } with
  tasks := [handled .running], domain := [d] }

theorem test_witness_DomainBarriers : aDomain.home = (homed aDomain).pkgnum ∧ (1 : BitVec 10) ≠ (homed aDomain).pkgnum ∧ 1 ∉ aDomain.arrived
    ∧ aDomain.arrived.length + 1 < aDomain.expected ∧ ({ aDomain with arrived := [0, 2] } : DomainBarrier).arrived.length + 1 = aDomain.expected
    ∧ aDomain.absent = [] ∧ ({ aDomain with absent := [1] } : DomainBarrier).absent = [1] ∧ 0 ∈ aDomain.arrived ∧ aDomain.arrived.length < aDomain.expected
    ∧ ({ aDomain with arrived := [0, 1, 2] } : DomainBarrier).arrived.length = aDomain.expected ∧ aDomain.expected ≠ 0 ∧ 1 ∉ aDomain.dropped
    ∧ localOf (homed { aDomain with completing := true }) { aDomain with completing := true } = some (0, 9)
    ∧ (homed aDomain).clusters[(0 : Fin 8)].barriers[(9 : Fin 256)].sent = true ∧ aDomain.timeout ≠ 0 ∧ bench.domain = [] ∧ (2 : Nat) ≤ (2#11).toNat
    ∧ aDomain.since + 1000 * aDomain.timeout.toNat ≤ (homed aDomain).ptime
    ∧ (homed aDomain).ptime < ({ aDomain with since := 4500 } : DomainBarrier).since + 1000 * aDomain.timeout.toNat := by decide +kernel

/-- A reduction group of two packages, of which `p` is the first. -/
def aGroup (p : BitVec 10) : RedGroup := ⟨9, 0, 0, 1, [(p, 3, 5), (2, 0, 0)], [], [], []⟩

/-- A contribution of package 1, and a result that two landing ports wait for. -/
def aContribution : Contribution := ⟨1, 0, 0, false, touchmark 16 0, 0, 0, 0⟩
def aResult (mark : BitVec 64) : SentResult := ⟨0, 0, false, mark, false, [], 0⟩

/-- `stocked` with a group of this package, ports up, and context 3 known to the host as 40. -/
def linked : State := { stocked with
  groups := [{ aGroup 0 with sent := [aResult 1] }], ports := Vector.replicate 16 ⟨true, 0, [], 0⟩
  contexts := [(3, ⟨40, true, 16, 0, 0, 0⟩)], reports := [⟨1, 3, 0, 0, 0, 0, 0, 0, 0, 0, none⟩] }

theorem test_witness_PackageLinks : aContribution.pkg ≠ linked.pkgnum ∧ aContribution.chunk < (aGroup 1).chunks
    ∧ (∃ m ∈ (aGroup 1).members, m.1 = aContribution.pkg) ∧ touchmark 16 aContribution.payload.toNat = aContribution.mark
    ∧ (aGroup 1).sent = [] ∧ (∀ d ∈ (aGroup 1).open', d.pkg ≠ aContribution.pkg)
    ∧ (∃ m ∈ (aGroup 1).members, m.1 ≠ aContribution.pkg ∧ ∀ d ∈ (aGroup 1).open', d.pkg ≠ m.1) :=
  ⟨by decide +kernel, by decide +kernel, ⟨(1, 3, 5), by decide, by decide +kernel⟩, congrArg (touchmark 16) BitVec.toNat_zero, by decide, by decide, ⟨(2, 0, 0), by decide, by decide +kernel, by decide⟩⟩

theorem test_witness_PackageLinks_results : memberHere linked (aGroup 0) = some (3, 5) ∧ linked.pkgnum ∉ (aResult 1).acks ∧ linked.ports[(0 : Fin 16)].up = true
    ∧ touchmark 16 (0 : BitVec 32768).toNat ≠ (aResult 1).mark ∧ objFind linked 3 5 = some aLinear
    ∧ (∀ (cl : Fin 8) (tc : Fin 16), linked.clusters[cl].tongs[tc].active = none)
    ∧ (∀ m ∈ (aGroup 0).members, m.1 ∈ ({ aResult 1 with acks := [0, 2] } : SentResult).acks)
    ∧ (2 : BitVec 10) ≠ linked.pkgnum ∧ (aGroup 0).members.any (fun m => m.1 = 2) = true ∧ (aGroup 0).members.any (fun m => !(aResult 1).acks.contains m.1) = true ∧ (aGroup 0).members ≠ [] ∧ cpReady linked = true
    ∧ linked.reports[0]? = some ⟨1, 3, 0, 0, 0, 0, 0, 0, 0, 0, none⟩ := by
  refine ⟨by decide +kernel, by decide +kernel, by decide +kernel, ?_, by decide +kernel, by decide +kernel, by simp [aGroup], by decide +kernel,
    by decide +kernel, by decide +kernel, by decide +kernel, by decide +kernel, by decide +kernel⟩
  rw [show (0 : BitVec 32768).toNat = 0 from BitVec.toNat_zero, touchmark_zero]; decide

/-- PackageLinks: a report of a result, one of a producer that runs and may run again, and the ring of their context. -/
theorem test_witness_PackageLinks_reports : (let q : Report := ⟨1, 3, 7, 0, 0, 0, 0, 0, 0, 0, none⟩
    let x : Context := ⟨40, true, 16, 0x9000, 4, 0⟩
    let tk : Task := { aTask 7 1 .running with record := ⟨2 ^ 68, 0, [], [], []⟩ }
    let s : State := { linked with contexts := [(3, x)], reports := [q, { q with kind := 2 }], tasks := [tk] }
    let at' := x.ring.toNat + 64 * (x.written % x.entries.toNat)
    s.reports[0]? = some q ∧ s.reports[1]? = some { q with kind := 2 } ∧ taskFind s q.producer = some tk ∧ tk.state = .running
    ∧ tk.record.rerunnable = true ∧ tk.reruns < 3 ∧ (aTask 7 1 .running).record.rerunnable = false
    ∧ tableFind s.contexts q.ctx.toNat = some x ∧ x.entries ≠ 0 ∧ s.moves = [] ∧ s.port.moves = []
    ∧ quarantinedAt s at' = false ∧ quarantinedAt s (at' + 32) = false) := by decide +kernel

/-- PackageLinks: an object of the link port's table, of domain context 40. -/
theorem test_witness_PackageLinks_port : (let s : State := { linked with port := { linked.port with objs := [(objKey 40 5, aLinear)] } }
    (tableFind s.port.objs (objKey 40 5)).isSome = true ∧ (tableFind linked.port.objs (objKey 40 5)).isSome = false
    ∧ holdRemote (swapPort s) 40 ⟨0, .req, 40, 5, 0x40, 3, false, false, .store 7 false, 0, .clean⟩ = none
    ∧ (locate (swapPort s) 40 5 0x40 (2 ^ 3) [Right.write] true).2 = .phys 0x100040 none
    ∧ holdRemote linked 3 ⟨0, .req, 40, 5, 0x40, 3, false, false, .store 7 false, 0, .clean⟩ = none
    ∧ (0 : BitVec 10) = linked.pkgnum ∧ (1 : BitVec 10) ≠ linked.pkgnum ∧ bytesServed linked 3 5 0x40 (2 ^ 3) = true) := by decide

theorem test_witness_PackageLinks_store : domainContext linked 40 = some 3 ∧ (0x40#48).toNat % 2 ^ 3 = 0 ∧ (∃ q : Fin 16, linked.ports[q].up = true)
    ∧ (let t := { linked with freeCtr := linked.freeCtr + 1 }
      locate t 3 5 0x40 (2 ^ 3) [Right.write] true = (t, .phys 0x100040 none) ∧ bankRefuses t 0x100040 = none ∧ quarantinedAt t 0x100040 = false)
    ∧ domainContext linked 41 = none :=
  ⟨by decide, by decide, ⟨0, by decide⟩, ⟨Prod.ext (test_lookup_same (by decide : _ = some aLinear) (by decide) 0x40 8 [Right.write] true) (by decide)
    , by decide, by decide⟩, by decide⟩

/-- A LINEAR object of context 4,095 whose extent list, of one entry, lies at byte 0x8000. -/
def aHosted : ObjEntry := ⟨BitVec.ofNat 256 (1 + 0xFF * 2 ^ 96 + 0x8000 * 2 ^ 112 + 0x10000 * 2 ^ 160), true, none, none, false⟩

/-- `bench` with that object and its list, and queue 3 enabled with 16 entries. -/
def hosted : State := { bench with
  objs := [(objKey 4095 5, aHosted)], mem := Memory.writeN [] 0x8000 16 (0x10000 + 0x100000 * 2 ^ 48 + 2 ^ 127)
  queues := bench.queues.set 3 ⟨0x9000, 0x80000004, 0, 1, 0⟩, linken := 3, ports := bench.ports.set 1 ⟨true, 0, [], 0⟩ }

theorem test_witness_HostWrites : (let u := (writeObj hosted 4095 5 0x40 32 [Right.write] 7 false 0).1
    hostObject hosted 0x100040 Right.write = some (5, 0x40) ∧ locate hosted 4095 5 0x40 32 [Right.write] true = (hosted, .phys 0x100040 none)
    ∧ bankRefuses hosted 0x100040 = none ∧ quarantinedAt hosted 0x100040 = false
    ∧ locate u 4095 5 0x60 32 [Right.write] true = (u, .phys 0x100060 none) ∧ bankRefuses u 0x100060 = none ∧ quarantinedAt u 0x100060 = false
    ∧ hostObject hosted 0x200000 Right.read = none ∧ hosted.hostPort = [] ∧ hostLinkUp hosted = true ∧ bytesServed hosted 4095 5 0x40 64 = true
    ∧ hostObject hosted 0x100040 Right.read = some (5, 0x40)
    ∧ (readObj hosted 4095 5 0x40 32 [Right.read]).2 = .value 0 false
    ∧ (readObj (readObj hosted 4095 5 0x40 32 [Right.read]).1 4095 5 0x60 32 [Right.read]).2 = .value 0 false) :=
  ⟨by decide +kernel, Prod.ext (test_lookup_same (by decide : _ = some aHosted) (by decide) _ _ _ _) (by decide +kernel), by decide +kernel
  , by decide +kernel, Prod.ext (test_lookup_same (by decide +kernel : _ = some aHosted) (by decide) _ _ _ _) (by decide +kernel), by decide +kernel
  , by decide +kernel, by decide +kernel, rfl, by decide +kernel, by decide +kernel, by decide +kernel, by decide +kernel, by decide +kernel⟩

theorem test_witness_HostOrder : ({ bench with hostPort := [.resend 5 0 none] } : State).hostPort = .resend 5 0 none :: []
    ∧ hostLinkUp bench = true ∧ hostLinkUp { bench with ucie := 0 } = false := by decide

theorem test_witness_HostWrites_registers : hosted.queues[(3 : Fin 64)].cfg.getLsbD 31 = true ∧ hosted.queues[(0 : Fin 64)].cfg.getLsbD 31 = false
    ∧ (0x80000004#64).getLsbD 31 = true ∧ (4#64).getLsbD 31 = false ∧ 13 ≤ (0x8000000D#64).toNat % 16 ∧ (4#64).toNat % 16 ≤ 12
    ∧ (∀ x ∈ hosted.events, x.freed = false) ∧ hosted.linken.getLsbD 1 = true
    ∧ (1#32).getLsbD 1 = false ∧ (2#32).getLsbD 1 = true ∧ (0x7E7#64).toNat % 2 ^ 10 ≤ 999 ∧ 999 < (1000#64).toNat % 2 ^ 10 ∧ bench.linken = 0 ∧ hosted.linken ≠ 0 := by
  decide

/-- `linked` with a management command due, two group members at byte 0x8000 and an extent list at byte 0x8100. -/
def managed (cmd : Nat) : State := { linked with
  mgmtStatus := 1, command := BitVec.ofNat 512 cmd, mem := Memory.writeN (Memory.writeN [] 0x8000 16 (1 + 2 * 2 ^ 64)) 0x8100 16 (4096 + 0x100000 * 2 ^ 48 + 2 ^ 127) }

/-- Bytes `k` to `k + n - 1` of a command. -/
def operand (c k n : Nat) : Nat := (managed c).command.toNat / 2 ^ (8 * k) % 2 ^ (8 * n)

/-- A command of each code. -/
def create : Nat := 1 + 3 * 2 ^ 64 + (1 + 0xFF * 2 ^ 96 + 0x8100 * 2 ^ 112 + 4096 * 2 ^ 160) * 2 ^ 128
def destroy : Nat := 2 + 3 * 2 ^ 64 + 5 * 2 ^ 128
def register : Nat := 4 + 8 * 2 ^ 64 + 2 ^ 160 + 2 * 2 ^ 192 + 0x8000 * 2 ^ 256
def release : Nat := 5 + 9 * 2 ^ 64
def report : Nat := 7 + 0x10000 * 2 ^ 320

theorem test_witness_ManagementCommands : cpReady (managed create) = true ∧ (managed create).mgmtStatus.getLsbD 0 = true
    ∧ operand create 0 1 = 1 ∧ operand create 8 8 < 4096
    ∧ hostEntryOk (managed create) (BitVec.ofNat 256 (operand create 16 32)) = true ∧ (managed create).command.getLsbD 8 = false
    ∧ hostQuotaOk (managed create) 3 (BitVec.ofNat 256 (operand create 16 32)) = true ∧ (usedIds (managed create) 3).length < 2 ^ 24 := by decide +kernel

/-- The same of a MARKED object in a context with no quota. -/
def createMarked : Nat := create + 2 ^ 8 * 2 ^ 128

theorem test_witness_ManagementCommands_quota : hostEntryOk (managed createMarked) (BitVec.ofNat 256 (operand createMarked 16 32)) = true
    ∧ hostQuotaOk { managed createMarked with contexts := [(3, ⟨40, true, 0, 0, 0, 0⟩)] } 3 (BitVec.ofNat 256 (operand createMarked 16 32)) = false := by decide +kernel

theorem test_witness_ManagementCommands_destroy : operand destroy 0 1 = 2 ∧ operand destroy 16 8 < 2 ^ 24
    ∧ (objFind (managed destroy) 3 (BitVec.ofNat 24 (operand destroy 16 8))).isSome = true := by decide +kernel

theorem test_witness_ManagementCommands_register : operand register 0 1 = 4 ∧ operand register 11 1 < 16
    ∧ 1 ≤ operand register 20 4 ∧ operand register 20 4 ≤ 2 ^ 24 ∧ 2 ≤ operand register 24 2 ∧ operand register 24 2 ≤ 1024
    ∧ operand register 32 8 < 2 ^ 48 ∧ physOk (operand register 32 8) = true
    ∧ groupFind (managed register) (BitVec.ofNat 24 (operand register 8 3)) = none := by decide +kernel

theorem test_witness_ManagementCommands_members : (let ms := readMembers (managed register) (operand register 32 8) (operand register 24 2)
    distinct (ms.map fun m => m.1.toNat) = true ∧ ∀ m ∈ ms, landingOk (managed register) (operand register 20 4) m = true) :=
  ⟨by decide +kernel, List.all_eq_true.1 (by decide +kernel)⟩

theorem test_witness_ManagementCommands_release : operand release 0 1 = 5 ∧ operand release 8 8 < 2 ^ 24
    ∧ (groupFind (managed release) (BitVec.ofNat 24 (operand release 8 8))).isSome = true := by decide +kernel

theorem test_free_pages : ((List.range 512).all fun k => !quarantinedAt (managed report) (operand report 40 8 + k)) = true := by
  decide +kernel

theorem test_witness_ManagementCommands_report : operand report 0 1 = 7 ∧ operand report 40 8 < 2 ^ 45
    ∧ operand report 40 8 % 64 = 0 ∧ physOk (operand report 40 8) = true ∧ physOk (operand report 40 8 + 511) = true
    ∧ (managed report).fills = [] ∧ (managed report).moves = [] ∧ (managed report).port.moves = [] ∧ inService (managed report) 47 = true
    ∧ ∀ k, k < 512 → quarantinedAt (managed report) (operand report 40 8 + k) = false :=
  ⟨by decide +kernel, by decide +kernel, by decide +kernel, by decide +kernel, by decide +kernel, rfl, rfl, rfl, by decide
  , fun k h => by simpa using List.all_eq_true.1 test_free_pages k (List.mem_range.2 h)⟩

theorem test_witness_HardwareEvents : linked.ports[(0 : Fin 16)].up = true ∧ linked.ports[(0 : Fin 16)].replays < 15
    ∧ ({ linked with ports := Vector.replicate 16 ⟨true, 15, [], 0⟩ } : State).ports[(0 : Fin 16)].replays = 15 ∧ bench.objs = []
    ∧ (let s : State := { bench with stackCtl := bench.stackCtl.set 0 ⟨[], [], [(2, 5)], 0, [], [], [], []⟩ }
      8 ≤ tableGet s.stackCtl[(0 : Fin 16)].postponed 2 0 + 3 ∧ tableGet s.stackCtl[(0 : Fin 16)].postponed 2 0 + 2 < 8)
    ∧ tableFind ({ bench with headers := [(0x100000, aHeader)] } : State).headers 0x100000 = some aHeader
    ∧ mayServe hosted 24 = true ∧ mayServe hosted 26 = false ∧ mayServe bench 48 = true ∧ mayServe bench 44 = false
    ∧ mayServe { bench with images := BitVec.ofNat 64 (2 ^ 44) } 44 = true ∧ bench.port.objs = [] ∧ supervisorReady bench = true := by decide +kernel

/-- HardwareEvents: a mirror whose chunk verifies, and one of whose entries is found otherwise; a packet on a link. -/
theorem test_witness_HardwareEvents_mirror : bench.stackCtl[(0 : Fin 16)].mirror = []
    ∧ (let s : State := { linked with ports := Vector.replicate 16 ⟨true, 3, [⟨1, .req, 5, 64, none, [7, 8], []⟩], 1⟩ }
      s.ports[(0 : Fin 16)].packets = ⟨1, .req, 5, 64, none, [7, 8], []⟩ :: [] ∧ s.ports[(0 : Fin 16)].through = 1 ∧ 1 < [(7 : BitVec 512), 8].length) :=
  ⟨by decide, rfl, rfl, by decide⟩

/-! ### Witnesses of the hypotheses of the statements about steps -/

/-- `bench` with a bundle whose slot `k` comes next. -/
def atSlot (k w : Nat) (f : Arr → Arr) : State := benchWith fun x => f { x with run := .issuing k, latch := BitVec.ofNat 256 w }

theorem test_witness_AtSlot : (atSlot 1 (0x3204000A * 2 ^ 32) id).AtSlot 1 := ⟨by decide, by decide, by decide⟩

/-- A zero word, an illegal one, a destination used twice, a busy feeder, and a word that runs. -/
theorem test_witness_StepRunsSlots : (curA (atSlot 2 0 id)).latch.toNat / 2 ^ (32 * 2) % 2 ^ 32 = 0
    ∧ decodeSlot 1 0x2C000000 = none ∧ decodeSlot 2 0x020E25A2 = some (.ld 0 7 1 5 .z32 2)
    ∧ (curA (atSlot 2 (0x320E000A * 2 ^ 32 + 0x020E25A2 * 2 ^ 64) id)).duplicate 2 = true
    ∧ (curA (atSlot 1 (0x3204000A * 2 ^ 32) id)).duplicate 1 = false ∧ isTail (curA bench) = false ∧ unaligned bench bench.cur = false
    ∧ busySlot (atSlot 3 (0x02010000 * 2 ^ 96) fun x => { x with north := { x.north with form := some ⟨.zero, 0, .skew, 0, 5, false, 0, 0⟩ } }) 3 = true
    ∧ busySlot (atSlot 1 (0x3204000A * 2 ^ 32) id) 1 = false
    ∧ (curA (atSlot 1 (0x3204000A * 2 ^ 32) id)).latch.toNat / 2 ^ (32 * 1) % 2 ^ 32 = 0x3204000A := by decide +kernel

/-- The first instruction after reset: `LI S2, 10` stored where the step fetches it is written, and the bundle goes on. -/
theorem test_first_step : (match step (State.reset.withFetchWord 32 0x3204000A) with
    | .next t => decide ((getA t 0).regs.s[(2 : Fin 32)] = 10 ∧ (getA t 0).run = .issuing 2)
    | _ => false) = true := by decide +kernel

theorem test_witness_StepRunsEvents : bench.powered = true ∧ encode (.alarmWrite 0) = none ∧ (encode (.tend 0)).isSome = true
    ∧ ({ bench with powered := false } : State).powered = false ∧ (∀ i ∈ ({ bench with agenda := [.alarmWrite 0] } : State).agenda.head?, encode i = none) := by
  decide

theorem test_witness_BundleEnds : (let s := atSlot 8 0 id
    s.powered = true ∧ s.agenda = [] ∧ (∀ a : Fin 32, (getA s a).slot = none) ∧ (getA s 0).run = .issuing 8
    ∧ (∀ b : Fin 32, b < 0 → (getA s b).run ≠ .issuing 8) ∧ (getA s 0).kind = .cluster ∧ (getA s 0).transfer = none ∧ (getA s 0).phcancel = false)
    ∧ (getA (atSlot 8 0 fun x => { x with phcancel := true }) 0).phcancel = true ∧ (getA (atSlot 8 0 id) 0).halt = false := by decide

/-- SlotFrame, RegisterFrame, PredicatedOff, DecodeEncode: a slot form that answers a next state. -/
theorem test_witness_SlotFrame : (Instr.add 0 1 2 3).slot = some 1 ∧ (Instr.add 0 1 2 3).wellFormed = true ∧ encode (.add 0 1 2 3) = some 0x02022180
    ∧ gives (.add 0 1 2 3) bench (fun t => (getA t 0).regs.s[(1 : Fin 32)] == 0x8000000000000004#64) = true := by decide

theorem test_witness_SoundPreserved : State.reset.Sound := ⟨by decide, by decide⟩

theorem test_sound_step : gives (.alarmWrite 0) bench (fun t => Memory.wf t.mem && decide (t.refthr.toNat ≤ 999)) = true := by decide

/-- MemoryReadsBack: a page that is in use, a sector poisoned and freed, a quarantined page. -/
theorem test_witness_MemoryReadsBack : quarantinedAt stocked 0x100040 = false ∧ (0x100040 : Nat) % 32 = 0
    ∧ quarantinedAt { bench with stackCtl := bench.stackCtl.set 0 ⟨[16], [], [], 0, [], [], [], []⟩ } 0x100040 = true := by decide

theorem test_witness_SelectorForms : bench.lets 3 ∧ (8 : Fin 64).val ≤ (9 : Fin 64).val := ⟨rfl, by decide⟩

/-- StoresAndAtomicsArrive: a store and an atomic at the heads of their queues, whose accesses reach memory. -/
theorem test_witness_StoresAndAtomicsArrive : (asked (.store 16 5) 64).AtHead 0 ⟨7, .store 16 5, full, 64, .ar, false⟩
    ∧ (asked (.store 16 5) 64).Reaches (asked (.store 16 5) 64) 0 ⟨7, .store 16 5, full, 64, .ar, false⟩ 16 [Right.write] true 0x100040 none :=
  ⟨test_witness_AtHead _ _, test_reaches (by decide) (by decide) (by decide) (by decide)⟩

end Sys2Proof.Tests
end

section
/-! PROOF. Cycles of the arrays that act as one (O27): what a beat may change, what a move made over a list of arrays does to
each, and the bundles that begin as a wait ends. -/

namespace Sys2Proof.Machine

/-! ### Moves made over a list of arrays, each on its own -/

/-- Where the move of an array leaves what `P` reads of the others and brings `Q` about in its own, a list of such moves, each
array once, brings `Q` about in the listed arrays and leaves the rest. -/
theorem foldl_own {γ : Type} (P : Arr → γ) (Q : γ → γ → Prop) (f : State → Fin 32 → State)
    (other : ∀ s a b, b ≠ a → P (getA (f s a) b) = P (getA s b))
    (own : ∀ s a, Q (P (getA s a)) (P (getA (f s a) a))) {us : List (Fin 32)} (nd : us.Nodup) (s : State) (m : Fin 32) :
    (m ∈ us → Q (P (getA s m)) (P (getA (us.foldl f s) m))) ∧ (m ∉ us → P (getA (us.foldl f s) m) = P (getA s m)) := by
  induction us generalizing s with
  | nil => simp
  | cons a us ih =>
    obtain ⟨ha, nd⟩ := List.nodup_cons.1 nd
    obtain ⟨inside, outside⟩ := ih nd (f s a)
    rw [List.foldl_cons]
    by_cases e : m = a
    · subst e
      exact ⟨fun _ => outside ha ▸ own s m, fun h => absurd List.mem_cons_self h⟩
    · refine ⟨fun h => ?_, fun h => ?_⟩
      · exact other s a m e ▸ inside ((List.mem_cons.1 h).resolve_left e)
      · rw [outside (fun h' => h (List.mem_cons_of_mem _ h')), other s a m e]

/-- Moves that each apply `g` to their own array apply it once to every array of a list without repeats. -/
theorem getA_foldl_own (f : State → Fin 32 → State) (g : Arr → Arr)
    (h : ∀ s a b, getA (f s a) b = if b = a then g (getA s a) else getA s b) {us : List (Fin 32)} (nd : us.Nodup) (s : State)
    (m : Fin 32) : getA (us.foldl f s) m = if m ∈ us then g (getA s m) else getA s m := by
  obtain ⟨inside, outside⟩ := foldl_own id (fun x y => y = g x) f (fun s a b e => by simp [h, e])
    (fun s a => by simp [h]) nd s m
  split
  · next hm => exact inside hm
  · next hm => exact outside hm

theorem getA_updAll {us : List (Fin 32)} (nd : us.Nodup) (s : State) (g : Arr → Arr) (m : Fin 32) :
    getA (updAll s us g) m = if m ∈ us then g (getA s m) else getA s m :=
  getA_foldl_own _ g (fun s a b => getA_updA s a b g) nd s m

/-! ### What the beats of a cycle leave alone (R21, R33) -/

/-- The counters of an array and what its next wave step is made of. -/
structure Pulse where
  acnt : Nat
  fcnt : Nat
  wave : Option WaveForm
  rsw : Word64
  travel : Bool
  phaseMark : Bool
  kind : GroupKind
  steps : List WaveStep

/-- The pulse of an array. -/
def Arr.pulse (x : Arr) : Pulse :=
  ⟨x.acnt, x.fcnt, x.wave, x.regs.rsw, x.regs.travel, x.phaseMark, x.kind, x.steps⟩

/-- The pulse of an array, its cells, and the beats of the cycle that it has taken. -/
structure Face where
  pulse : Pulse
  cells : List (Nat × Cell)
  done : List Nat

/-- The face of an array. -/
def Arr.face (x : Arr) : Face := ⟨x.pulse, x.cells, x.done⟩

@[simp] theorem Arr.setFeeder_pulse (x : Arr) (west : Bool) (f : Feeder) : (x.setFeeder west f).pulse = x.pulse := by
  cases west <;> rfl

@[simp] theorem Arr.setStream_pulse (x : Arr) (q : Fin 16) (st : Stream) : (x.setStream q st).pulse = x.pulse := rfl

@[simp] theorem Arr.popBeat_pulse (x : Arr) (west : Bool) (m : FeederForm) (t : Nat) :
    (x.popBeat west m t).pulse = x.pulse := by
  unfold Arr.popBeat
  dsimp only
  split <;> simp

@[simp] theorem Arr.mergeBeat_pulse (x : Arr) (q : Fin 16) (left : Nat) : (x.mergeBeat q left).pulse = x.pulse := by
  unfold Arr.mergeBeat
  dsimp only
  split <;> rfl

@[simp] theorem Arr.sorterEnd_pulse (x : Arr) (idle : Bool) : (x.sorterEnd idle).1.pulse = x.pulse := by
  unfold Arr.sorterEnd
  dsimp only
  split
  · split <;> rfl
  · rfl

@[simp] theorem Arr.edgeDue_pulse (x : Arr) : x.edgeDue.pulse = x.pulse := by
  unfold Arr.edgeDue
  split
  · split
    · rfl
    · split <;> rfl
  · rfl

@[simp] theorem Arr.feedersDue_pulse (x : Arr) : x.feedersDue.pulse = x.pulse := rfl

@[simp] theorem Arr.gapTick_face (x : Arr) : x.gapTick.face = x.face := by
  unfold Arr.gapTick
  split <;> rfl

@[simp] theorem Arr.raiseMismatch_face (x : Arr) (now base num i j n : Nat) :
    (x.raiseMismatch now base num i j n).face = x.face := by
  unfold Arr.raiseMismatch
  dsimp only
  split
  · rfl
  · split <;> rfl

@[simp] theorem Arr.consumePoison_face (x : Arr) : x.consumePoison.face = x.face := by
  unfold Arr.consumePoison
  split <;> rfl

/-- Beats of array `a` lead from `s` to `t`: its pulse stays, the other arrays keep their cells and beats too, and memory is as
it was. -/
structure Steady (a : Fin 32) (s t : State) : Prop where
  own : (getA t a).pulse = (getA s a).pulse
  others : ∀ m, m ≠ a → (getA t m).face = (getA s m).face
  mem : t.mem = s.mem

theorem Steady.refl (a : Fin 32) (s : State) : Steady a s s := ⟨rfl, fun _ _ => rfl, rfl⟩

theorem Steady.trans {a : Fin 32} {s t u : State} (h : Steady a s t) (k : Steady a t u) : Steady a s u :=
  ⟨k.own.trans h.own, fun m e => (k.others m e).trans (h.others m e), k.mem.trans h.mem⟩

theorem Steady.bump {a : Fin 32} {s t : State} (h : Steady a s t) : Steady a s (Machine.bump t) := ⟨h.own, h.others, h.mem⟩

theorem Steady.foldl {β : Type} {a : Fin 32} {f : State → β → State} (h : ∀ s b, Steady a s (f s b)) (l : List β)
    (s : State) : Steady a s (l.foldl f s) := by
  induction l generalizing s with
  | nil => exact .refl a s
  | cons b l ih => exact (h s b).trans (ih _)

/-- A change of the array itself that keeps its pulse is steady. -/
theorem steady_updA_own {a : Fin 32} {s : State} {f : Arr → Arr} (h : (f (getA s a)).pulse = (getA s a).pulse) :
    Steady a s (updA s a f) :=
  ⟨by rw [getA_updA_same, h], fun m e => by rw [getA_updA_ne s f e], rfl⟩

/-- A change of any array that keeps its pulse, cells and beats is steady. -/
theorem steady_updA {a o : Fin 32} {s : State} {f : Arr → Arr} (h : (f (getA s o)).face = (getA s o).face) :
    Steady a s (updA s o f) := by
  have all (m : Fin 32) : (getA (updA s o f) m).face = (getA s m).face := by
    rw [getA_updA]
    split
    · next e => rw [h, e]
    · rfl
  exact ⟨congrArg Face.pulse (all a), fun m _ => all m, rfl⟩

/-! ### Each beat is steady -/

theorem steady_dropEntries (a o : Fin 32) (s : State) (ids : List Nat) : Steady a s (dropEntries s o ids) := steady_updA rfl

theorem steady_giveBlock (a o : Fin 32) (s : State) (id : Nat) (b : PReg) : Steady a s (giveBlock s o id b) := by
  unfold giveBlock
  split
  · exact .refl a s
  · split
    · exact (steady_dropEntries a o s _).trans (steady_updA rfl)
    · exact steady_updA rfl
    · exact .refl a s

theorem steady_keepCapture (a : Fin 32) (s : State) (c : Capture) : Steady a s (keepCapture s a c) := steady_updA rfl

theorem steady_captureStep (a : Fin 32) (s : State) (t : Nat) (c : Capture) : Steady a s (captureStep s a t c) := by
  unfold captureStep
  dsimp only
  split
  · exact steady_keepCapture a s c
  · split
    · split
      · exact .foldl (fun s j => steady_giveBlock a _ s _ _) _ s
      · split
        · exact (steady_giveBlock a _ s _ _).trans (steady_keepCapture a _ _)
        · exact steady_giveBlock a _ s _ _
    · split
      · exact (steady_updA rfl).trans (steady_keepCapture a _ _)
      · exact steady_updA rfl
    · split
      · exact steady_keepCapture a s _
      · exact steady_giveBlock a _ s _ _

theorem steady_captures (a : Fin 32) (s : State) : Steady a s (captures s a) := by
  unfold captures
  dsimp only
  split
  · exact .refl a s
  · exact (steady_updA_own rfl).trans (.foldl (fun s c => steady_captureStep a s _ c) _ _)

theorem steady_execCell (a : Fin 32) (s : State) (t i j : Nat) (w : WaveStep) (f : WaveForm) :
    Steady a s (execCell s a t i j w f) := by
  unfold execCell
  dsimp only
  refine Steady.bump (.trans (steady_updA_own rfl) (steady_updA ?_))
  have flagged (x : Arr) (l : List (Nat × BitVec 32)) (c : Prop) [Decidable c] :
      (if c then { x with flagPend := l } else x).face = x.face := by split <;> rfl
  rw [apply_ite Arr.face, Arr.consumePoison_face, ite_self]
  split
  · rw [Arr.raiseMismatch_face, flagged]
  · rw [flagged]

theorem steady_rowStep (a : Fin 32) (s : State) (i : Nat) : Steady a s (rowStep s a i) := by
  have cells (s : State) (t : Nat) (w : WaveStep) (f : WaveForm) : Steady a s ((List.range 64).foldl (fun s j =>
      if executes s a t w i j && !(getA s a).done.contains (64 * i + j) then execCell s a t i j w f else s) s) := by
    refine .foldl (fun s j => ?_) _ s
    split
    · exact steady_execCell a s t i j w f
    · exact .refl a s
  have point (s : State) (w : WaveStep) : Steady a s (if w.phase then checkpointRow s a i else s) := by
    split
    · exact steady_updA_own rfl
    · exact .refl a s
  unfold rowStep
  dsimp only
  split
  · exact .refl a s
  · split
    · exact point s _
    · exact (point s _).trans (cells _ _ _ _)

theorem steady_cellSteps (a : Fin 32) (s : State) : Steady a s (cellSteps s a) :=
  .foldl (fun s i => steady_rowStep a s i) _ s

theorem steady_buffered (a : Fin 32) (s : State) (q : Fin 16) : Steady a s (buffered s a q) := by
  unfold buffered
  split
  · exact (steady_updA_own rfl).bump
  · exact .refl a s

theorem steady_feederStep (a : Fin 32) (s : State) (west stalled : Bool) : Steady a s (feederStep s a west stalled) := by
  have supply (m : FeederForm) : Steady a s (if m.kind.pops then buffered s a m.q else s) := by
    split
    · exact steady_buffered a s m.q
    · exact .refl a s
  have beat (s : State) (m : FeederForm) :
      Steady a s (updA s a fun x => { x.popBeat west m x.acnt with done := feederMark west :: x.done }) :=
    steady_updA_own (Arr.popBeat_pulse (getA s a) west m _)
  unfold feederStep
  dsimp only
  split
  · exact .refl a s
  · next m _ =>
    split
    · exact .refl a s
    · split
      · split
        · exact ((supply m).trans (beat _ m)).trans (steady_dropEntries a _ _ _)
        · exact (supply m).trans (beat _ m)
      · split
        · exact .refl a s
        · exact steady_updA_own (Arr.setFeeder_pulse (getA s a) west _)

theorem steady_edgeBeat (a : Fin 32) (s : State) : Steady a s (edgeBeat s a) := by
  unfold edgeBeat
  split
  · exact .refl a s
  · exact steady_updA_own rfl
  · exact (steady_buffered a s _).trans (steady_updA_own (Arr.mergeBeat_pulse _ _ _))
  · exact steady_updA_own rfl
  · exact (steady_updA_own rfl).trans (steady_giveBlock a _ _ _ _)

theorem steady_flagsLand (a : Fin 32) (s : State) : Steady a s (flagsLand s a) := by
  unfold flagsLand
  dsimp only
  split
  · exact .refl a s
  · exact steady_updA rfl

/-- R21: once an array's cycle has begun, its beats, captures and cells leave its pulse and the other arrays' cells alone. -/
theorem steady_cycleBody (a : Fin 32) (s : State) : Steady a (updA s a Arr.open) (cycleBody s a) := by
  have invalid (s : State) (b : Bool) (o : Fin 32) : Steady a s (if b then
      updA s o fun x => { x with regs := { x.regs with nflg := x.regs.nflg ||| Flag.nv } } else s) := by
    split
    · exact steady_updA rfl
    · exact .refl a s
  have sorted (s : State) (idle : Bool) : Steady a s (setA s a ((getA s a).sorterEnd idle).1) :=
    steady_updA_own (f := fun _ => ((getA s a).sorterEnd idle).1) (Arr.sorterEnd_pulse _ _)
  unfold cycleBody
  dsimp only
  refine .trans ?_ (steady_flagsLand a _)
  refine .trans ?_ (invalid _ _ _)
  refine .trans ?_ (sorted _ _)
  refine .trans ?_ (steady_edgeBeat a _)
  refine .trans ?_ (steady_captures a _)
  refine .trans ?_ (steady_cellSteps a _)
  refine .trans ?_ (steady_feederStep a _ _ _)
  refine .trans ?_ (steady_feederStep a _ _ _)
  exact (steady_feederStep a _ _ _).trans (steady_feederStep a _ _ _)

/-! ### An active cycle (R21, R33, R232) -/

/-- The wave step that an array of a pulse issues. -/
def Pulse.step (p : Pulse) : WaveStep := ⟨p.acnt, p.wave, p.rsw, p.travel, p.phaseMark, decide (p.kind = .chain)⟩

/-- R21: from `v` to `w`, the array has taken its beats: its counters stand, and one wave step has entered row 0 unless the
cycle had begun. -/
structure Beaten (v w : Face) : Prop where
  acnt : w.pulse.acnt = v.pulse.acnt
  fcnt : w.pulse.fcnt = v.pulse.fcnt
  enters : openMark ∉ v.done → w.pulse.steps.head? = some v.pulse.step
  begun : openMark ∈ v.done → w.pulse.steps = v.pulse.steps

theorem Arr.issueStep_acnt (x : Arr) : x.issueStep.pulse.acnt = x.pulse.acnt := rfl
theorem Arr.issueStep_fcnt (x : Arr) : x.issueStep.pulse.fcnt = x.pulse.fcnt := rfl
theorem Arr.issueStep_head (x : Arr) : x.issueStep.pulse.steps.head? = some x.pulse.step := rfl

theorem Arr.open_of_begun {x : Arr} (h : openMark ∈ x.done) : x.open = x := by simp [Arr.open, h]

theorem Arr.open_pulse {x : Arr} (h : openMark ∉ x.done) : x.open.pulse = x.edgeDue.feedersDue.issueStep.pulse := by
  simp [Arr.open, h, Arr.pulse]

theorem beaten_open (x : Arr) {w : Face} (h : w.pulse = x.open.pulse) : Beaten x.face w := by
  have due : x.edgeDue.feedersDue.pulse = x.pulse := by simp
  by_cases hx : openMark ∈ x.done
  · rw [Arr.open_of_begun hx] at h
    exact ⟨by rw [h]; rfl, by rw [h]; rfl, fun n => absurd hx n, fun _ => by rw [h]; rfl⟩
  · rw [Arr.open_pulse hx] at h
    refine ⟨?_, ?_, fun _ => ?_, fun y => absurd y hx⟩
    · rw [h, Arr.issueStep_acnt, due]; rfl
    · rw [h, Arr.issueStep_fcnt, due]; rfl
    · rw [h, Arr.issueStep_head, due]; rfl

theorem cycleBody_other (s : State) (a b : Fin 32) (h : b ≠ a) : (getA (cycleBody s a) b).face = (getA s b).face := by
  rw [(steady_cycleBody a s).others b h, getA_updA_ne s _ h]

theorem cycleBody_own (s : State) (a : Fin 32) : Beaten (getA s a).face (getA (cycleBody s a) a).face := by
  refine beaten_open (getA s a) ?_
  rw [show (getA (cycleBody s a) a).face.pulse = _ from (steady_cycleBody a s).own, getA_updA_same]

theorem getA_deficitTick (s : State) (a b : Fin 32) : getA (deficitTick s a) b = getA s b := by
  unfold deficitTick
  split <;> rfl

@[simp] theorem deficitTick_mem (s : State) (a : Fin 32) : (deficitTick s a).mem = s.mem := by
  unfold deficitTick
  split <;> rfl

theorem getA_cycleEnd (s : State) (a b : Fin 32) :
    getA (cycleEnd s a) b = if b = a then (getA s a).endCycle.retTick.repositions else getA s b := by
  rw [cycleEnd, getA_deficitTick, getA_updA]

/-- R152: repositions change streams and their own list alone. -/
theorem applyReady_keep {γ : Type} (P : Arr → γ) (h : ∀ x v r, P { x with streams := v, reposition := r } = P x)
    (l : List PendingReposition) (x : Arr) (held : List (Fin 16)) : P (applyReady x l held) = P x := by
  induction l generalizing x held with
  | nil => rfl
  | cons e l ih =>
    unfold applyReady
    split
    · rw [ih, ← h x x.streams (x.reposition ++ [e])]
    · rw [ih, ← h x _ x.reposition]; rfl

theorem Arr.repositions_face (x : Arr) : x.repositions.face = x.face :=
  applyReady_keep Arr.face (fun _ _ _ => rfl) x.reposition { x with reposition := [] } []

theorem Arr.retTick_face (x : Arr) : x.retTick.face = x.face := by
  unfold Arr.retTick
  split <;> rfl

/-- R21, R33: the end of an array's active cycle: `ACNT` advances, no beat of the next one is taken, and the other counter and
the wave steps stand. -/
theorem Arr.ended_face (x : Arr) : x.endCycle.retTick.repositions.face
    = ⟨{ x.pulse with acnt := x.acnt + 1 }, x.endCycle.cells, []⟩ := by
  rw [Arr.repositions_face, Arr.retTick_face]
  rfl

/-- R235: the parting of a drained chain changes no more than the kind of an array. -/
theorem getA_freeDrained (s : State) {us : List (Fin 32)} (nd : us.Nodup) (m : Fin 32) :
    ∃ k, getA (freeDrained s us) m = { getA s m with kind := k } := by
  unfold freeDrained
  split
  · rw [getA_updAll nd]
    split
    · exact ⟨.freed, rfl⟩
    · exact ⟨(getA s m).kind, rfl⟩
  · exact ⟨(getA s m).kind, rfl⟩

/-- R21, R33, R34: what an active cycle does to each array of its unit. -/
theorem unitCycle_member (s : State) {us : List (Fin 32)} (nd : us.Nodup) {m : Fin 32} (hm : m ∈ us) :
    (getA (unitCycle s us) m).acnt = (getA s m).acnt + 1 ∧ (getA (unitCycle s us) m).fcnt = (getA s m).fcnt
      ∧ (getA (unitCycle s us) m).done = []
      ∧ (openMark ∉ (getA s m).done → (getA (unitCycle s us) m).steps.head? = some (getA s m).pulse.step)
      ∧ (openMark ∈ (getA s m).done → (getA (unitCycle s us) m).steps = (getA s m).steps) := by
  have beats := (foldl_own Arr.face Beaten cycleBody cycleBody_other cycleBody_own nd (updAll s us Arr.gapTick) m).1 hm
  rw [updAll_keep s us Arr.gapTick m Arr.face Arr.gapTick_face] at beats
  have ends := getA_foldl_own cycleEnd (fun x => x.endCycle.retTick.repositions) getA_cycleEnd nd
    (us.foldl cycleBody (updAll s us Arr.gapTick)) m
  rw [if_pos hm] at ends
  obtain ⟨k, parts⟩ := getA_freeDrained (us.foldl cycleEnd (us.foldl cycleBody (updAll s us Arr.gapTick))) nd m
  rw [ends] at parts
  have face := Arr.ended_face (getA (us.foldl cycleBody (updAll s us Arr.gapTick)) m)
  have acnt := congrArg (fun v => v.pulse.acnt) face
  have fcnt := congrArg (fun v => v.pulse.fcnt) face
  have steps := congrArg (fun v => v.pulse.steps) face
  have done := congrArg Face.done face
  rw [unitCycle, parts]
  exact ⟨acnt.trans (congrArg (· + 1) beats.acnt), fcnt.trans beats.fcnt, done,
    fun h => (congrArg List.head? steps).trans (beats.enters h), fun h => steps.trans (beats.begun h)⟩

/-- R21, R232: an active cycle leaves the counters and cells of the arrays outside its unit. -/
theorem unitCycle_other (s : State) {us : List (Fin 32)} (nd : us.Nodup) {b : Fin 32} (hb : b ∉ us) :
    (getA (unitCycle s us) b).acnt = (getA s b).acnt ∧ (getA (unitCycle s us) b).cells = (getA s b).cells := by
  have beats := (foldl_own Arr.face Beaten cycleBody cycleBody_other cycleBody_own nd (updAll s us Arr.gapTick) b).2 hb
  rw [updAll_keep s us Arr.gapTick b Arr.face Arr.gapTick_face] at beats
  have ends := getA_foldl_own cycleEnd (fun x => x.endCycle.retTick.repositions) getA_cycleEnd nd
    (us.foldl cycleBody (updAll s us Arr.gapTick)) b
  rw [if_neg hb] at ends
  obtain ⟨k, parts⟩ := getA_freeDrained (us.foldl cycleEnd (us.foldl cycleBody (updAll s us Arr.gapTick))) nd b
  rw [unitCycle, parts, ends]
  exact ⟨congrArg (fun v => v.pulse.acnt) beats, congrArg Face.cells beats⟩

theorem updAll_mem (s : State) (us : List (Fin 32)) (f : Arr → Arr) : (updAll s us f).mem = s.mem := by
  rw [updAll_arrs]

theorem unitCycle_mem (s : State) (us : List (Fin 32)) : (unitCycle s us).mem = s.mem := by
  have parts (s : State) : (freeDrained s us).mem = s.mem := by
    unfold freeDrained
    split
    · exact updAll_mem s us _
    · rfl
  rw [unitCycle, parts, foldl_keep us cycleEnd State.mem (fun s a => deficitTick_mem _ a),
    foldl_keep us cycleBody State.mem (fun s a => (steady_cycleBody a s).mem), updAll_mem]

/-! ### A frozen cycle (R32, R33, R115) -/

/-- R32, R115: a wait after one frozen cycle. -/
def Run.frozen : Run → Run
  | .waiting (.freeze n) => .waiting (.freeze (n - 1))
  | r => r

/-- R32, R33: what a frozen cycle makes of an array. -/
def Arr.frozenTick (x : Arr) : Arr := { x.retTick with fcnt := x.fcnt + 1, run := x.run.frozen }

theorem getA_frozenCycle (s : State) (a b : Fin 32) :
    getA (frozenCycle s a) b = if b = a then (getA s a).frozenTick else getA s b := by
  rw [frozenCycle, getA_deficitTick, getA_updA]
  rfl

theorem getA_unitFrozen (s : State) {us : List (Fin 32)} (nd : us.Nodup) (m : Fin 32) :
    getA (unitFrozen s us) m = if m ∈ us then (getA s m).frozenTick else getA s m :=
  getA_foldl_own frozenCycle Arr.frozenTick getA_frozenCycle nd s m

theorem unitFrozen_mem (s : State) (us : List (Fin 32)) : (unitFrozen s us).mem = s.mem :=
  foldl_keep us frozenCycle State.mem (fun _ a => deficitTick_mem _ a) s

/-- R32: a frozen cycle touches no more than `RETLEFT` beside `FCNT` and the wait. -/
theorem Arr.frozenTick_eq (x : Arr) :
    ∃ n, x.frozenTick = { x with retLeft := n, fcnt := x.fcnt + 1, run := x.run.frozen } := by
  unfold Arr.frozenTick Arr.retTick
  split
  · exact ⟨_, rfl⟩
  · exact ⟨x.retLeft, rfl⟩

/-- R120: `RETLEFT` counts a frozen cycle at a boundary of a task that has not ended. -/
theorem Arr.frozenTick_retLeft {x : Arr} (h : x.retLeft ≠ 0) (hr : x.run = .boundary) (he : x.ending = none) :
    x.frozenTick.retLeft = x.retLeft - 1 := by
  have counts : x.retCounts = true := by simp [Arr.retCounts, hr, he]
  simp only [Arr.frozenTick, Arr.retTick, if_pos counts, if_neg h]

/-- R32: a sequencer freezes its array exactly while it waits for anything but its sync line. -/
theorem Arr.frozen_iff (x : Arr) : x.frozen = true ↔ ∃ w, x.run = .waiting w ∧ w ≠ .sync := by
  unfold Arr.frozen
  split
  · next h => simp [h]
  · next w hw h => simpa [h] using hw
  · next hw => simpa using fun w h => absurd h (hw w)

/-! ### The clauses about cycles -/

/-- R21, R33, R232: no sequencer of the unit freezes its array, and no answer is due: its active cycle passes. -/
theorem activeArrayCycle_passes {s : State} {a : Fin 32}
    (h : ∀ m ∈ lockstep s a, (∀ w, (getA s m).run = .waiting w → w = .sync) ∧ (getA s m).answerDue m = none) :
    exec (.activeArrayCycle a) s = .next (unitCycle s (lockstep s a)) := by
  refine if_neg fun any => ?_
  obtain ⟨m, hm, held⟩ := List.any_eq_true.1 any
  obtain ⟨wait, answer⟩ := h m hm
  rcases Bool.or_eq_true_iff.1 held with hf | hd
  · obtain ⟨w, hw, ne⟩ := (Arr.frozen_iff _).1 hf
    exact ne (wait w hw)
  · rw [answer] at hd
    exact absurd hd (by decide)

/-- R8, R32: where a sequencer of the unit freezes its array or an answer is due, there is no active cycle. -/
theorem activeArrayCycle_held {s : State} {a : Fin 32}
    (h : ∃ m ∈ lockstep s a, (∃ w, (getA s m).run = .waiting w ∧ w ≠ .sync) ∨ (getA s m).answerDue m ≠ none) :
    exec (.activeArrayCycle a) s = .next s := by
  obtain ⟨m, hm, held⟩ := h
  refine if_pos (List.any_eq_true.2 ⟨m, hm, Bool.or_eq_true_iff.2 ?_⟩)
  exact held.imp (Arr.frozen_iff _).2 Option.isSome_iff_ne_none.2

/-- R32: where a sequencer of the unit freezes its array, its frozen cycle passes. -/
theorem frozenArrayCycle_passes {s : State} {a : Fin 32}
    (h : ∃ m ∈ lockstep s a, ∃ w, (getA s m).run = .waiting w ∧ w ≠ .sync) :
    exec (.frozenArrayCycle a) s = .next (unitFrozen s (lockstep s a)) := by
  obtain ⟨m, hm, held⟩ := h
  exact if_pos (List.any_eq_true.2 ⟨m, hm, (Arr.frozen_iff _).2 held⟩)

/-- R32: where none does, there is none. -/
theorem frozenArrayCycle_none {s : State} {a : Fin 32}
    (h : ∀ m ∈ lockstep s a, ∀ w, (getA s m).run = .waiting w → w = .sync) :
    exec (.frozenArrayCycle a) s = .next s := by
  refine if_neg fun any => ?_
  obtain ⟨m, hm, hf⟩ := List.any_eq_true.1 any
  obtain ⟨w, hw, ne⟩ := (Arr.frozen_iff _).1 hf
  exact ne (h m hm w hw)

/-- R115: a freeze that has lasted its cycles ends, and no other wait does. -/
theorem freezeEnd_eq (s : State) (a : Fin 32) : exec (.freezeEnd a) s
    = .next (if (getA s a).run = .waiting (.freeze 0) then updA s a fun x => { x with run := .boundary } else s) := by
  refine congrArg Host.Outcome.next ?_
  split
  · next h => exact updA_congr s a (if_pos h)
  · next h => exact (updA_congr s a (if_neg h)).trans (updA_id s a)

/-! ### Bundles that begin alone -/

theorem Arr.beginIssue_run (x : Arr) : x.beginIssue.run = .issuing x.resume := rfl
theorem Arr.beginIssue_snap (x : Arr) : x.beginIssue.snap = x.refresh.regs := rfl
theorem Arr.beginIssue_regs (x : Arr) : x.beginIssue.regs = x.refresh.regs := rfl
theorem Arr.beginIssue_latch (x : Arr) : x.beginIssue.latch = x.latch := rfl
theorem Arr.beginIssue_acnt (x : Arr) : x.beginIssue.acnt = x.acnt := rfl
theorem Arr.beginIssue_released (x : Arr) : x.beginIssue.released = x.released := rfl
theorem Arr.refresh_pc (x : Arr) : x.refresh.regs.pc = x.due.setWidth 48 := rfl
theorem Arr.refresh_due (x : Arr) : x.refresh.due = x.due := rfl
theorem Arr.refresh_run (x : Arr) : x.refresh.run = x.run := rfl
theorem Arr.refresh_resume (x : Arr) : x.refresh.resume = x.resume := rfl
theorem Arr.refresh_latch (x : Arr) : x.refresh.latch = x.latch := rfl
theorem Arr.refresh_acnt (x : Arr) : x.refresh.acnt = x.acnt := rfl
theorem Arr.refresh_released (x : Arr) : x.refresh.released = x.released := rfl

/-- R16: a sequencer that waits has its bundle in its latch, and only reads its registers again. -/
theorem latchAll_waiting {s : State} {m : Fin 32} {w : Wait} (h : (getA s m).run = .waiting w) :
    latchAll s [m] = (updA s m Arr.refresh, .ready) := by
  simp [latchAll, h]

/-- R15, R32: a bundle that has waited, and that nothing holds back or refuses any longer, begins to issue, and no other array
of the package changes. -/
theorem beginCycle_waiting {s : State} {m : Fin 32} {w : Wait} (hr : (getA s m).run = .waiting w) (hw : ∀ n, w ≠ .freeze n)
    (hh : holdOf (updA s m Arr.refresh) m = none) (hf : (getA (updA s m Arr.refresh) m).refused = none) :
    beginCycle s [m] = updA s m fun x => x.refresh.beginIssue := by
  rw [getA_updA_same] at hf
  unfold beginCycle
  cases w with
  | freeze n => exact absurd rfl (hw n)
  | operand | swait | leave | sync =>
    simp [Arr.bundleDue, latchAll_waiting hr, hf, hh, updAll, Arr.refresh_run, hr]

/-- R15, R16: from `x` to `y`, the bundle in the latch has begun to issue at the slot it resumes at, with the registers as they
stand. -/
def Issues (x y : Arr) : Prop :=
  y.run = .issuing x.resume ∧ y.snap.pc = x.due.setWidth 48 ∧ y.snap = y.regs ∧ y.latch = x.latch ∧ y.acnt = x.acnt

theorem Arr.issues_beginIssue (x : Arr) : Issues x x.refresh.beginIssue := by
  refine ⟨?_, ?_, ?_, ?_, ?_⟩
  · rw [Arr.beginIssue_run, Arr.refresh_resume]
  · rw [Arr.beginIssue_snap, Arr.refresh_pc, Arr.refresh_due]
  · rw [Arr.beginIssue_snap, Arr.beginIssue_regs]
  · rw [Arr.beginIssue_latch, Arr.refresh_latch]
  · rw [Arr.beginIssue_acnt, Arr.refresh_acnt]

/-- R116: the stream of a waiting `SWAIT` holds its blocks and nothing else holds the bundle back: it begins to issue. -/
theorem swaitRelease_begins {s : State} {a : Fin 32} (hr : (getA s a).run = .waiting .swait)
    (hs : (getA s a).swaiting = some (.inr true)) (hh : holdOf s a = none) (hu : unsettled s [a] = false)
    (hl : lockstep s a = [a]) (hh' : holdOf (updA s a Arr.refresh) a = none)
    (hf : (getA (updA s a Arr.refresh) a).refused = none) :
    exec (.swaitRelease a) s = .next (updA s a fun x => x.refresh.beginIssue) := by
  have ready : exec (.swaitRelease a) s = .next (beginCycle s (lockstep s a)) := if_pos ⟨hr, hs, hh, by rw [hl]; exact hu⟩
  rw [ready, hl, beginCycle_waiting hr (by simp) hh' hf]

/-! ### The sync line (R113, R114) -/

theorem lockstep_congr {s t : State} {m : Fin 32} (h : getA t m = getA s m) : lockstep t m = lockstep s m := by
  simp only [lockstep, members, h]

/-- R113: of a sequencer that the line has released, the array alone tells what holds its bundle back. -/
theorem holdOf_released {s : State} {m : Fin 32} (h : (getA s m).released = true) : holdOf s m
    = if (List.range 8).any fun k => decide ((getA s m).resume ≤ k) && (getA s m).pendingSlot k then some .operand
      else if (getA s m).swaiting = some (.inr false) then some .swait
      else if (getA s m).resume ≤ 5 ∧ (getA s m).needsLeave = true then some .leave else none := by
  unfold holdOf
  cases hg : (getA s m).syncGroup with
  | none => simp only [hg]
  | some g => simp [hg, h]

/-- R113: an array with its line released. -/
def Arr.release (x : Arr) : Arr := { x with released := true }

/-- R113, R114: an array with its line released, and aligned where its bundle is a `REALIGN`. -/
def Arr.lineUp (x : Arr) : Arr := { x with released := true, aligned := x.aligned || x.isRealign }

/-- R113: the line's release changes neither the bundle in the latch nor the slot it resumes at. -/
theorem Issues.of_lineUp {x y : Arr} (h : Issues x.lineUp y) : Issues x y := h

theorem Arr.lineUp_issues (x : Arr) : Issues x x.lineUp.refresh.beginIssue := .of_lineUp x.lineUp.issues_beginIssue

theorem Arr.lineUp_issues_released (x : Arr) : x.lineUp.refresh.beginIssue.released = true := by
  rw [Arr.beginIssue_released, Arr.refresh_released]
  rfl

/-- R113: a sequencer outside chains whose line is released, and whose bundle nothing else holds back or refuses. -/
structure Releasable (s : State) (m : Fin 32) : Prop where
  run : (getA s m).run = .waiting .sync
  alone : lockstep s m = [m]
  released : (getA s m).released = true
  hold : holdOf (updA s m Arr.refresh) m = none
  accepted : (getA s m).refresh.refused = none

theorem Releasable.congr {s t : State} {m : Fin 32} (h : Releasable s m) (e : getA t m = getA s m) : Releasable t m where
  run := by rw [e, h.run]
  alone := by rw [lockstep_congr e, h.alone]
  released := by rw [e, h.released]
  accepted := by rw [e, h.accepted]
  hold := by
    have rel (u : State) (hu : getA u m = getA s m) : (getA (updA u m Arr.refresh) m).released = true := by
      rw [getA_updA_same, Arr.refresh_released, hu, h.released]
    rw [← h.hold, holdOf_released (rel t e), holdOf_released (rel s rfl), getA_updA_same, getA_updA_same, e]

/-- R114: being aligned or not holds nothing back and refuses nothing. -/
theorem Releasable.of_release {s t : State} {m : Fin 32} (hr : (getA s m).run = .waiting .sync) (hl : lockstep s m = [m])
    (hh : holdOf (updA s m fun x => x.release.refresh) m = none)
    (hf : (getA (updA s m fun x => x.release.refresh) m).refused = none) (e : getA t m = (getA s m).lineUp) :
    Releasable t m where
  run := by rw [e]; exact hr
  alone := by
    rw [← hl]
    simp only [lockstep, members, e, Arr.lineUp]
  released := by rw [e]; rfl
  accepted := by
    rw [getA_updA_same] at hf
    rw [← hf, e]
    rfl
  hold := by
    have hs : (getA (updA s m fun x => x.release.refresh) m).released = true := by
      rw [getA_updA_same, Arr.refresh_released]; rfl
    have ht : (getA (updA t m Arr.refresh) m).released = true := by
      rw [getA_updA_same, Arr.refresh_released, e]; rfl
    rw [← hh, holdOf_released hs, holdOf_released ht, getA_updA_same, getA_updA_same, e]
    rfl

theorem Releasable.begins {s : State} {m : Fin 32} (h : Releasable s m) :
    beginCycle s (lockstep s m) = updA s m fun x => x.refresh.beginIssue := by
  rw [h.alone]
  exact beginCycle_waiting h.run (by simp) h.hold (by rw [getA_updA_same]; exact h.accepted)

/-- R113: released bundles begin to issue one after another, none in the way of the next. -/
theorem foldl_beginCycle {ms : List (Fin 32)} (nd : ms.Nodup) (s : State) (h : ∀ m ∈ ms, Releasable s m) :
    ms.foldl (fun t m => beginCycle t (lockstep t m)) s = updAll s ms fun x => x.refresh.beginIssue := by
  induction ms generalizing s with
  | nil => rfl
  | cons a ms ih =>
    obtain ⟨ha, nd⟩ := List.nodup_cons.1 nd
    rw [List.foldl_cons, (h a List.mem_cons_self).begins, updAll_cons]
    refine ih nd _ fun m hm => (h m (List.mem_cons_of_mem a hm)).congr (getA_updA_ne s _ ?_)
    exact fun e => ha (e ▸ hm)

/-- R232: sequencers outside chains each begin their own unit. -/
theorem unitHeads_alone {s : State} {ms : List (Fin 32)} (h : ∀ m ∈ ms, lockstep s m = [m]) : unitHeads s ms = ms := by
  refine List.filter_eq_self.2 fun m hm => decide_eq_true ?_
  cases hf : ms.find? fun n => (lockstep s n).contains m with
  | none => simpa [h m hm] using List.find?_eq_none.1 hf m hm
  | some n =>
    have hn := List.find?_some hf
    rw [h n (List.mem_of_find?_eq_some hf)] at hn
    simpa [eq_comm] using hn

/-- R113: a member of a line that is ready waits on it with its whole bundle. -/
theorem syncReady_member {s : State} {a : Fin 32} {ms : List (Fin 32)} (h : syncReady s a = some ms) {m : Fin 32}
    (hm : m ∈ ms) : (getA s m).run = .waiting .sync ∧ (getA s m).resume = 0 := by
  unfold syncReady at h
  split at h
  · cases h
  · split at h
    · cases h
    · next g _ _ _ =>
      obtain ⟨ok, e⟩ := Option.ite_none_right_eq_some.1 h
      obtain rfl := Option.some.inj e
      have hall := List.all_eq_true.1 (Bool.and_eq_true_iff.1 ok).2 m hm
      simp only [Bool.and_eq_true, decide_eq_true_eq] at hall
      obtain ⟨⟨⟨run, group, -⟩, -⟩, -⟩ := hall
      refine ⟨run, ?_⟩
      unfold Arr.syncGroup at group
      split at group
      · next first => exact first.1
      · cases group

/-- R114: the time at which a line releases: as it stands, or with a `REALIGN` the next multiple of 4,096. -/
def releaseTime (s : State) (ms : List (Fin 32)) : State :=
  if ms.any fun m => (getA s m).isRealign then { s with ptime := (s.ptime / 4096 + 1) * 4096 } else s

theorem getA_releaseTime (s : State) (ms : List (Fin 32)) (m : Fin 32) : getA (releaseTime s ms) m = getA s m := by
  unfold releaseTime
  split <;> rfl

theorem releaseTime_ptime (s : State) (ms : List (Fin 32)) :
    if ∃ m ∈ ms, (getA s m).isRealign = true then
      s.ptime < (releaseTime s ms).ptime ∧ (releaseTime s ms).ptime % 4096 = 0 ∧ (releaseTime s ms).ptime ≤ s.ptime + 4096
    else (releaseTime s ms).ptime = s.ptime := by
  have any := List.any_eq_true (l := ms) (p := fun m => (getA s m).isRealign)
  unfold releaseTime
  split
  · next h =>
    rw [if_pos (any.2 h)]
    dsimp only
    omega
  · next h => rw [if_neg fun k => h (any.1 k)]

/-- R113, R114: the members of a line as it releases, before their bundles begin. -/
def linedUp (s : State) (ms : List (Fin 32)) : State := updAll (releaseTime s ms) ms Arr.lineUp

/-- R113, R232: the state in which a line has released its members and their units have begun their cycles. -/
def lineReleased (s : State) (ms : List (Fin 32)) : State :=
  (unitHeads (linedUp s ms) ms).foldl (fun t m => beginCycle t (lockstep t m)) (linedUp s ms)

/-- R113: a line whose members are ready releases them together or not at all. -/
theorem syncRelease_eq {s : State} {a : Fin 32} {ms : List (Fin 32)} (hr : (getA s a).run = .waiting .sync)
    (hs : syncReady s a = some ms) : syncRelease s a
      = if ms.all fun m => decide ((getA (lineReleased s ms) m).run = .issuing 0) then some (lineReleased s ms) else none := by
  unfold syncRelease
  rw [if_pos hr, hs]
  rfl

theorem getA_linedUp {s : State} {ms : List (Fin 32)} (nd : ms.Nodup) (m : Fin 32) :
    getA (linedUp s ms) m = if m ∈ ms then (getA s m).lineUp else getA s m := by
  rw [linedUp, getA_updAll nd, getA_releaseTime]

/-- R113, R114: where the members are ready, outside chains and held back by nothing else, their bundles all begin. -/
theorem lineReleased_eq {s : State} {a : Fin 32} {ms : List (Fin 32)} (hs : syncReady s a = some ms) (nd : ms.Nodup)
    (h : ∀ m ∈ ms, lockstep s m = [m] ∧ holdOf (updA s m fun x => x.release.refresh) m = none
      ∧ (getA (updA s m fun x => x.release.refresh) m).refused = none) :
    lineReleased s ms = updAll (linedUp s ms) ms fun x => x.refresh.beginIssue := by
  have free : ∀ m ∈ ms, Releasable (linedUp s ms) m := by
    intro m hm
    obtain ⟨alone, hold, accepted⟩ := h m hm
    exact .of_release (syncReady_member hs hm).1 alone hold accepted (by rw [getA_linedUp nd, if_pos hm])
  rw [lineReleased, unitHeads_alone fun m hm => (free m hm).alone, foldl_beginCycle nd _ free]

/-- R113, R114: each member then issues from its first slot, and no other array changes. -/
theorem getA_issued {s : State} {ms : List (Fin 32)} (nd : ms.Nodup) (m : Fin 32) :
    getA (updAll (linedUp s ms) ms fun x => x.refresh.beginIssue) m
      = if m ∈ ms then (getA s m).lineUp.refresh.beginIssue else getA s m := by
  rw [getA_updAll nd, getA_linedUp nd]
  split <;> rfl

/-- R113, R114: such a line releases, and what it leads to is the state in which every member issues. -/
theorem syncRelease_begins {s : State} {a : Fin 32} {ms : List (Fin 32)} (hr : (getA s a).run = .waiting .sync)
    (hs : syncReady s a = some ms) (nd : ms.Nodup)
    (h : ∀ m ∈ ms, lockstep s m = [m] ∧ holdOf (updA s m fun x => x.release.refresh) m = none
      ∧ (getA (updA s m fun x => x.release.refresh) m).refused = none) :
    syncRelease s a = some (updAll (linedUp s ms) ms fun x => x.refresh.beginIssue) := by
  rw [syncRelease_eq hr hs, lineReleased_eq hs nd h]
  refine if_pos (List.all_eq_true.2 fun m hm => decide_eq_true ?_)
  rw [getA_issued nd, if_pos hm, (Arr.issues_beginIssue _).1]
  exact congrArg Run.issuing (syncReady_member hs hm).2

/-- R113: members that a line releases all issue from their first slot. -/
theorem syncRelease_issuing {s t : State} {a : Fin 32} {ms : List (Fin 32)} (ht : syncRelease s a = some t)
    (hs : syncReady s a = some ms) {m : Fin 32} (hm : m ∈ ms) : (getA t m).run = .issuing 0 := by
  have hr : (getA s a).run = .waiting .sync := by
    refine Decidable.byContradiction fun hr => ?_
    rw [syncRelease, if_neg hr] at ht
    cases ht
  rw [syncRelease_eq hr hs] at ht
  obtain ⟨all, e⟩ := Option.ite_none_right_eq_some.1 ht
  rw [← Option.some.inj e]
  exact of_decide_eq_true (List.all_eq_true.1 all m hm)

/-- R113: a line that is not ready releases nothing. -/
theorem syncRelease_none {s : State} {a : Fin 32} (hs : syncReady s a = none) : syncRelease s a = none := by
  unfold syncRelease
  rw [hs]
  split <;> rfl

theorem exec_syncRelease_some {s t : State} {a : Fin 32} (h : syncRelease s a = some t) : exec (.syncRelease a) s = .next t :=
  congrArg (fun r : Option State => Host.Outcome.next (r.getD s)) h

theorem exec_syncRelease_none {s : State} {a : Fin 32} (h : syncRelease s a = none) : exec (.syncRelease a) s = .next s :=
  congrArg (fun r : Option State => Host.Outcome.next (r.getD s)) h

theorem linedUp_ptime (s : State) (ms : List (Fin 32)) :
    (updAll (linedUp s ms) ms fun x => x.refresh.beginIssue).ptime = (releaseTime s ms).ptime := by
  rw [updAll_arrs, linedUp, updAll_arrs]

/-! ### The statement -/

/-- Settles O27: the moves over a unit act on each of its arrays once, beats are steady, and bundles whose wait ends begin on
their own. -/
theorem cycles : Obligations.Cycles := by
  unfold Obligations.Cycles
  refine ⟨fun s a => ⟨fun nd h => ?_, activeArrayCycle_held, fun nd h => ?_, frozenArrayCycle_none, fun h => ?_, fun h => ?_⟩
    , fun s a ms => ⟨fun hr hs hh hu ready => ?_, fun h => ?_, fun hr hs nd ready => ?_, fun t ht hs => ?_, fun hs => ?_⟩⟩
  · exact ⟨_, activeArrayCycle_passes h, fun m hm => unitCycle_member s nd hm, fun b hb => unitCycle_other s nd hb
      , unitCycle_mem s _⟩
  · refine ⟨_, frozenArrayCycle_passes h, fun m hm => ?_, fun b hb => ?_, unitFrozen_mem s _⟩
    · have left := Arr.frozenTick_retLeft (x := getA s m)
      obtain ⟨n, e⟩ := (getA s m).frozenTick_eq
      rw [getA_unitFrozen s nd, if_pos hm]
      rw [e] at left ⊢
      exact ⟨rfl, rfl, rfl, rfl, rfl, rfl, rfl, fun k hk => congrArg Run.frozen hk, left⟩
    · rw [getA_unitFrozen s nd, if_neg hb]
  · rw [freezeEnd_eq, if_pos h]
  · rw [freezeEnd_eq, if_neg h]
  · obtain ⟨alone, hold, accepted⟩ := ready
    refine ⟨_, swaitRelease_begins hr hs hh hu alone hold accepted, ?_, fun b hb => getA_updA_ne s _ hb⟩
    change Issues (getA s a) (getA _ a)
    rw [getA_updA_same]
    exact (getA s a).issues_beginIssue
  · refine if_neg fun ⟨hr, hs, _, hu⟩ => ?_
    rcases h with h | h | h
    · cases hs.symm.trans h
    · exact h hr
    · cases hu.symm.trans h
  · refine ⟨_, exec_syncRelease_some (syncRelease_begins hr hs nd ready), fun m hm => ?_, fun b hb => ?_, ?_⟩
    · change Issues (getA s m) (getA _ m) ∧ (getA _ m).released = true
      rw [getA_issued nd, if_pos hm]
      exact ⟨(getA s m).lineUp_issues, (getA s m).lineUp_issues_released⟩
    · rw [getA_issued nd, if_neg hb]
    · rw [linedUp_ptime]
      exact releaseTime_ptime s ms
  · exact ⟨exec_syncRelease_some ht, fun m hm => syncRelease_issuing ht hs hm⟩
  · exact exec_syncRelease_none (syncRelease_none hs)

end Sys2Proof.Machine
end

section
/-! PROOF. Waits in slot 0 and bytes of memory (O6, O58): what the line of a `SYNC` and the stream of a `SWAIT` answer, and
what a write by physical address does to the bytes, to the poison and to the rest of the state. -/

namespace Sys2Proof.Machine

/-! ### Sync lines (R113, R114) -/

/-- R113: a sequencer has a group to wait with where the group is its own, number 0, or a line that lists it. -/
theorem syncMembers_eq_some_iff {s : State} {a : Fin 32} {g : BitVec 8} :
    (∃ ms, syncMembers s a g = some ms) ↔
      g = 0 ∨ ∃ l, s.lines.find? (fun l => l.ctx = (getA s a).ctx && l.group = g) = some l ∧ a ∈ l.members := by
  unfold syncMembers
  dsimp only
  split
  · next own => simp [own]
  · next other =>
    rw [or_iff_right other]
    split
    · next l found => simp [found]
    · next missing => simp [missing]

/-- R113: a sequencer that no line of its group lists has none to wait with. -/
theorem syncMembers_eq_none {s : State} {a : Fin 32} {g : BitVec 8} (hg : g ≠ 0)
    (h : ∀ l ∈ s.lines, l.ctx = (getA s a).ctx → l.group = g → a ∉ l.members) : syncMembers s a g = none := by
  rw [Option.eq_none_iff_forall_ne_some]
  intro ms hms
  obtain own | ⟨l, found, listed⟩ := syncMembers_eq_some_iff.1 ⟨ms, hms⟩
  · exact hg own
  · have key := List.find?_some found
    simp only [Bool.and_eq_true, decide_eq_true_eq] at key
    exact h l (List.mem_of_find?_eq_some found) key.1 key.2 listed

/-- R113, R114: once the line has released the bundle, it goes on. -/
theorem syncForm_released {s : State} (g : BitVec 8) (realign : Bool) (h : (curA s).released = true) :
    syncForm g realign s = updCur s fun x => { x with released := false, aligned := x.aligned || realign } := by
  unfold syncForm
  exact updCur_congr s (if_pos h)

/-- R113, R114: a member that is not released waits. -/
theorem syncForm_waits {s : State} {g : BitVec 8} (realign : Bool) (h : (curA s).released = false)
    (hm : ∃ ms, syncMembers s s.cur g = some ms) :
    syncForm g realign s = updCur s fun x => { x with run := .waiting .sync } := by
  obtain ⟨ms, hm⟩ := hm
  unfold syncForm
  refine updCur_congr s ?_
  rw [h, hm]
  rfl

/-- R113, R338: a sequencer outside the group raises the schedule fault of subcause 13. -/
theorem syncForm_outside {s : State} {g : BitVec 8} (realign : Bool) (h : (curA s).released = false)
    (hm : syncMembers s s.cur g = none) :
    syncForm g realign s = trapped s 0 0 .schedule (BitVec.ofNat 48 (13 + 256 * g.toNat)) := by
  rw [← updCur_slotFault]
  unfold syncForm
  refine updCur_congr s ?_
  rw [h, hm]
  rfl

/-! ### Streams that a `SWAIT` asks (R116) -/

/-- R239: with no reposition pending, forms find a stream in its own mode. -/
theorem Arr.modeOf_settled {x : Arr} (h : x.reposition = []) (q : Fin 16) : x.modeOf q = x.streams[q].mode := by
  simp [Arr.modeOf, h]

/-- R152: with no reposition pending, a bound stream holds the blocks buffered. -/
theorem Arr.level_settled {x : Arr} {q : Fin 16} (h : x.reposition = []) (hm : x.streams[q].mode = .bound) :
    x.level q = x.streams[q].buf.length := by
  simp only [Arr.level, h, hm, List.filter_nil, List.foldl_nil]

/-- R116: a bound stream lets a `SWAIT` within its depth go on exactly when it holds the blocks. -/
theorem swaitState_bound {x : Arr} {q : Fin 16} {n : Nat} (h : x.reposition = []) (hm : x.streams[q].mode = .bound)
    (hn : n ≤ x.streams[q].desc.depth) : swaitState x q n = .inr (decide (n ≤ x.streams[q].buf.length)) := by
  simp only [swaitState, Arr.modeOf_settled h, hm, Arr.level_settled h hm, if_neg (Nat.not_lt.2 hn)]

/-- R116: an unbound stream makes a `SWAIT` a schedule fault of subcause 2. -/
theorem swaitState_unbound {x : Arr} {q : Fin 16} (n : Nat) (h : x.reposition = [])
    (hm : x.streams[q].mode = .unbound) : swaitState x q n = .inl 2 := by
  simp only [swaitState, Arr.modeOf_settled h, hm]

/-! ### The forms -/

section Forms
variable {s : State} {p : Fin 8}

theorem exec_scope (sc : Scope) (h : s.lets p) :
    exec (.scope p sc) s = .next (updCur s fun x => { x with scope := sc }) :=
  congrArg Host.Outcome.next (gated_lets h)

theorem exec_freeze (n : BitVec 16) (h : s.lets p) :
    exec (.freeze p n) s = .next (updCur s fun x => { x with freeze := n.toNat }) :=
  congrArg Host.Outcome.next (gated_lets h)

theorem exec_sync (g : BitVec 8) (h : s.lets p) : exec (.sync p g) s = .next (syncForm g false s) :=
  congrArg Host.Outcome.next (gated_lets h)

theorem exec_realign (h : s.lets p) : exec (.realign p) s = .next (syncForm 0 true s) :=
  congrArg Host.Outcome.next (gated_lets h)

/-- R116: what a `SWAIT` does is what its stream answers. -/
theorem exec_swait_blocks {q : Fin 16} {n : BitVec 10} {there : Bool} (h : s.lets p)
    (hs : swaitState (curA s) q n.toNat = .inr there) :
    exec (.swait p q n) s = .next (if there then s else updCur s fun x => { x with run := .waiting .swait }) := by
  refine congrArg Host.Outcome.next ((gated_lets h).trans ?_)
  cases there
  · refine updCur_congr s ?_
    rw [hs]
  · refine (updCur_congr s ?_).trans (updCur_id s)
    rw [hs]

/-- R116, R338: a `SWAIT` that cannot wait raises the schedule fault of its stream. -/
theorem exec_swait_fault {q : Fin 16} {n : BitVec 10} {sub : Nat} (h : s.lets p)
    (hs : swaitState (curA s) q n.toNat = .inl sub) :
    exec (.swait p q n) s = .next (trapped s 0 0 .schedule (BitVec.ofNat 48 (sub + 256 * q.val))) := by
  refine congrArg Host.Outcome.next ((gated_lets h).trans ?_)
  rw [← updCur_slotFault]
  refine updCur_congr s ?_
  rw [hs]
  rfl

end Forms

/-- Settles O6: a `SYNC` or `REALIGN` does what its line makes of it, released, waiting or outside, and a `SWAIT` what its
stream answers. -/
theorem waits : Obligations.Waits := by
  unfold Obligations.Waits
  refine ⟨fun s p sc n hp => ⟨rfl, exec_scope sc hp, exec_freeze n hp⟩,
    fun s p g q n hp => ⟨fun free => ⟨?_, ?_⟩, fun held member => ?_, fun held => ?_, fun held hg out => ?_,
      fun settled bound depth => ?_, fun settled unbound => ?_⟩⟩
  · rw [exec_sync g hp, syncForm_released g false free]
    simp only [Bool.or_false]
  · rw [exec_realign hp, syncForm_released 0 true free]
    simp only [Bool.or_true]
  · rw [exec_sync g hp, syncForm_waits false held (syncMembers_eq_some_iff.2 member)]
  · rw [exec_realign hp, syncForm_waits true held (syncMembers_eq_some_iff.2 (.inl rfl))]
  · rw [exec_sync g hp, syncForm_outside false held (syncMembers_eq_none hg out)]
  · rw [exec_swait_blocks hp (swaitState_bound settled bound depth)]
    simp only [decide_eq_true_eq]
  · rw [exec_swait_fault hp (swaitState_unbound n.toNat settled unbound)]

/-! ### Lists of numbers -/

theorem mem_setInsert_self (l : List Nat) (k : Nat) : k ∈ setInsert l k := by
  induction l with
  | nil => exact List.mem_singleton_self k
  | cons k' l ih =>
    unfold setInsert
    split
    · next e => exact e ▸ List.mem_cons_self
    · split
      · exact List.mem_cons_self
      · exact List.mem_cons_of_mem _ ih

theorem hasNat_setErase_self (l : List Nat) (k : Nat) : hasNat (setErase l k) k = false := by
  simp [hasNat, setErase]

/-! ### Several bytes read back (R37, R142) -/

/-- R37, R142: bytes written read back, little-endian. -/
theorem Memory.readN_writeN (m : List Host.Cell) (a n v : Nat) :
    Memory.readN (Memory.writeN m a n v) a n = v % 2 ^ (8 * n) := by
  induction n generalizing m a v with
  | zero => simp [Memory.readN, Nat.mod_one]
  | succ n ih =>
    have low : (Memory.read (Memory.writeN (Memory.write m a (BitVec.ofNat 8 v)) (a + 1) n (v / 256)) a).toNat
        = v % 256 := by
      rw [Memory.read_writeN_out _ _ _ _ _ (.inl (Nat.lt_succ_self a)), Memory.read_write, if_pos rfl, BitVec.toNat_ofNat]
    rw [Memory.writeN, Memory.readN, low, ih, Nat.mul_succ, Nat.add_comm (8 * n), Nat.pow_add, Nat.mod_mul]

/-- R178: the combined bytes are as many as are asked for. -/
theorem fillBytes_lt (s : State) (a n : Nat) : fillBytes s a n < 2 ^ (8 * n) := by
  induction n generalizing a with
  | zero => simp [fillBytes]
  | succ n ih =>
    have rest := ih (a + 1)
    rw [Nat.mul_succ, Nat.pow_add]
    unfold fillBytes
    dsimp only
    split
    · next k _ =>
      have byte := (Config.bankByte k (bits a 0 22)).isLt
      omega
    · omega

/-- R178: they depend on the banks with undefined contents alone. -/
theorem fillBytes_congr {s t : State} (h : t.fills = s.fills) (a n : Nat) : fillBytes t a n = fillBytes s a n := by
  induction n generalizing a with
  | zero => rfl
  | succ n ih => rw [fillBytes, fillBytes, ih, h]

/-! ### Poison of a sector (R384, R385) -/

/-- R384: the poison of a whole sector is that of its own entry. -/
theorem poisonAt_sector (s : State) {a : Nat} (h : a % 32 = 0) : poisonAt s a 32 = hasNat s.poison (a / 32) := by
  have one : (a + 32 - 1) / 32 + 1 - a / 32 = 1 := by omega
  rw [poisonAt, one]
  simp

/-- R384, R385: a sector entered as poisoned has an entry, or its page is to be quarantined. -/
theorem enterPoison_enters (s : State) (k : Nat) :
    k ∈ (enterPoison s k).poison ∨ 32 * k / 65536 ∈ (enterPoison s k).toQuarantine := by
  unfold enterPoison
  dsimp only
  split
  · next listed => exact .inl (List.contains_iff_mem.1 listed)
  · split
    · exact .inr (mem_setInsert_self _ _)
    · exact .inl (mem_setInsert_self _ _)

/-- R384, R385: entering poison changes the entries and the pages to quarantine alone. -/
theorem enterPoison_frame (s : State) (k : Nat) :
    enterPoison s k = { s with poison := (enterPoison s k).poison, toQuarantine := (enterPoison s k).toQuarantine } := by
  unfold enterPoison
  dsimp only
  split
  · rfl
  · split <;> rfl

/-! ### Writes by physical address (R384, R385) -/

/-- R385: a write to a quarantined page is dropped. -/
theorem writePhys_quarantined {s : State} {a : Nat} (n v : Nat) (bad : Bool) (h : quarantinedAt s a = true) :
    writePhys s a n v bad = s := if_pos h

section Written
variable {s : State} {a : Nat}

/-- The state with the bytes of a write in memory, before its poison. -/
def stored (s : State) (a n v : Nat) : State :=
  { s with mem := Memory.writeN s.mem a n (v % 2 ^ (8 * n) ^^^ fillBytes s a n) }

/-- R384: what a write outside the quarantined pages does to the poison. -/
theorem writePhys_eq (n v : Nat) (bad : Bool) (h : quarantinedAt s a = false) :
    writePhys s a n v bad =
      if bad then enterPoison (stored s a n v) (a / 32)
      else if n = 32 then { stored s a n v with poison := setErase s.poison (a / 32) }
      else stored s a n v := by
  unfold writePhys
  rw [h]
  rfl

theorem writePhys_mem (n v : Nat) (bad : Bool) (h : quarantinedAt s a = false) :
    (writePhys s a n v bad).mem = (stored s a n v).mem := by
  rw [writePhys_eq n v bad h]
  split
  · exact enterPoison_mem _ _
  · split <;> rfl

/-- R384, R385: a write changes the bytes, the poison and the pages to quarantine alone. -/
theorem writePhys_frame (n v : Nat) (bad : Bool) (h : quarantinedAt s a = false) :
    writePhys s a n v bad = { s with
      mem := (writePhys s a n v bad).mem
      poison := (writePhys s a n v bad).poison
      toQuarantine := (writePhys s a n v bad).toQuarantine } := by
  rw [writePhys_eq n v bad h]
  split
  · rw [enterPoison_frame]
    rfl
  · split <;> rfl

/-- R142, R178: the bytes written read back through the fill of an undefined bank. -/
theorem bytesAt_writePhys (n v : Nat) (bad : Bool) (h : quarantinedAt s a = false) :
    bytesAt (writePhys s a n v bad) a n = v % 2 ^ (8 * n) := by
  have fills : (writePhys s a n v bad).fills = s.fills := by rw [writePhys_frame n v bad h]
  have fits : v % 2 ^ (8 * n) ^^^ fillBytes s a n < 2 ^ (8 * n) :=
    Nat.xor_lt_two_pow (Nat.mod_lt _ (Nat.two_pow_pos _)) (fillBytes_lt s a n)
  calc bytesAt (writePhys s a n v bad) a n
      = (v % 2 ^ (8 * n) ^^^ fillBytes s a n) % 2 ^ (8 * n) ^^^ fillBytes s a n := by
        rw [bytesAt, fillBytes_congr fills, writePhys_mem n v bad h, stored, Memory.readN_writeN]
    _ = v % 2 ^ (8 * n) := by rw [Nat.mod_eq_of_lt fits, Nat.xor_assoc, Nat.xor_self, Nat.xor_zero]

/-- R384: a whole clean sector frees its poison. -/
theorem poisonAt_writePhys_clean (v : Nat) (h : quarantinedAt s a = false) (ha : a % 32 = 0) :
    poisonAt (writePhys s a 32 v false) a 32 = false := by
  rw [writePhys_eq 32 v false h, poisonAt_sector _ ha]
  exact hasNat_setErase_self s.poison (a / 32)

/-- R384, R385: a poisoned write enters its sector or quarantines its page. -/
theorem writePhys_poisoned (n v : Nat) (h : quarantinedAt s a = false) :
    a / 32 ∈ (writePhys s a n v true).poison ∨ a / 65536 ∈ (writePhys s a n v true).toQuarantine := by
  have page : a / 65536 = 32 * (a / 32) / 65536 := by omega
  rw [writePhys_eq n v true h, page]
  exact enterPoison_enters (stored s a n v) (a / 32)

end Written

/-- Settles O58: outside the quarantined pages a write is its bytes in memory and its poison, and nothing else; inside, nothing. -/
theorem memoryReadsBack : Obligations.MemoryReadsBack := by
  unfold Obligations.MemoryReadsBack
  intro s a n v bad t
  refine ⟨fun kept => ⟨bytesAt_writePhys n v bad kept, fun z out => ?_, wf_writePhys a n v bad, ?_, ?_,
    writePhys_frame n v bad kept⟩, writePhys_quarantined n v bad⟩
  · rw [writePhys_mem n v bad kept]
    exact Memory.read_writeN_out _ _ _ _ _ out
  · rintro rfl rfl whole
    exact poisonAt_writePhys_clean v kept whole
  · rintro rfl
    exact writePhys_poisoned n v kept

end Sys2Proof.Machine
end
